-- ==== Sys2Proof/Word.lean ====
section
/-! DEFINITION. Words, bytes and lane values of the ZK7 (spec/00_scope.md R2, R3; spec/02_execution.md R26), and the
sorted map that memory, register rows and the objects of the machine are kept in. -/

namespace Sys2Proof

/-- A byte. -/
abbrev Byte := BitVec 8

/-- A 32-bit word: one lane of one register (R26). -/
abbrev Word := BitVec 32

/-- A 64-bit word: a program counter, a virtual address, a content name. -/
abbrev DWord := BitVec 64

/-- A lane mask: bit l stands for lane l (R8). -/
abbrev Mask := BitVec 32

/-- A register row: one word for each of the 32 lanes (R26). -/
abbrev Row := Vector Word 32

/-- The row that holds one word in every lane. -/
def Row.const (v : Word) : Row := Vector.ofFn fun _ => v

/-- The row of zeros. -/
abbrev Row.zero : Row := Row.const 0#32

/-- A map from numbers, held as a list of pairs whose keys rise strictly. A key that is not listed reads as the
value that the reader names as its default. -/
abbrev FMap (α : Type) := List (Nat × α)

/-- The value of a key, `d` when the key is not listed. -/
def FMap.get {α : Type} (d : α) : FMap α → Nat → α
  | [], _ => d
  | (k, v) :: m, j => if j = k then v else FMap.get d m j

/-- Lists a key with a value, at its place in the order. -/
def FMap.put {α : Type} : FMap α → Nat → α → FMap α
  | [], j, v => [(j, v)]
  | (k, u) :: m, j, v =>
    if j < k then (j, v) :: (k, u) :: m
    else if j = k then (j, v) :: m
    else (k, u) :: FMap.put m j v

/-- Takes a key off the list. -/
def FMap.erase {α : Type} (m : FMap α) (j : Nat) : FMap α := m.filter fun e => e.1 != j

/-- Writes a key: a key written with the default is not listed, so that equal maps are equal lists. -/
def FMap.set {α : Type} [DecidableEq α] (d : α) (m : FMap α) (j : Nat) (v : α) : FMap α :=
  if v = d then m.erase j else m.put j v

/-- The keys rise strictly. -/
def FMap.sorted {α : Type} (m : FMap α) : Bool := decide (List.Pairwise (fun x y => x.1 < y.1) m)

/-- The canonical form: the keys rise strictly and no entry holds the default. -/
def FMap.wf {α : Type} [DecidableEq α] (d : α) (m : FMap α) : Bool :=
  m.sorted && m.all fun e => decide (e.2 ≠ d)

/-- Byte `i` of a word of any width, the least significant byte first (R3). -/
def byteOf {n : Nat} (v : BitVec n) (i : Nat) : Byte := v.extractLsb' (8 * i) 8

/-- The `n` low bytes of a word, the least significant first (R3). -/
def bytesOf {n : Nat} (v : BitVec n) (k : Nat) : List Byte := (List.range k).map (byteOf v)

/-- The number that a list of bytes holds, the first byte the least significant (R3). -/
def ofBytes : List Byte → Nat
  | [] => 0
  | b :: bs => b.toNat + 256 * ofBytes bs

end Sys2Proof
end

