-- ==== Sys2Proof/Syntax.lean ====
section
/-! DEFINITION. The instructions: the fields of the four word formats and of the prefix (spec/07_encoding.md R151 to
R155), the names of the objects that operations and events are about, and the one inductive `Instr`. -/

namespace Sys2Proof

/-- The prefix of an instruction (R154): guard sense, guard predicate, whether the guard applies, and the 19 bits of
ext, which hold layout E or layout X. -/
structure Prefix where
  gn : Bool
  gp : BitVec 3
  ge : Bool
  ext : BitVec 19
  deriving DecidableEq, Repr

/-- An instruction begins with a prefix or it does not (R151). -/
abbrev Pre := Option Prefix

/-- An R word of the three latch families (R152, R153). -/
structure RWord where
  d : BitVec 7
  a : BitVec 7
  b : BitVec 7
  la : Bool
  lb : Bool
  nw : Bool
  deriving DecidableEq, Repr

/-- An R word of any other opcode: bits 2:0 are 0 or the selector of a shared slot (R153, R166). -/
structure SWord where
  d : BitVec 7
  a : BitVec 7
  b : BitVec 7
  deriving DecidableEq, Repr

/-- An I word (R152). -/
structure IWord where
  d : BitVec 7
  a : BitVec 7
  imm : BitVec 10
  deriving DecidableEq, Repr

/-- An M word (R152). -/
structure MWord where
  d : BitVec 7
  x : BitVec 7
  k : BitVec 5
  order : BitVec 2
  scope : BitVec 2
  e : Bool
  deriving DecidableEq, Repr

/-- The imm24 of a C word (R152). -/
abbrev CWord := BitVec 24

/-- A group: its core, its block and its index in the block (R26, R33). -/
structure GroupAt where
  core : Nat
  block : Nat
  ix : Nat
  deriving DecidableEq, Repr

/-- Who issues an instruction: a split of a group (R27), a feed thread (R57), or nobody. -/
inductive Who where
  | split (g : GroupAt) (sid : Nat)
  | thread (core block t : Nat)
  | nobody
  deriving DecidableEq, Repr

/-- Where the dispatcher places one block (R39, R47): the core and the first slot, register row, scratchpad row, tile
and FIFO in the partition's ranges. -/
structure Place where
  core : Nat
  slot : Nat
  row : Nat
  sprow : Nat
  tile : Nat
  fifo : Nat
  deriving DecidableEq, Repr

/-- A barrier: the one of a block or the one of a gang (R216). -/
inductive BarrierAt where
  | block (core block : Nat)
  | gang (gang : Nat)
  deriving DecidableEq, Repr

/-- A partition's range of each resource, the same in every core (R39): first and count. -/
structure Ranges where
  slot0 : Nat
  slots : Nat
  row0 : Nat
  rows : Nat
  sprow0 : Nat
  sprows : Nat
  tile0 : Nat
  tiles : Nat
  fifo0 : Nat
  fifos : Nat
  deriving DecidableEq, Repr

/-- A store of banked state that carries a check (R340, R361): its code in CTXDERR. -/
inductive BankStore where
  | registers | scratchpad | tiles | fifos | control
  deriving DecidableEq, Repr

/-- Where an uncorrectable error strikes (R340): a line of memory or of a cache, a weight-store line, a row of
banked state, a stored content line, a park record, or the carry of a line over the mesh. -/
inductive EccPlace where
  | line (pa : Nat)
  | cleanLine (pa : Nat)
  | weightLine (a : Nat)
  | bank (g : GroupAt) (store : BankStore) (row : Nat)
  | content (part : Nat) (name : DWord)
  | park (req : Nat)
  deriving DecidableEq, Repr

/-- A voltage and frequency island (R21). -/
inductive Island where
  | core (n : Nat)
  | cluster (n : Nat)
  | slice (n : Nat)
  | segment (n : Nat)
  | phy (n : Nat)
  deriving DecidableEq, Repr

/-- The firmware image that the boot ROM finds (R16, R358, R360): whether its signature verifies, its security
version and its SHA-256 digest. -/
structure BootImage where
  verifies : Bool
  version : Word
  digest : List Byte
  deriving DecidableEq, Repr

/-- An attempt on a trust anchor (R25, R358); the load of a key slot names the hart that reads it. -/
inductive TrustAccess where
  | rootPortWindow
  | keySlotRead (slot : Nat)
  | keySlotWrite (slot : Nat) (key : BitVec 512)
  | keySlotLoad (core slot : Nat)
  | powerLimit
  deriving DecidableEq, Repr

/-- The privilege mode of a supervisor hart (R15). -/
inductive HartMode where
  | m | s | u
  deriving DecidableEq, Repr

/-- What an atomic does with the old value m, the operand v and, for cas, the new value c (R213). -/
inductive AtomOp where
  | add | minS | minU | maxS | maxU | and | or | xor | xchg | cas | incw | fadd | fmin | fmax
  deriving DecidableEq, Repr

/-- The instructions of the machine: one constructor for each row of spec/opcode_table.json. An instruction
row carries its optional prefix word and its word (R151 to R154); a row of the operations and events carries the
arguments that say which object it is about. -/
inductive Instr where
  /-- R185, opcode 0x02. -/
  | bra (p : Pre) (w : CWord)
  /-- R185, opcode 0x03. -/
  | braR (p : Pre) (w : SWord)
  /-- R185, opcode 0x04. -/
  | brcAny (p : Pre) (w : IWord)
  /-- R185, opcode 0x05. -/
  | brcAll (p : Pre) (w : IWord)
  /-- R185, opcode 0x06. -/
  | brcZ (p : Pre) (w : IWord)
  /-- R185, opcode 0x07. -/
  | brcNz (p : Pre) (w : IWord)
  /-- R185, opcode 0x08. -/
  | brd (p : Pre) (w : IWord)
  /-- R185, opcode 0x09. -/
  | brdZ (p : Pre) (w : IWord)
  /-- R185, opcode 0x0A. -/
  | brdNz (p : Pre) (w : IWord)
  /-- R186, opcode 0x0B. -/
  | call (p : Pre) (w : CWord)
  /-- R186, opcode 0x0C. -/
  | callR (p : Pre) (w : SWord)
  /-- R186, opcode 0x0D. -/
  | ret (p : Pre) (w : SWord)
  /-- R187, opcode 0x0E. -/
  | exit (p : Pre) (w : CWord)
  /-- R188, opcode 0x0F. -/
  | wbase (p : Pre) (w : IWord)
  /-- R188, opcode 0x10. -/
  | wbaseR (p : Pre) (w : SWord)
  /-- R189, opcode 0x11. -/
  | yield (p : Pre) (w : CWord)
  /-- R190, opcode 0x12. -/
  | trap (p : Pre) (w : CWord)
  /-- R306, opcode 0x13. -/
  | spop (p : Pre) (w : CWord)
  /-- R191, opcode 0x20. -/
  | add (p : Pre) (w : RWord)
  /-- R192, opcode 0x21. -/
  | addi (p : Pre) (w : IWord)
  /-- R191, opcode 0x22. -/
  | sub (p : Pre) (w : RWord)
  /-- R191, opcode 0x23. -/
  | addSatI32 (p : Pre) (w : RWord)
  /-- R191, opcode 0x24. -/
  | addSatN32 (p : Pre) (w : RWord)
  /-- R191, opcode 0x25. -/
  | subSatI32 (p : Pre) (w : RWord)
  /-- R191, opcode 0x26. -/
  | subSatN32 (p : Pre) (w : RWord)
  /-- R191, opcode 0x27. -/
  | mul (p : Pre) (w : RWord)
  /-- R192, opcode 0x28. -/
  | muli (p : Pre) (w : IWord)
  /-- R191, opcode 0x29. -/
  | mulhI32 (p : Pre) (w : RWord)
  /-- R191, opcode 0x2A. -/
  | mulhN32 (p : Pre) (w : RWord)
  /-- R191, opcode 0x2B. -/
  | mad (p : Pre) (w : RWord)
  /-- R191, opcode 0x2C. -/
  | madwI32 (p : Pre) (w : RWord)
  /-- R191, opcode 0x2D. -/
  | madwN32 (p : Pre) (w : RWord)
  /-- R191, opcode 0x2E. -/
  | minI32 (p : Pre) (w : RWord)
  /-- R191, opcode 0x2F. -/
  | minN32 (p : Pre) (w : RWord)
  /-- R191, opcode 0x30. -/
  | maxI32 (p : Pre) (w : RWord)
  /-- R191, opcode 0x31. -/
  | maxN32 (p : Pre) (w : RWord)
  /-- R192, opcode 0x32. -/
  | miniI32 (p : Pre) (w : IWord)
  /-- R192, opcode 0x33. -/
  | miniN32 (p : Pre) (w : IWord)
  /-- R192, opcode 0x34. -/
  | maxiI32 (p : Pre) (w : IWord)
  /-- R192, opcode 0x35. -/
  | maxiN32 (p : Pre) (w : IWord)
  /-- R191, opcode 0x36. -/
  | abs (p : Pre) (w : RWord)
  /-- R191, opcode 0x37. -/
  | neg (p : Pre) (w : RWord)
  /-- R191, opcode 0x38. -/
  | and (p : Pre) (w : RWord)
  /-- R192, opcode 0x39. -/
  | andi (p : Pre) (w : IWord)
  /-- R191, opcode 0x3A. -/
  | or (p : Pre) (w : RWord)
  /-- R192, opcode 0x3B. -/
  | ori (p : Pre) (w : IWord)
  /-- R191, opcode 0x3C. -/
  | xor (p : Pre) (w : RWord)
  /-- R192, opcode 0x3D. -/
  | xori (p : Pre) (w : IWord)
  /-- R191, opcode 0x3E. -/
  | not (p : Pre) (w : RWord)
  /-- R191, opcode 0x3F. -/
  | andn (p : Pre) (w : RWord)
  /-- R192, opcode 0x40. -/
  | andni (p : Pre) (w : IWord)
  /-- R191, opcode 0x41. -/
  | shl (p : Pre) (w : RWord)
  /-- R192, opcode 0x42. -/
  | shli (p : Pre) (w : IWord)
  /-- R191, opcode 0x43. -/
  | shr (p : Pre) (w : RWord)
  /-- R192, opcode 0x44. -/
  | shri (p : Pre) (w : IWord)
  /-- R191, opcode 0x45. -/
  | sha (p : Pre) (w : RWord)
  /-- R192, opcode 0x46. -/
  | shai (p : Pre) (w : IWord)
  /-- R191, opcode 0x47. -/
  | rol (p : Pre) (w : RWord)
  /-- R192, opcode 0x48. -/
  | roli (p : Pre) (w : IWord)
  /-- R191, opcode 0x49. -/
  | ror (p : Pre) (w : RWord)
  /-- R191, opcode 0x4A. -/
  | popc (p : Pre) (w : RWord)
  /-- R191, opcode 0x4B. -/
  | clz (p : Pre) (w : RWord)
  /-- R191, opcode 0x4C. -/
  | ctz (p : Pre) (w : RWord)
  /-- R191, opcode 0x4D. -/
  | brev (p : Pre) (w : RWord)
  /-- R192, opcode 0x4E. -/
  | bfxI32 (p : Pre) (w : IWord)
  /-- R192, opcode 0x4F. -/
  | bfxN32 (p : Pre) (w : IWord)
  /-- R192, opcode 0x50. -/
  | bfi (p : Pre) (w : IWord)
  /-- R191, opcode 0x51. -/
  | sel (p : Pre) (w : RWord)
  /-- R191, opcode 0x52. -/
  | mov (p : Pre) (w : RWord)
  /-- R192, opcode 0x53. -/
  | movi (p : Pre) (w : IWord)
  /-- R192, opcode 0x54. -/
  | movh (p : Pre) (w : IWord)
  /-- R191, opcode 0x55. -/
  | lea (p : Pre) (w : RWord)
  /-- R192, opcode 0x56. -/
  | leai (p : Pre) (w : IWord)
  /-- R191, opcode 0x57. -/
  | bfxrI32 (p : Pre) (w : RWord)
  /-- R191, opcode 0x58. -/
  | bfxrN32 (p : Pre) (w : RWord)
  /-- R191, opcode 0x59. -/
  | bfir (p : Pre) (w : RWord)
  /-- R192, opcode 0x5A. -/
  | rsubi (p : Pre) (w : IWord)
  /-- R198, opcode 0x60. -/
  | fadd (p : Pre) (w : RWord)
  /-- R198, opcode 0x61. -/
  | fsub (p : Pre) (w : RWord)
  /-- R198, opcode 0x62. -/
  | fmul (p : Pre) (w : RWord)
  /-- R198, opcode 0x63. -/
  | ffma (p : Pre) (w : RWord)
  /-- R198, opcode 0x64. -/
  | ffms (p : Pre) (w : RWord)
  /-- R198, opcode 0x65. -/
  | fnma (p : Pre) (w : RWord)
  /-- R198, opcode 0x66. -/
  | fmin (p : Pre) (w : RWord)
  /-- R198, opcode 0x67. -/
  | fmax (p : Pre) (w : RWord)
  /-- R198, opcode 0x68. -/
  | frcp (p : Pre) (w : RWord)
  /-- R198, opcode 0x69. -/
  | frsq (p : Pre) (w : RWord)
  /-- R198, opcode 0x6A. -/
  | fsqrt (p : Pre) (w : RWord)
  /-- R198, opcode 0x6B. -/
  | fexp2 (p : Pre) (w : RWord)
  /-- R198, opcode 0x6C. -/
  | flog2 (p : Pre) (w : RWord)
  /-- R200, opcode 0x6D. -/
  | fclass (p : Pre) (w : RWord)
  /-- R198, opcode 0x6E. -/
  | faddX2 (p : Pre) (w : RWord)
  /-- R198, opcode 0x6F. -/
  | fsubX2 (p : Pre) (w : RWord)
  /-- R198, opcode 0x70. -/
  | fmulX2 (p : Pre) (w : RWord)
  /-- R198, opcode 0x71. -/
  | ffmaX2 (p : Pre) (w : RWord)
  /-- R198, opcode 0x72. -/
  | fminX2 (p : Pre) (w : RWord)
  /-- R198, opcode 0x73. -/
  | fmaxX2 (p : Pre) (w : RWord)
  /-- R198, opcode 0x74. -/
  | frcpX2 (p : Pre) (w : RWord)
  /-- R198, opcode 0x75. -/
  | frsqX2 (p : Pre) (w : RWord)
  /-- R198, opcode 0x76. -/
  | fsqrtX2 (p : Pre) (w : RWord)
  /-- R198, opcode 0x77. -/
  | fexp2X2 (p : Pre) (w : RWord)
  /-- R198, opcode 0x78. -/
  | flog2X2 (p : Pre) (w : RWord)
  /-- R236, opcode 0x79. -/
  | cvtFromF32 (p : Pre) (w : RWord)
  /-- R236, opcode 0x7A. -/
  | cvtFromF16 (p : Pre) (w : RWord)
  /-- R236, opcode 0x7B. -/
  | cvtFromBf16 (p : Pre) (w : RWord)
  /-- R236, opcode 0x7C. -/
  | cvtFromE4m3 (p : Pre) (w : RWord)
  /-- R236, opcode 0x7D. -/
  | cvtFromE5m2 (p : Pre) (w : RWord)
  /-- R236, opcode 0x7E. -/
  | cvtFromI32 (p : Pre) (w : RWord)
  /-- R236, opcode 0x7F. -/
  | cvtFromN32 (p : Pre) (w : RWord)
  /-- R236, opcode 0x80. -/
  | cvtFromI64 (p : Pre) (w : RWord)
  /-- R236, opcode 0x81. -/
  | cvtFromN64 (p : Pre) (w : RWord)
  /-- R236, opcode 0x82. -/
  | cvtFromI16 (p : Pre) (w : RWord)
  /-- R236, opcode 0x83. -/
  | cvtFromN16 (p : Pre) (w : RWord)
  /-- R236, opcode 0x84. -/
  | cvtFromI8 (p : Pre) (w : RWord)
  /-- R236, opcode 0x85. -/
  | cvtFromN8 (p : Pre) (w : RWord)
  /-- R236, opcode 0x86. -/
  | cvtFromI4 (p : Pre) (w : RWord)
  /-- R237, opcode 0x87. -/
  | cvtPk (p : Pre) (w : RWord)
  /-- R237, opcode 0x87. -/
  | cvtPkHi (p : Pre) (w : RWord)
  /-- R193, opcode 0x90. -/
  | cmpI32 (p : Pre) (w : RWord)
  /-- R193, opcode 0x91. -/
  | cmpN32 (p : Pre) (w : RWord)
  /-- R193, opcode 0x92. -/
  | cmpF32 (p : Pre) (w : RWord)
  /-- R193, opcode 0x93. -/
  | cmpiI32 (p : Pre) (w : IWord)
  /-- R193, opcode 0x94. -/
  | cmpiN32 (p : Pre) (w : IWord)
  /-- R194, opcode 0x95. -/
  | pand (p : Pre) (w : RWord)
  /-- R194, opcode 0x96. -/
  | por (p : Pre) (w : RWord)
  /-- R194, opcode 0x97. -/
  | pxor (p : Pre) (w : RWord)
  /-- R194, opcode 0x98. -/
  | pnot (p : Pre) (w : RWord)
  /-- R194, opcode 0x99. -/
  | pmov (p : Pre) (w : RWord)
  /-- R195, opcode 0x9A. -/
  | shflIdx (p : Pre) (w : RWord)
  /-- R195, opcode 0x9B. -/
  | shflUp (p : Pre) (w : RWord)
  /-- R195, opcode 0x9C. -/
  | shflDown (p : Pre) (w : RWord)
  /-- R195, opcode 0x9D. -/
  | shflXor (p : Pre) (w : RWord)
  /-- R195, opcode 0x9E. -/
  | shfliIdx (p : Pre) (w : IWord)
  /-- R195, opcode 0x9F. -/
  | shfliUp (p : Pre) (w : IWord)
  /-- R195, opcode 0xA0. -/
  | shfliDown (p : Pre) (w : IWord)
  /-- R195, opcode 0xA1. -/
  | shfliXor (p : Pre) (w : IWord)
  /-- R196, opcode 0xA2. -/
  | voteAny (p : Pre) (w : RWord)
  /-- R196, opcode 0xA3. -/
  | voteAll (p : Pre) (w : RWord)
  /-- R196, opcode 0xA4. -/
  | voteEq (p : Pre) (w : RWord)
  /-- R196, opcode 0xA5. -/
  | ballot (p : Pre) (w : RWord)
  /-- R196, opcode 0xA6. -/
  | reduxAdd (p : Pre) (w : RWord)
  /-- R196, opcode 0xA7. -/
  | reduxMinI32 (p : Pre) (w : RWord)
  /-- R196, opcode 0xA8. -/
  | reduxMinN32 (p : Pre) (w : RWord)
  /-- R196, opcode 0xA9. -/
  | reduxMaxI32 (p : Pre) (w : RWord)
  /-- R196, opcode 0xAA. -/
  | reduxMaxN32 (p : Pre) (w : RWord)
  /-- R196, opcode 0xAB. -/
  | reduxAnd (p : Pre) (w : RWord)
  /-- R196, opcode 0xAC. -/
  | reduxOr (p : Pre) (w : RWord)
  /-- R196, opcode 0xAD. -/
  | reduxXor (p : Pre) (w : RWord)
  /-- R206, opcode 0xB0. -/
  | ld (p : Pre) (w : MWord)
  /-- R206, opcode 0xB1. -/
  | ldB128 (p : Pre) (w : MWord)
  /-- R206, opcode 0xB2. -/
  | st (p : Pre) (w : MWord)
  /-- R206, opcode 0xB3. -/
  | stB128 (p : Pre) (w : MWord)
  /-- R208, opcode 0xB4. -/
  | ldfeKeep (p : Pre) (w : MWord)
  /-- R208, opcode 0xB5. -/
  | ldfeClr (p : Pre) (w : MWord)
  /-- R208, opcode 0xB6. -/
  | stfe (p : Pre) (w : MWord)
  /-- R208, opcode 0xB7. -/
  | feset (p : Pre) (w : MWord)
  /-- R208, opcode 0xB8. -/
  | feclr (p : Pre) (w : MWord)
  /-- R209, opcode 0xB9. -/
  | ldt (p : Pre) (w : MWord)
  /-- R210, opcode 0xBA. -/
  | pref (p : Pre) (w : MWord)
  /-- R212, opcode 0xBB. -/
  | rld (p : Pre) (w : MWord)
  /-- R212, opcode 0xBC. -/
  | rset (p : Pre) (w : IWord)
  /-- R212, opcode 0xBD. -/
  | rget (p : Pre) (w : IWord)
  /-- R212, opcode 0xBE. -/
  | rmov (p : Pre) (w : SWord)
  /-- R213, opcode 0xBF. -/
  | atomAdd (p : Pre) (w : MWord)
  /-- R213, opcode 0xC0. -/
  | atomMin (p : Pre) (w : MWord)
  /-- R213, opcode 0xC1. -/
  | atomMax (p : Pre) (w : MWord)
  /-- R213, opcode 0xC2. -/
  | atomAnd (p : Pre) (w : MWord)
  /-- R213, opcode 0xC3. -/
  | atomOr (p : Pre) (w : MWord)
  /-- R213, opcode 0xC4. -/
  | atomXor (p : Pre) (w : MWord)
  /-- R213, opcode 0xC5. -/
  | atomXchg (p : Pre) (w : MWord)
  /-- R213, opcode 0xC6. -/
  | atomCas (p : Pre) (w : MWord)
  /-- R213, opcode 0xC7. -/
  | atomIncw (p : Pre) (w : MWord)
  /-- R213, opcode 0xC8. -/
  | redAdd (p : Pre) (w : MWord)
  /-- R213, opcode 0xC9. -/
  | redMin (p : Pre) (w : MWord)
  /-- R213, opcode 0xCA. -/
  | redMax (p : Pre) (w : MWord)
  /-- R213, opcode 0xCB. -/
  | redAnd (p : Pre) (w : MWord)
  /-- R213, opcode 0xCC. -/
  | redOr (p : Pre) (w : MWord)
  /-- R213, opcode 0xCD. -/
  | redXor (p : Pre) (w : MWord)
  /-- R213, opcode 0xCE. -/
  | atomfAdd (p : Pre) (w : MWord)
  /-- R213, opcode 0xCE. -/
  | atomfMin (p : Pre) (w : MWord)
  /-- R213, opcode 0xCE. -/
  | atomfMax (p : Pre) (w : MWord)
  /-- R215, opcode 0xD0. -/
  | fence (p : Pre) (w : MWord)
  /-- R215, opcode 0xD1. -/
  | xfence (p : Pre) (w : MWord)
  /-- R219, opcode 0xD6. -/
  | qpush (p : Pre) (w : SWord)
  /-- R219, opcode 0xD7. -/
  | qpop (p : Pre) (w : SWord)
  /-- R219, opcode 0xD8. -/
  | qtry (p : Pre) (w : SWord)
  /-- R219, opcode 0xD9. -/
  | qallow (p : Pre) (w : IWord)
  /-- R219, opcode 0xDA. -/
  | qinit (p : Pre) (w : IWord)
  /-- R221, opcode 0xDB. -/
  | evwait (p : Pre) (w : IWord)
  /-- R221, opcode 0xDC. -/
  | evset (p : Pre) (w : IWord)
  /-- R221, opcode 0xDD. -/
  | evclr (p : Pre) (w : IWord)
  /-- R221, opcode 0xDE. -/
  | evtest (p : Pre) (w : IWord)
  /-- R224, opcode 0xE0. -/
  | mma (p : Pre) (w : SWord)
  /-- R224, opcode 0xE1. -/
  | mmaW (p : Pre) (w : SWord)
  /-- R224, opcode 0xE2. -/
  | cmma (p : Pre) (w : SWord)
  /-- R229, opcode 0xE3. -/
  | aclr (p : Pre) (w : SWord)
  /-- R231, opcode 0xE4. -/
  | adrain (p : Pre) (w : MWord)
  /-- R231, opcode 0xE5. -/
  | afill (p : Pre) (w : MWord)
  /-- R235, opcode 0xE6. -/
  | ast (p : Pre) (w : MWord)
  /-- R233, opcode 0xE6. -/
  | astW (p : Pre) (w : MWord)
  /-- R233, opcode 0xE6. -/
  | astI (p : Pre) (w : MWord)
  /-- R230, opcode 0xE7. -/
  | amov (p : Pre) (w : SWord)
  /-- R230, opcode 0xE7. -/
  | amovGet (p : Pre) (w : SWord)
  /-- R230, opcode 0xE7. -/
  | amovPut (p : Pre) (w : SWord)
  /-- R232, opcode 0xE8. -/
  | bndrd (p : Pre) (w : SWord)
  /-- R232, opcode 0xE8. -/
  | bndrdK (p : Pre) (w : SWord)
  /-- R232, opcode 0xE9. -/
  | bndwr (p : Pre) (w : SWord)
  /-- R232, opcode 0xEA. -/
  | bndthr (p : Pre) (w : IWord)
  /-- R232, opcode 0xEB. -/
  | bndchk (p : Pre) (w : SWord)
  /-- R238, opcode 0xEC. -/
  | cvtq (p : Pre) (w : SWord)
  /-- R239, opcode 0xED. -/
  | srseed (p : Pre) (w : SWord)
  /-- R240, opcode 0xEE. -/
  | smerge (p : Pre) (w : SWord)
  /-- R243, opcode 0xF0. -/
  | fork (p : Pre) (w : CWord)
  /-- R243, opcode 0xF0. -/
  | forkHandle (p : Pre) (w : CWord)
  /-- R245, opcode 0xF1. -/
  | rdv (p : Pre) (w : SWord)
  /-- R245, opcode 0xF1. -/
  | rdvAll (p : Pre) (w : SWord)
  /-- R246, opcode 0xF2. -/
  | acopy (p : Pre) (w : MWord)
  /-- R247, opcode 0xF2. -/
  | acopyA (p : Pre) (w : MWord)
  /-- R247, opcode 0xF2. -/
  | acopyB (p : Pre) (w : MWord)
  /-- R250, opcode 0xF3. -/
  | mfill (p : Pre) (w : MWord)
  /-- R251, opcode 0xF4. -/
  | bcopy (p : Pre) (w : SWord)
  /-- R251, opcode 0xF4. -/
  | cacopy (p : Pre) (w : SWord)
  /-- R249, opcode 0xF5. -/
  | acwait (p : Pre) (w : SWord)
  /-- R252, opcode 0xF5. -/
  | bcwait (p : Pre) (w : SWord)
  /-- R253, opcode 0xF6. -/
  | cains (p : Pre) (w : SWord)
  /-- R253, opcode 0xF6. -/
  | cainsN (p : Pre) (w : SWord)
  /-- R254, opcode 0xF7. -/
  | caget (p : Pre) (w : SWord)
  /-- R255, opcode 0xF7. -/
  | carefInc (p : Pre) (w : SWord)
  /-- R255, opcode 0xF7. -/
  | carefDec (p : Pre) (w : SWord)
  /-- R255, opcode 0xF7. -/
  | carefPin (p : Pre) (w : SWord)
  /-- R256, opcode 0xF8. -/
  | caswap (p : Pre) (w : MWord)
  /-- R258, opcode 0xF9. -/
  | kvwalk (p : Pre) (w : SWord)
  /-- R254, opcode 0xF9. -/
  | cawalk (p : Pre) (w : SWord)
  /-- R259, opcode 0xFA. -/
  | launch (p : Pre) (w : SWord)
  /-- R261, opcode 0xFB. -/
  | sysrd (p : Pre) (w : IWord)
  /-- R261, opcode 0xFC. -/
  | syswr (p : Pre) (w : IWord)
  /-- R264, opcode 0xFD. -/
  | tlbinv (p : Pre) (w : SWord)
  /-- R264, opcode 0xFD. -/
  | shoot (p : Pre) (w : SWord)
  /-- R264, opcode 0xFD. -/
  | shootCtx (p : Pre) (w : SWord)
  /-- R265, opcode 0xFD. -/
  | ctxsw (p : Pre) (w : SWord)
  /-- R266, opcode 0xFD. -/
  | uien (p : Pre) (w : SWord)
  /-- R190, opcode 0x01: it has no operand. A guard changes nothing that it does but what it waits for (R184, R157), which the model reads
  in its prefix word. -/
  | nop
  /-- R217, opcode 0xD2: it has no operand; a guard is as for NOP. -/
  | bar
  /-- R217, opcode 0xD3: it has no operand; a guard is as for NOP. -/
  | bara
  /-- R217, opcode 0xD4: it has no operand; a guard is as for NOP. -/
  | barw
  /-- R217, opcode 0xD5: it has no operand; a guard is as for NOP. -/
  | gbar
  /-- R309. -/
  | userInterruptDelivery
  /-- R28. -/
  | splitMerge
  /-- R31. -/
  | stackPop
  /-- R189. -/
  | yieldTimeout
  /-- R45. -/
  | launchTake
  /-- R47. -/
  | gangPlace
  /-- R29. -/
  | blockRetire
  /-- R48. -/
  | gridRetire
  /-- R216. -/
  | barrierPhaseComplete
  /-- R56. -/
  | queueRetry
  /-- R83. -/
  | ldfeRetry
  /-- R59. -/
  | preemptSwap
  /-- R59. -/
  | spill
  /-- R265. -/
  | restoreLoad
  /-- R265. -/
  | stagedSwap
  /-- R65. -/
  | stallReport
  /-- R317. -/
  | hangReport
  /-- R226. -/
  | quarterBind
  /-- R227. -/
  | passStart
  /-- R228. -/
  | passPromote
  /-- R63. -/
  | completion
  /-- R82. -/
  | copyLanding
  /-- R73. -/
  | pageWalk
  /-- R214. -/
  | homeSliceAtomic
  /-- R80. -/
  | readWindowClose
  /-- R281. -/
  | park
  /-- R284. -/
  | faultRecordPost
  /-- R286. -/
  | redrive
  /-- R111. -/
  | inboundPostedWrite
  /-- R293. -/
  | inboundRead
  /-- R293. -/
  | inboundTimeout
  /-- R294. -/
  | peerFailureCompletion
  /-- R18. -/
  | relaxedFlushAck
  /-- R91. -/
  | pageInJob
  /-- R251. -/
  | bulkCopyJob
  /-- R150. -/
  | cacopyJob
  /-- R142. -/
  | caInsert
  /-- R145. -/
  | lovageReclaim
  /-- R98. -/
  | savoryScrub
  /-- R87. -/
  | wsRefreshOpen
  /-- R87. -/
  | wsRefreshClose
  /-- R97. -/
  | congestionMark
  /-- R97. -/
  | injectionRateRecover
  /-- R340. -/
  | eccCorrected
  /-- R340. -/
  | eccUncorrectable
  /-- R353. -/
  | linkCheckFail
  /-- R353. -/
  | portDown
  /-- R354. -/
  | mmioReadTimeout
  /-- R355. -/
  | cxlPoisonCompletion
  /-- R24. -/
  | clockIslandSwitch
  /-- R357. -/
  | throttleRaise
  /-- R357. -/
  | throttleLower
  /-- R357. -/
  | thermalReset
  /-- R16. -/
  | powerOnBoot
  /-- R21. -/
  | powerRemove
  /-- R359. -/
  | sidebandReset
  /-- R360. -/
  | attestation
  /-- R359. -/
  | sidebandNack
  /-- R262. -/
  | launchq
  /-- R318. -/
  | killctx
  /-- R139. -/
  | careset
  /-- R262. -/
  | caframe
  /-- R262. -/
  | uiraise
  /-- R263. -/
  | stallstClear
  /-- R305. -/
  | ctxerrClear
  /-- R332. -/
  | lrefuseClear
  /-- R310. -/
  | mfreezeFreeze
  /-- R312. -/
  | mfreezeDiscard
  /-- R305. -/
  | xpcWrite
  /-- R284. -/
  | fqheadAdvance
  /-- R297. -/
  | poolTake64k
  /-- R297. -/
  | poolTake2m
  /-- R297. -/
  | poolTake1g
  /-- R356. -/
  | plango
  /-- R362. -/
  | portRetrain
  /-- R362. -/
  | portRearm
  /-- R362. -/
  | portstClear
  /-- R362. -/
  | memerrClear
  /-- R361. -/
  | ctxderrClear
  /-- R358. -/
  | trustWriteRefused
  /-- R261. -/
  | registerWrite
  /-- R37. -/
  | contextCreate
  /-- R39. -/
  | partitionRangesSet
  /-- R15. -/
  | supervisorHartAccess
  /-- R353. -/
  | portRetrained
  deriving DecidableEq, Repr

end Sys2Proof
end

