-- ==== Sys2Proof/Machine/State.lean ====
section
/-! DEFINITION. The state of the machine as plain data, the reasons a step can stop, and the state after reset.
Every piece of state that spec/ names stands here (INVENTORY.md lists it rule by rule); the fields that are the model's
own are marked so (assumption log 1). -/

namespace Sys2Proof.Machine

/-- Physical memory (R13): a byte that nothing has written reads as 0 (assumption log 3). -/
abbrev Memory := FMap Byte

/-- The register state of a group or of a feed thread (R14, R34, R158 to R160, R244). -/
structure RegFile where
  /-- Register rows 0 to 16 x units - 1 (R34); a row that is not listed holds zeros. -/
  rows : FMap Row
  /-- s0 to s15 (R160). -/
  s : Vector Word 16
  /-- p0 to p7, one bit for each lane (R158). -/
  p : Vector Mask 8
  /-- k0 to k31 (R67); a slot that is not listed holds 0. -/
  k : FMap (BitVec 256)
  /-- WBASE, in units of 16 rows (R159). -/
  wbase : Nat
  /-- regunits of the launch parameter block (R40); 2 for a feed thread, which has v0 to v31 (R244). -/
  units : Nat
  deriving DecidableEq, Repr

/-- What a split or feed thread waits in (R49, R65, R204). -/
inductive Wait where
  /-- Not ready: an operand, a scoreboard entry, an order or the depth rule (R49, R201, R205, R304). -/
  | operand
  /-- The fetch of its instruction (R278). -/
  | fetch
  /-- FENCE, with its acquire and release sides (R215). -/
  | fence (acq rel : Bool)
  /-- XFENCE, with the class it orders after itself (R215). -/
  | xfence (dst : Nat)
  /-- The accesses that EVSET or LAUNCH waits for (R221, R259). -/
  | release
  | bar | barw | gbar
  | qpush | qpop
  | ldfe
  | event
  | rdv
  | acwait | bcwait
  | fork
  /-- ACOPY or MFILL without FIFO room or copy slots (R247, R248). -/
  | copy
  /-- A bulk copy beyond the 64 unfinished jobs of the context (R251). -/
  | job
  /-- The read of a launch parameter block (R259). -/
  | lpb
  /-- The full launch queue (R44). -/
  | launch
  | matrixFull
  /-- Tile order (R223). -/
  | tile
  /-- The walks of an atomic or full/empty instruction (R301). -/
  | walks
  /-- A trap held back while another split is in a handler (R304). -/
  | handler
  /-- SPOP while other splits share its depth (R306). -/
  | merge
  /-- An STFE, FESET or FECLR that has yet to take its step in a block that has left its bank (R60, R208). -/
  | away
  deriving DecidableEq, Repr

/-- A split of a group (R27), or the one program of a feed thread. -/
structure Split where
  live : Bool
  pc : DWord
  mask : Mask
  /-- Age stamp (R49). -/
  age : Nat
  /-- Trap depth (R304). -/
  depth : Nat
  wait : Option Wait
  /-- The model's own: whether its turn of this cycle has passed (assumption log 1). -/
  tried : Bool
  /-- The model's own: the number of the issue at which the split last issued. -/
  stamp : Nat
  /-- After YIELD: the splits that must issue, the number of the issue, and the cycle that ends
  the wait (R189). -/
  yield : Option (List Who × Nat × Nat)
  /-- Instructions of the latch families issued in a row without a switch (R51 to R53). -/
  run : Nat
  /-- The lanes in which a waiting full/empty instruction has taken its step (R208). -/
  got : Mask
  /-- The launch parameter block that a waiting LAUNCH has read (R259). -/
  lpb : Option (BitVec 1024)
  /-- What a waiting instruction waits for: the number of the walks of an atomic (R301); the number of the first request
  that a waiting fence or release does not cover (R104, R215); the number of an access of class .simt that waits, which is its place in
  group order (R102); the phase of a barrier (R217); the event bit, or 256 once
  it was set at the end of a cycle (R221). -/
  walks : Option Nat
  /-- Instruction words that a fetch has delivered (R278), those of the instruction in which the split waits (R204), and those of the
  span inside which it stands (R52). -/
  words : List (Nat × Word)
  /-- The registers as they stood when a waiting instruction issued, from which it takes its operands (R201). -/
  snap : Option RegFile := none
  /-- Its position among the four split slots of its group (R28, R31, R49). -/
  pos : Nat := 0
  deriving DecidableEq, Repr

/-- An entry of the reconvergence stack (R30); `trap` is its kind. -/
structure StackEntry where
  pc : DWord
  mask : Mask
  trap : Bool
  /-- The lanes in which an LDFE that a user interrupt abandoned has taken its step (R204, R309). -/
  got : Mask := 0
  /-- The phase at which an abandoned BAR, BARW or GBAR waited, or 256 for an EVWAIT that has been released (R217, R221, R309). -/
  walks : Option Nat := none
  /-- The registers from which an abandoned LDFE that has taken a step goes on (R204, R208, R309). -/
  snap : Option RegFile := none
  deriving DecidableEq, Repr

/-- Where a result lands: a register row, a uniform register, a predicate, a record slot or a tile (R282). -/
inductive Loc where
  | row (n : Nat)
  | s (n : Nat)
  | pred (n : Nat)
  | slot (n : Nat)
  | tile (n : Nat)
  deriving DecidableEq, Repr

/-- Bytes that a completion writes: into lane `lane` of `loc`, from byte `at` on (R287). -/
structure RegWrite where
  loc : Loc
  lane : Nat
  off : Nat
  bytes : List Byte
  deriving DecidableEq, Repr

/-- A scoreboard entry (R205, R287, R315): its destinations, its active and returned lanes, and how many requests of
the instruction have yet to land. -/
structure SbEntry where
  id : Nat
  dsts : List Loc
  active : Mask
  returned : Mask
  left : Nat
  deriving DecidableEq, Repr

/-- An accumulator tile: element (i, j) at 128 x i + j (R231); an element that is not listed is 0. -/
abbrev Tile := FMap Word

/-- A group (R26 to R34, R158, R160, R305). -/
structure Group where
  live : Bool
  rf : RegFile
  /-- Splits by number; the numbers are the model's own (assumption log 1). -/
  splits : FMap Split
  /-- The next split number. -/
  nextSplit : Nat
  /-- The reconvergence stack, the top entry first (R30). -/
  stack : List StackEntry
  /-- Latches b0 to b3 (R50). -/
  b : Vector Row 4
  /-- The split that issued last (R53). -/
  last : Option Nat
  /-- Generator state g of each lane (R124). -/
  gen : Row
  tiles : FMap Tile
  /-- Bound registers e0 to e31 (R130). -/
  bounds : FMap DWord
  /-- Thresholds (R130). -/
  thr : FMap (BitVec 8)
  xcause : Word
  xinfo : Word
  xmask : Word
  /-- MFREEZE bit 0 (R310). -/
  freeze : Bool
  /-- The user-interrupt enable mask (R266). -/
  uien : BitVec 8
  /-- UIPEND (R262). -/
  uipend : BitVec 8
  sb : List SbEntry
  /-- The fork set: handles (R243). -/
  forks : List Word
  /-- How many bulk jobs the group has numbered (R251). -/
  jobs : Nat
  /-- The last phase of the block barrier and of the gang barrier at which the group has arrived (R216). -/
  arrB : Option Nat
  arrG : Option Nat
  /-- The model's own: the number that the next object had at these arrivals, so that what an arrival releases (R108)
  can be told from what follows it. -/
  arrBAt : Nat
  arrGAt : Nat
  /-- The lanes that have executed BARA since the group last arrived (R217). -/
  bara : Mask
  /-- Whether the group has popped a divergence entry in this cycle (R31). -/
  popped : Bool
  deriving DecidableEq, Repr

/-- A named queue (R54); its ring stands in the scratchpad. -/
structure Queue where
  cap : Nat
  base : Nat
  head : Nat
  tail : Nat
  count : Nat
  allow : Nat
  deriving DecidableEq, Repr

/-- The scale, bound and magnitude of an operand row or tile, as FP32 (R125). -/
structure Triple where
  s : Word
  e : Word
  /-- As a binary64, which holds every magnitude exactly (assumption log 87). -/
  m : DWord
  deriving DecidableEq, Repr

/-- An entry of an operand FIFO (R125, R225 to R227, R247), in stream order. -/
structure FifoEntry where
  id : Nat
  isB : Bool
  ty : BitVec 8
  size : Nat
  data : FMap Byte
  trips : FMap Triple
  /-- The consumer count that is left (R226); an A entry carries none and holds 1. -/
  count : Nat
  present : Bool
  /-- A quarter op has bound the entry as its A entry (R226). -/
  taken : Bool
  /-- The unfinished quarter ops that have bound the entry as their B entry (R227). -/
  bound : Nat
  /-- The op that took the entry was discarded: it retires once it is present (R312). -/
  spent : Bool
  /-- A quarter op has bound the entry as its B entry, so that it is not unbound (R226). -/
  used : Bool := false
  deriving DecidableEq, Repr

/-- A feed thread (R57, R243, R244). -/
structure Thread where
  live : Bool
  ended : Bool
  sp : Split
  rf : RegFile
  handle : Word
  /-- The group that issued the FORK, by index in the block. -/
  forker : Nat
  deriving DecidableEq, Repr

/-- A block on a core (R33, R34, R81, R216, R316). -/
structure Block where
  live : Bool
  ctx : Nat
  part : Nat
  grid : Nat
  gang : Nat
  /-- Block index in the gang (R36). -/
  ix : Nat
  place : Place
  /-- Groups, and per group: register units, scratchpad rows, tiles, FIFOs (R40). -/
  g : Nat
  u : Nat
  sp : Nat
  t : Nat
  f : Nat
  prio : Nat
  wsr : Bool
  groups : FMap Group
  /-- Scratchpad bytes (R81); a byte that is not listed is 0. -/
  scratch : FMap Byte
  /-- Full/empty bits by granule (R81); a granule that is not listed is empty. -/
  fe : FMap Bool
  q : FMap Queue
  fifos : FMap (List FifoEntry)
  phase : Nat
  threads : FMap Thread
  deriving DecidableEq, Repr

/-- The kinds of product (R224). -/
inductive MatKind where
  | mma | mmaW | cmma
  deriving DecidableEq, Repr

/-- A quarter op in the matrix queue (R226). -/
structure QOp where
  id : Nat
  block : Nat
  group : Nat
  q : Nat
  kind : MatKind
  ty : BitVec 5
  tile : Nat
  fa : Nat
  fb : Nat
  a : Option Nat
  b : Option Nat
  tb : Nat
  begun : Bool
  deriving DecidableEq, Repr

/-- The running pass: its ops and the cycle it ends (R227). -/
structure Pass where
  ops : List Nat
  stop : Nat
  deriving DecidableEq, Repr

/-- A translation held by a TLB (R75). -/
structure TlbEntry where
  ctx : Nat
  va : Nat
  size : Nat
  pa : Nat
  cls : Nat
  tier : Nat
  x : Bool
  w : Bool
  rd : Bool
  /-- Filled by a request that set d (R73). -/
  d : Bool
  deriving DecidableEq, Repr

/-- An instruction of a hart whose window access waits: its bits, its length in bytes and the physical address (R295). -/
structure HartWait where
  word : Word
  len : Nat
  pa : Nat
  /-- The launch parameter block that a waiting write of LAUNCHQ named as it arrived (R262). -/
  lpb : Option (BitVec 1024) := none
  deriving DecidableEq, Repr

/-- A supervisor hart (R14, R15, R284, R295, R342): the state of RV64GC with the modes M, S and U (assumption log 9). -/
structure Hart where
  started : Bool
  mode : HartMode
  /-- mie bit 16 (R284). -/
  mie16 : Bool
  mcause : DWord
  /-- What its last access from outside its program returned: its attempt to read a key slot (R25). -/
  result : DWord
  pc : DWord := 0
  /-- x1 to x31 and f0 to f31; a register that is not listed holds 0. -/
  x : FMap DWord := []
  f : FMap DWord := []
  /-- The other control and status registers by number; one that is not listed holds 0. -/
  csr : FMap DWord := []
  /-- The reservation of LR: physical address, size and what was read. -/
  lr : Option (Nat × Nat × DWord) := none
  /-- The instruction whose window access waits (R295, R350). -/
  pending : Option HartWait := none
  deriving DecidableEq, Repr

/-- A swap in progress: the cycle after its last, and the contexts that leave and come (R59). -/
structure Swap where
  stop : Nat
  leaving : Option Nat
  coming : Option Nat
  deriving DecidableEq, Repr

/-- A core (R14, R49, R75, R226, R227, R243). -/
structure Core where
  /-- Blocks of the active bank and of the shadow bank. -/
  act : FMap Block
  sha : FMap Block
  /-- Contexts whose pre-emption is requested on this core (R59). -/
  preempt : List Nat
  /-- The contexts that CTXSW staged for these pre-emptions: outgoing and incoming context (R265). -/
  pairs : List (Nat × Nat)
  /-- The swaps in progress (R59). -/
  swaps : List Swap
  /-- The age counter (R49). -/
  age : Nat
  /-- Stamp last issued, by 4 x priority + issue slot (R49). -/
  last : FMap Nat
  /-- The model's own: the turns to come in this cycle, those through the gang window last (R56, R83, R84), and the splits that
  were ready at its start (R49). -/
  line : List Who := []
  late : List Who := []
  ready : List Who := []
  /-- The feed thread that issued last (R57). -/
  feedLast : Nat
  /-- The fork counter, 29 bits (R243). -/
  forks : BitVec 29
  mq : List QOp
  pass : Option Pass
  tlb : List TlbEntry
  /-- Lines in the L1 data cache, the newest first (R77, R78). -/
  l1 : List Nat := []
  hart : Hart
  /-- Effective clocks in kHz (R262). -/
  khz : Nat
  /-- The model's own: how many ck of `State.ck` the core's island has not counted, the part of a cycle, in kHz of the fastest core,
  that it has run since its last, and whether it has no cycle in this ck (R5, R24; assumption log 22). -/
  behind : Nat := 0
  phase : Nat := 0
  sits : Bool := false
  deriving DecidableEq, Repr

/-- An address space (R66). -/
inductive Space where
  | global | block | gang | weight | tree | peer | reserved
  deriving DecidableEq, Repr

/-- Who is behind a request (R100). -/
inductive Party where
  | group (core block ix : Nat)
  | thread (core block t : Nat)
  | job (id : Nat)
  | port (n : Nat)
  deriving DecidableEq, Repr

/-- The bytes of one lane that fall in the line of a request (R282): the lane, the first byte in the line, how many,
and which byte of the lane's access they begin at. -/
structure Piece where
  lane : Nat
  off : Nat
  n : Nat
  first : Nat
  deriving DecidableEq, Repr

/-- What a request does at its line (R206, R213, R253 to R256). -/
inductive ReqKind where
  | load
  /-- A load through LDT: far pages return no data (R90). -/
  | probe (ev : Nat)
  | store (bytes : List (Nat × Byte))
  | atom (op : AtomOp) (size : Nat) (v c : DWord)
  | caswap (v c : DWord)
  | pin
  | caInsert (kind : Nat) (line : Vector DWord 16)
  | caGet (name : DWord)
  | caWalk (root : DWord) (depth digits j : Nat)
  | caInc (name : DWord)
  | caDec (name : DWord)
  | fetch
  deriving DecidableEq, Repr

/-- Where a result goes (R282). -/
inductive Land where
  | none
  /-- Registers of a group (dkind 1 to 3): scoreboard entry, the destination words (none where one lies beyond the
  window), the predicate of LDT, the type code, the size of a lane's access, and the lowest active lane, whose value a
  uniform register takes. -/
  | regs (core block ix sb : Nat) (dst : List (Option Loc)) (pred : Option Nat) (ty : BitVec 5) (size low : Nat)
  | copy (id : Nat)
  | job (id : Nat)
  | fetch (w : Who)
  | port (n tag : Nat)
  deriving DecidableEq, Repr

/-- How far a request has come. -/
inductive ReqSt where
  | needWalk
  | mapped (pa cls tier : Nat)
  | failed (cause level : Nat) (pte : DWord)
  /-- Routed to Sorrel by a marker (R280). -/
  | routed
  /-- Performed, with the result that has yet to land. -/
  | done (ws : List RegWrite) (bytes : List (Nat × Byte))
  deriving DecidableEq, Repr

/-- A request that has left a core, an engine or a port, one for each unit of R282. -/
structure Req where
  id : Nat
  ctx : Nat
  part : Nat
  party : Party
  core : Nat
  gslot : Nat
  feed : Bool
  /-- The grid of the issuing group, 0 for a request of no group (R187). -/
  grid : Nat
  /-- Engine class (R114, R164). -/
  cls : Nat
  instr : Nat
  held : Bool
  kind : ReqKind
  space : Space
  /-- The address of the line: virtual, or a weight-store address, or the byte offset of a tree line. -/
  va : DWord
  /-- The root name and extent of a tree record (R147). -/
  root : DWord
  extent : Nat
  order : BitVec 2
  scope : BitVec 2
  st : ReqSt
  pieces : List Piece
  land : Land
  /-- The generation when its walk began (R76, R282). -/
  gen : Nat
  /-- Cache policy and use count of the record (R78, R79). -/
  policy : Nat
  uses : Nat
  /-- The model's own: its place in its party's order (R102): the number of the first request of its access, 0 for its own. -/
  seq : Nat := 0
  /-- Traffic class (R95). -/
  tc : Nat := 0
  /-- Opcode, type code and prefix sub of the issuing instruction (R282). -/
  op : BitVec 8 := 0
  ty : BitVec 5 := 0
  sub : BitVec 4 := 0
  /-- The slice and ring place of the record from which it was performed, until its completion has landed (R283). -/
  record : Option (Nat × Option Nat) := none
  /-- The lanes of a probe whose access began in the line before: the bytes there, none where its page was far (R90). -/
  carry : List (Nat × Option (List Byte)) := []
  deriving DecidableEq, Repr

/-- A park record (R282): the request, its slice, sequence number, cause and, for the fault record, the level and
entry at which its walk stopped. -/
structure ParkRec where
  req : Req
  slice : Nat
  seq : Word
  cause : Nat
  level : Nat
  pte : DWord
  /-- The nanosecond of its acceptance (R293). -/
  since : Nat
  /-- Whether Sorrel has tried the request: it does not wait only behind another (R281). -/
  tried : Bool := true
  /-- Whether its own translation has failed, so that its granule needs repair (R284). -/
  told : Bool := true
  /-- Its place in the overflow ring, none on chip (R283). -/
  ring : Option Nat := none
  deriving DecidableEq, Repr

/-- A fault record that waits for room in its queue (R284). -/
structure FaultRec where
  va : DWord
  pte : DWord
  seq : Word
  ctx : Nat
  part : Nat
  cause : Nat
  acc : Nat
  level : Nat
  slice : Nat
  src : Nat
  gen : Nat
  deriving DecidableEq, Repr

/-- What the bytes that a copy gathers are for. -/
inductive CopyKind where
  /-- ACOPY or MFILL into scratchpads: address, set option, and the blocks (core, block) where it has yet to land. -/
  | scratch (dst : Nat) (full : Bool) (targets : List (Nat × Nat))
  /-- A FIFO entry: FIFO and entry. -/
  | fifo (f entry : Nat)
  /-- One lane of a KVWALK (R258): record, route, position, depth, where its result lands, and, while it reads the page
  array, the token slot of the node. -/
  | kv (lane : Nat) (rec : BitVec 256) (route : DWord) (p depth : Nat) (land : Land) (page : Option Nat)
  /-- The launch parameter block of a LAUNCH (R259). -/
  | lpb (w : Who)
  deriving DecidableEq, Repr

/-- A copy in flight, or another transfer that several requests fill (R246 to R250, R258). -/
structure Copy where
  id : Nat
  ctx : Nat
  party : Party
  core : Nat
  block : Nat
  kind : CopyKind
  size : Nat
  left : Nat
  buf : FMap Byte
  /-- The model's own: what its requests are made from. -/
  like : Req
  /-- The lane that issued it (R282). -/
  lane : Nat := 0
  deriving DecidableEq, Repr

/-- The kinds of bulk job (R91, R150, R251). -/
inductive JobKind where
  | bulk | tree | pageIn
  deriving DecidableEq, Repr

/-- A bulk job (R91, R150, R251). -/
structure Job where
  id : Nat
  kind : JobKind
  ctx : Nat
  part : Nat
  party : Party
  /-- Other parties whose probes have joined a page-in job, with the number of the probe (R90). -/
  also : List (Party × Nat)
  /-- The handle (R251); for a page-in, which carries none, the number of the probe that posted it (R112). -/
  handle : Nat
  src : BitVec 256
  dst : BitVec 256
  len : Nat
  wsr : Bool
  /-- Whether a tree copy holds its reference on the root (R139, R150). -/
  holds : Bool := false
  /-- Event bits that its completion sets. -/
  ev : List Nat
  /-- 0: not started; 1: reading; 2: writing. -/
  phase : Nat
  left : Nat
  buf : FMap Byte
  /-- Page-in: page, size of the page, address and old value of the leaf, new frame (R91). -/
  page : Nat
  size : Nat
  leafAt : Nat
  leaf : DWord
  frame : Option Nat
  deriving DecidableEq, Repr

/-- Residency (R62). -/
inductive Residency where
  | resident | spilling | spilled | restoring
  deriving DecidableEq, Repr

/-- What a context's save image holds for one core (R313 to R316). -/
structure SavedCore where
  core : Nat
  blocks : FMap Block
  ops : List QOp
  /-- Chervil has written it to the save area. -/
  written : Bool
  deriving DecidableEq, Repr

/-- A context (R37, R38, R62, R262, R263, R285, R305, R332, R361). -/
structure Ctx where
  created : Bool
  part : Nat
  /-- The event vector as at the end of the previous cycle, and the clears and sets of this cycle (R46). -/
  ev : BitVec 256
  evClear : BitVec 256
  evSet : BitVec 256
  /-- Launch queues 0 to 3, the head first (R44). -/
  lq : FMap (List (BitVec 1024))
  tclass : Word
  stallst : Word
  ptroot : Nat
  tgen : Word
  keyslot : BitVec 8
  sys : Bool
  handler : DWord
  save : Nat
  launchqhi : BitVec 20
  redrivelo : Word
  ctxerr : Word
  lrefuse : Word
  ctxderr : Word
  res : Residency
  /-- Consecutive ck in which every resident group was blocked and no wait was satisfied (R65, R317). -/
  idle : Nat
  /-- Whether in these ck the context had an undispatched gang or a queued launch (R65, R317). -/
  owes : Bool
  /-- The save image, none when there is none (R313, R318). -/
  image : Option (List SavedCore)
  /-- The ranges in the header of the save image (R313). -/
  ranges : Option Ranges
  /-- A staged context (R265). -/
  staged : Bool
  killed : Bool
  deriving DecidableEq, Repr

/-- A stored content line (R140 to R144, R349). -/
structure CaEntry where
  digest : BitVec 52
  index : Nat
  kind : Nat
  line : Vector DWord 16
  count : Nat
  poisoned : Bool
  /-- The physical address of its line in the registered frames (R137), none where they hold no free line (assumption log 80). -/
  place : Option Nat := none
  /-- Whether a walk that passes through it is cached at L2 (R145, R147). -/
  walked : Bool := false
  /-- Whether CAPOIS has counted its poisoning (R349). -/
  counted : Bool := false
  deriving DecidableEq, Repr

/-- A partition (R39, R86, R137 to R149, R285, R361). -/
structure Part where
  ranges : Ranges
  /-- Weight-store segments granted (R86). -/
  segs : BitVec 128
  cakey : DWord
  cas : List CaEntry
  /-- Entries whose count fell to 0 and that Lovage has yet to free (R145). -/
  dying : List CaEntry
  frames : List Nat
  casat : Nat
  cafull : Nat
  capois : Nat
  fqbase : Nat
  fqsize : Nat
  fqhead : Nat
  fqtail : Nat
  fqhart : Nat
  pkbase : Nat
  pkioq : Nat
  /-- Fault records that wait for room (R284). -/
  faults : List FaultRec
  /-- The context last given a gang, by priority (R47). -/
  turn : FMap Nat
  /-- Injection rates as fractions of peak, by engine, where below peak (R97). -/
  rate : FMap (Nat × Nat)
  deriving DecidableEq, Repr

/-- A taken launch (R45, R47, R48). -/
structure Grid where
  live : Bool
  ctx : Nat
  lpb : BitVec 1024
  next : Nat
  retired : Nat
  deriving DecidableEq, Repr

/-- A placed gang (R35, R216). -/
structure Gang where
  live : Bool
  grid : Nat
  x : Nat
  y : Nat
  z : Nat
  cluster : Nat
  /-- Its blocks: core and block. -/
  blocks : List (Nat × Nat)
  left : Nat
  phase : Nat
  deriving DecidableEq, Repr

/-- A relaxed-channel write that its far side has yet to accept (R18): the number of its request, its party, and its bytes. -/
structure RelaxedWrite where
  num : Nat
  party : Party
  pa : Nat
  bytes : List (Nat × Byte)
  deriving DecidableEq, Repr

/-- A root port (0 to 7) or Acner port (8 to 23) (R17, R18, R282, R353 to R355, R361, R362). -/
structure Port where
  /-- 0 up, 1 retraining, 2 down, 3 not present. -/
  state : BitVec 2
  uncorr : Nat
  corr : Nat
  ioctx : Word
  /-- Poison treatment of a CXL port (R355). -/
  poison : Bool
  /-- The beat that failed its check last, and how many times in a row (R353). -/
  beat : Nat := 0
  fails : Nat
  /-- Writes accepted at the far side, in order (R18). -/
  out : List (Nat × List (Nat × Byte))
  /-- Relaxed-channel writes not yet accepted (R18). -/
  relaxed : List RelaxedWrite
  /-- The parties that have used the relaxed channel since their last system-scope release (R18). -/
  users : List Party := []
  /-- Answers to inbound reads: tag and bytes, or none for a failure completion (R293). -/
  answers : List (Nat × Option (List Byte))
  deriving DecidableEq, Repr

/-- An answer of the sideband port (R359, R360). -/
inductive SidebandAnswer where
  | nack
  | attestation (bytes : List Byte)
  deriving DecidableEq, Repr

/-- How the firmware stands (R16, R358, R360). -/
inductive Firmware where
  | none | refused | running | thermal
  deriving DecidableEq, Repr

/-- A line placed in the L2 under a policy (R78, R79): its use count when it is counted. -/
structure Cached where
  policy : Nat
  uses : Nat
  deriving DecidableEq, Repr

/-- The object that an operation or event of the table is about. -/
inductive Arg where
  | none
  | num (n : Nat)
  | num2 (n m : Nat)
  | flag (b : Bool)
  | flags (a b : Bool)
  | group (g : GroupAt)
  | split (g : GroupAt) (sid : Nat)
  | splits (g : GroupAt) (keep join : Nat)
  | who (w : Who)
  | barrier (b : BarrierAt)
  | places (grid : Nat) (ps : List Place)
  | write (n : Nat) (v : Word)
  | groupWrite (g : GroupAt) (high : Bool) (v : Word)
  | coreWrite (core ctx : Nat) (v : Word)
  | regWrite (core ctx : Nat) (mode : HartMode) (index elem : Nat) (v : Word)
  | posted (port tag : Nat) (va : DWord) (bytes : List Byte)
  | inbound (port tag : Nat) (va : DWord) (len : Nat)
  | create (ctx part : Nat) (key : BitVec 8)
  | ranges (part : Nat) (r : Ranges)
  | segs (part : Nat) (v : BitVec 128)
  | hart (core : Nat)
  | ecc (p : EccPlace)
  | island (i : Island)
  | boot (i : BootImage)
  | bytes (bs : List Byte)
  | trust (a : TrustAccess)
  | bands (l : List (Nat × Nat))
  deriving DecidableEq, Repr

/-- A choice that the spec leaves open: which agent or event moves next (assumption log 1). -/
inductive Choice where
  /-- An operation or event of the table and the object it is about. -/
  | event (i : Instr) (a : Arg)
  /-- The next turn of a core in this cycle (R49, R56, R57). -/
  | turn (core : Nat)
  /-- A cycle of the network clock ends (R93). -/
  | net
  /-- A cycle ends; with spread spectrum on the clock runs this many millionths below its plan (R5, R22). -/
  | tick (down : Nat)
  deriving DecidableEq, Repr

/-- The whole module. -/
structure State where
  /-- Physical memory: HBM, LPDDR6 and CXL memory (R13, R72); see `Memory` for what an unlisted byte reads as. -/
  mem : Memory
  /-- The weight store (R86). -/
  ws : FMap Byte
  /-- Poisoned lines of memory and of the weight store, by line number (R342, R343). -/
  poison : FMap Bool
  wsPoison : FMap Bool
  /-- Lines that the L2 slices hold (R77 to R79), by line number. -/
  l2 : FMap Cached
  cores : FMap Core
  /-- Effective network clock of each cluster's island, in kHz (R262). -/
  net : FMap Nat
  ctxs : FMap Ctx
  parts : FMap Part
  grids : FMap Grid
  gangs : FMap Gang
  ports : FMap Port
  reqs : List Req
  copies : List Copy
  jobs : List Job
  /-- Sorrel's records, in the order of acceptance, and its slices' sequence counters (R281, R282). -/
  parked : List ParkRec
  seqs : FMap Word
  /-- Granule markers: context and granule (R280). -/
  markers : List (Nat × Nat)
  /-- Granules of pages that a page-in moves (R292). -/
  moving : List (Nat × Nat)
  /-- Scrubbed frames of the nine lists, the oldest first (R99), and the pages that wait for Savory, each
  with the list that it will join (R98). -/
  pools : FMap (List Nat)
  savory : List (Nat × Nat)
  poollow : Nat
  killst : Word
  /-- Kills that wait for the one in progress (R319). -/
  kills : List Nat
  ctxtab : Nat
  planar : Word
  plannet : Word
  planreg : FMap Word
  planssc : Bool
  clkst : Word
  ssc : Bool
  /-- Islands that have yet to switch to the applied plan (R24), and that plan's clocks in kHz and spread spectrum. -/
  switching : List Island
  going : Nat × Nat × Bool
  /-- The regulators' frequencies in the running plan, by regulator, in kHz (R22, R356). -/
  regs : FMap Word := []
  level : Nat
  pwr : Bool
  therm : Bool
  /-- When the level last changed, and since when both limits have been met, in ns (R357). -/
  levelAt : Nat := 0
  metAt : Nat := 0
  /-- A thermal reset that no attestation response has yet reported (R357). -/
  overheated : Bool := false
  trust : Nat
  retired : Nat
  corrected : Nat
  /-- Memory-encryption key slots, write only (R25), and the key under which each 16 bytes off the package were last written, by
  number of the 16 bytes. -/
  keys : FMap (BitVec 512)
  cipher : FMap (Option (BitVec 512)) := []
  windowsLocked : Bool
  firmware : Firmware
  image : BootImage
  sideband : List SidebandAnswer
  /-- The ck of the fastest core, and the ns, since the release of reset (R262). -/
  ck : Nat
  ns : Nat
  /-- The part of a nanosecond by which the time is past `ns` (R5). -/
  frac : Nat × Nat := (0, 1)
  /-- Interrupt lines to the resident kernel: stall, context-error and pool (R65, R305, R350). -/
  stallIrq : Bool
  ctxIrq : Bool
  /-- The order in which launches were taken is the order of their grid numbers; this names the next object. -/
  nextId : Nat
  /-- The model's own: how many free bytes have been drawn (assumption log 8). -/
  draws : Nat
  /-- The model's own: whether the turns of this cycle have been lined up: its landings and other events are over (R49, R83). -/
  lined : Bool := false
  /-- The model's own: how many instructions have issued (it orders issues for R189). -/
  issues : Nat
  /-- The model's own: the choices that come next (assumption log 1). -/
  agenda : List Choice
  /-- The model's own: who issues the instruction in hand, its first word, its length in bytes, and the object that
  the event in hand is about. -/
  cur : Who
  iword : Word
  ilen : Nat
  arg : Arg
  /-- Its instruction word, which follows a prefix (R282). -/
  iinstr : Word := 0
  /-- The atomics that have applied in this cycle of their execution point (R93, R94, R143): the point, 0 for one on the network clock,
  core + 1 for a core's L1, and from 1,024 on the content store of a partition; the address or digest; the core id or group slot, times
  64, and the lane. -/
  applied : List (Nat × Nat × Nat) := []
  deriving DecidableEq, Repr

/-- Why the machine stops with a fault. -/
inductive Fault where
  /-- Raised by every instruction row when nobody issues it: no group and no feed thread stands behind it (R15, R27).
  Safe: no program reaches it, since `step` always names who issues. -/
  | noIssuer
  deriving DecidableEq, Repr

/-- Why the model has no meaning for what it was given. -/
inductive Refusal where
  /-- Raised by the dispatcher for an instruction that has no meaning yet. Safe. -/
  | notModelled (mnemonic : String)
  deriving DecidableEq, Repr

/-- What a step of this machine answers. -/
abbrev Answer := Host.Outcome State Fault Refusal

/-- Registers before anything is placed. -/
def RegFile.empty : RegFile :=
  { rows := [], s := Vector.replicate 16 0, p := Vector.replicate 8 0, k := [], wbase := 0, units := 0 }

/-- A split slot that holds no split. -/
def Split.empty : Split :=
  { live := false, pc := 0, mask := 0, age := 0, depth := 0, wait := none, tried := false, stamp := 0, yield := none, run := 0,
    got := 0, lpb := none, walks := none, words := [] }

/-- A group slot that holds no group. -/
def Group.empty : Group :=
  { live := false, rf := RegFile.empty, splits := [], nextSplit := 0, stack := [], b := Vector.replicate 4 Row.zero,
    last := none, gen := Row.zero, tiles := [], bounds := [], thr := [], xcause := 0, xinfo := 0, xmask := 0,
    freeze := false, uien := 0, uipend := 0, sb := [], forks := [], jobs := 0, arrB := none, arrG := none, arrBAt := 0,
    arrGAt := 0, bara := 0, popped := false }

/-- A queue that is not initialised (R42). -/
def Queue.empty : Queue := { cap := 0, base := 0, head := 0, tail := 0, count := 0, allow := 0 }

/-- A feed-thread slot that is free. -/
def Thread.empty : Thread :=
  { live := false, ended := false, sp := Split.empty, rf := RegFile.empty, handle := 0, forker := 0 }

/-- No place. -/
def Place.zero : Place := { core := 0, slot := 0, row := 0, sprow := 0, tile := 0, fifo := 0 }

/-- No block. -/
def Block.empty : Block :=
  { live := false, ctx := 0, part := 0, grid := 0, gang := 0, ix := 0, place := Place.zero, g := 0, u := 0, sp := 0,
    t := 0, f := 0, prio := 0, wsr := false, groups := [], scratch := [], fe := [], q := [], fifos := [], phase := 0,
    threads := [] }

/-- A hart before the boot ROM has started it: it starts in M mode (R16). -/
def Hart.reset : Hart := { started := false, mode := .m, mie16 := false, mcause := 0, result := 0 }

/-- A core after reset: nothing is placed, and the reset plan's arithmetic clock runs (R16, R262, R356). -/
def Core.reset : Core :=
  { act := [], sha := [], preempt := [], pairs := [], swaps := [], age := 0, last := [], feedLast := 0, forks := 0,
    mq := [], pass := none, tlb := [], hart := Hart.reset, khz := 850000 }

/-- A context number that holds no context (R16, R262, R263, R285, R305, R332, R361; assumption log 4). -/
def Ctx.reset : Ctx :=
  { created := false, part := 0, ev := 0, evClear := 0, evSet := 0, lq := [], tclass := 0, stallst := 0, ptroot := 0,
    tgen := 0, keyslot := 0, sys := false, handler := 0, save := 0, launchqhi := 0, redrivelo := 0, ctxerr := 0,
    lrefuse := 0, ctxderr := 0, res := .spilled, idle := 0, owes := false, image := none, ranges := none, staged := false,
    killed := false }

/-- Empty ranges (assumption log 4). -/
def Ranges.empty : Ranges :=
  { slot0 := 0, slots := 0, row0 := 0, rows := 0, sprow0 := 0, sprows := 0, tile0 := 0, tiles := 0, fifo0 := 0,
    fifos := 0 }

/-- A partition after reset (R285, R361; assumption log 4). -/
def Part.reset : Part :=
  { ranges := Ranges.empty, segs := 0, cakey := 0, cas := [], dying := [], frames := [], casat := 0, cafull := 0,
    capois := 0, fqbase := 0, fqsize := 4, fqhead := 0, fqtail := 0, fqhart := 0, pkbase := 0, pkioq := 4096,
    faults := [], turn := [], rate := [] }

/-- No grid. -/
def Grid.empty : Grid := { live := false, ctx := 0, lpb := 0, next := 0, retired := 0 }

/-- No gang. -/
def Gang.empty : Gang :=
  { live := false, grid := 0, x := 0, y := 0, z := 0, cluster := 0, blocks := [], left := 0, phase := 0 }

/-- A port after reset (R361, R362). -/
def Port.reset : Port :=
  { state := 0, uncorr := 0, corr := 0, ioctx := 0, poison := false, fails := 0, out := [], relaxed := [],
    answers := [] }

/-- The machine right after reset (R7, R16, R262, R285, R305, R356, R361, R362): no context exists, nothing runs, and
the reset plan is in effect. -/
def State.reset : State :=
  { mem := [], ws := [], poison := [], wsPoison := [], l2 := [], cores := [], net := [], ctxs := [], parts := [],
    grids := [], gangs := [], ports := [], reqs := [], copies := [], jobs := [], parked := [], seqs := [],
    markers := [], moving := [], pools := [], savory := [], poollow := 256, killst := 0, kills := [],
    ctxtab := 0, planar := 850000, plannet := 1700000, planreg := [], planssc := true, clkst := 0, ssc := true,
    switching := [], going := (850000, 1700000, true), level := 0, pwr := false, therm := false, trust := 0, retired := 0, corrected := 0, keys := [],
    windowsLocked := false, firmware := .none, image := { verifies := false, version := 0, digest := [] },
    sideband := [], ck := 0, ns := 0, stallIrq := false, ctxIrq := false, nextId := 1, draws := 0, issues := 0, agenda := [],
    cur := .nobody, iword := 0, ilen := 4, arg := .none }

end Sys2Proof.Machine
end

