-- ==== Sys2Proof/Machine/Store.lean ====
section
/-! DEFINITION. The named reads and writes of the state: memory by bytes (R3, R13), and the objects of the machine by
their names. Every other file reads and writes through these. -/

namespace Sys2Proof

/-- The core and the block of an issuer. -/
def Who.core : Who → Nat
  | .split g _ => g.core
  | .thread c _ _ => c
  | .nobody => 0

/-- The block of an issuer. -/
def Who.block : Who → Nat
  | .split g _ => g.block
  | .thread _ b _ => b
  | .nobody => 0

/-- Whether an issuer is a feed thread. -/
def Who.isThread : Who → Bool
  | .thread _ _ _ => true
  | _ => false

/-- The party that an issuer is (R100). -/
def Who.party : Who → Machine.Party
  | .split g _ => .group g.core g.block g.ix
  | .thread c b t => .thread c b t
  | .nobody => .port 0

/-- A lane of a row; a number beyond lane 31 names no lane and reads 0. -/
def Row.lane (r : Row) (l : Nat) : Word := if h : l < 32 then r[l] else 0

/-- The row of a value for each lane. -/
def Row.make (f : Nat → Word) : Row := Vector.ofFn fun i => f i

/-- A row after the lanes of a mask are written. -/
def Row.merge (r : Row) (m : Mask) (v : Nat → Word) : Row := Row.make fun l => if m.getLsbD l then v l else r.lane l

end Sys2Proof

namespace Sys2Proof.Machine

/-- What an unlisted byte of memory reads as (assumption log 3). -/
def Memory.unlisted : Byte := 0

/-- One byte of memory. -/
def Memory.read (m : Memory) (a : Nat) : Byte := FMap.get Memory.unlisted m a

/-- Writes one byte of memory. -/
def Memory.write (m : Memory) (a : Nat) (b : Byte) : Memory := FMap.set Memory.unlisted m a b

/-- The canonical form of memory: addresses rise strictly and no entry holds what an unlisted byte reads as. -/
def Memory.wf (m : Memory) : Bool := FMap.wf Memory.unlisted m

/-- `n` bytes of memory from address `a` on. -/
def Memory.readN (m : Memory) (a n : Nat) : List Byte := (List.range n).map fun i => m.read (a + i)

/-- Writes bytes at their addresses, in the order of the list. -/
def Memory.writeAll (m : Memory) : List (Nat × Byte) → Memory
  | [] => m
  | (a, b) :: ws => Memory.writeAll (m.write a b) ws

/-- The addresses of consecutive bytes. -/
def at_ (a : Nat) (bs : List Byte) : List (Nat × Byte) := bs.zipIdx.map fun (b, i) => (a + i, b)

/-- A 32-bit word of memory. -/
def Memory.read32 (m : Memory) (a : Nat) : Word :=
  m.read (a + 3) ++ m.read (a + 2) ++ m.read (a + 1) ++ m.read a

/-- A 64-bit word of memory. -/
def Memory.read64 (m : Memory) (a : Nat) : DWord := m.read32 (a + 4) ++ m.read32 a

/-- Puts an element before the first that it may precede. -/
def insertBy {α : Type} (le : α → α → Bool) (x : α) : List α → List α
  | [] => [x]
  | y :: ys => if le x y then x :: y :: ys else y :: insertBy le x ys

/-- A list in an order; elements that each may precede the other keep their places. -/
def sortBy {α : Type} (le : α → α → Bool) (l : List α) : List α := l.foldr (insertBy le) []

/-- The elements of a list, each once, in the order of their first occurrence. -/
def distinct (l : List Nat) : List Nat := l.foldl (fun a x => if a.contains x then a else a ++ [x]) []

/-- A core by its id (R11). -/
def State.core (s : State) (c : Nat) : Core := FMap.get Core.reset s.cores c

/-- Replaces a core. -/
def State.setCore (s : State) (c : Nat) (x : Core) : State := { s with cores := s.cores.put c x }

/-- The ck that a core's island has counted (R5, R262). -/
def State.coreCk (s : State) (c : Nat) : Nat := s.ck - (s.core c).behind

/-- A context by its number (R37). -/
def State.ctx (s : State) (c : Nat) : Ctx := FMap.get Ctx.reset s.ctxs c

/-- Replaces a context. -/
def State.setCtx (s : State) (c : Nat) (x : Ctx) : State := { s with ctxs := s.ctxs.put c x }

/-- A partition by its number (R39). -/
def State.part (s : State) (p : Nat) : Part := FMap.get Part.reset s.parts p

/-- Replaces a partition. -/
def State.setPart (s : State) (p : Nat) (x : Part) : State := { s with parts := s.parts.put p x }

/-- A taken launch. -/
def State.grid (s : State) (n : Nat) : Grid := FMap.get Grid.empty s.grids n

/-- Replaces a taken launch. -/
def State.setGrid (s : State) (n : Nat) (x : Grid) : State := { s with grids := s.grids.put n x }

/-- A placed gang. -/
def State.gang (s : State) (n : Nat) : Gang := FMap.get Gang.empty s.gangs n

/-- Replaces a gang. -/
def State.setGang (s : State) (n : Nat) (x : Gang) : State := { s with gangs := s.gangs.put n x }

/-- A port by its number (R282). -/
def State.port (s : State) (n : Nat) : Port := FMap.get Port.reset s.ports n

/-- Replaces a port. -/
def State.setPort (s : State) (n : Nat) (x : Port) : State := { s with ports := s.ports.put n x }

/-- A block in a core's active bank. -/
def Core.block (c : Core) (b : Nat) : Block := FMap.get Block.empty c.act b

/-- Replaces a block of the active bank. -/
def Core.setBlock (c : Core) (b : Nat) (x : Block) : Core := { c with act := c.act.put b x }

/-- A block in the active bank of a core. -/
def State.block (s : State) (c b : Nat) : Block := (s.core c).block b

/-- Replaces a block of an active bank. -/
def State.setBlock (s : State) (c b : Nat) (x : Block) : State := s.setCore c ((s.core c).setBlock b x)

/-- A group of a block. -/
def Block.group (b : Block) (i : Nat) : Group := FMap.get Group.empty b.groups i

/-- Replaces a group of a block. -/
def Block.setGroup (b : Block) (i : Nat) (x : Group) : Block := { b with groups := b.groups.put i x }

/-- A feed thread of a block. -/
def Block.thread (b : Block) (t : Nat) : Thread := FMap.get Thread.empty b.threads t

/-- Replaces a feed thread of a block. -/
def Block.setThread (b : Block) (t : Nat) (x : Thread) : Block := { b with threads := b.threads.put t x }

/-- A group by its place. -/
def State.group (s : State) (g : GroupAt) : Group := (s.block g.core g.block).group g.ix

/-- Replaces a group. -/
def State.setGroup (s : State) (g : GroupAt) (x : Group) : State :=
  s.setBlock g.core g.block ((s.block g.core g.block).setGroup g.ix x)

/-- A split of a group. -/
def Group.split (g : Group) (i : Nat) : Split := FMap.get Split.empty g.splits i

/-- Replaces a split of a group. -/
def Group.setSplit (g : Group) (i : Nat) (x : Split) : Group := { g with splits := g.splits.put i x }

/-- The splits that a group holds. -/
def Group.liveSplits (g : Group) : FMap Split := g.splits.filter fun e => e.2.live

/-- The splits that a group holds, by split position (R49). -/
def Group.byPos (g : Group) : FMap Split := sortBy (fun x y => decide (x.2.pos ≤ y.2.pos)) g.liveSplits

/-- The split, or the program of the feed thread, that issues. -/
def State.sp (s : State) : Who → Split
  | .split g i => (s.group g).split i
  | .thread c b t => ((s.block c b).thread t).sp
  | .nobody => Split.empty

/-- Replaces the split of an issuer. -/
def State.setSp (s : State) (w : Who) (x : Split) : State :=
  match w with
  | .split g i => s.setGroup g ((s.group g).setSplit i x)
  | .thread c b t => s.setBlock c b ((s.block c b).setThread t { (s.block c b).thread t with sp := x })
  | .nobody => s

/-- The registers of an issuer. -/
def State.rf (s : State) : Who → RegFile
  | .split g _ => (s.group g).rf
  | .thread c b t => ((s.block c b).thread t).rf
  | .nobody => RegFile.empty

/-- Replaces the registers of an issuer. -/
def State.setRf (s : State) (w : Who) (x : RegFile) : State :=
  match w with
  | .split g _ => s.setGroup g { s.group g with rf := x }
  | .thread c b t => s.setBlock c b ((s.block c b).setThread t { (s.block c b).thread t with rf := x })
  | .nobody => s

/-- The block of an issuer. -/
def State.blk (s : State) (w : Who) : Block := s.block w.core w.block

/-- Replaces the block of an issuer. -/
def State.setBlk (s : State) (w : Who) (x : Block) : State := s.setBlock w.core w.block x

/-- The group that an issuer belongs to: for a feed thread, the group that issued its FORK (R57, R334). -/
def State.groupOf (s : State) : Who → GroupAt
  | .split g _ => g
  | .thread c b t => { core := c, block := b, ix := ((s.block c b).thread t).forker }
  | .nobody => { core := 0, block := 0, ix := 0 }

/-- The group slot of a group (R26). -/
def State.slotOf (s : State) (g : GroupAt) : Nat := (s.block g.core g.block).place.slot + g.ix

/-- The lanes of a mask in ascending order (R8). -/
def lanesOf (m : Mask) : List Nat := (List.range 32).filter m.getLsbD

/-- The lowest lane of a mask. -/
def lowest (m : Mask) : Option Nat := (List.range 32).find? m.getLsbD

/-- The mask of the lanes that meet a condition. -/
def maskOf (f : Nat → Bool) : Mask := (List.range 32).foldl (fun m l => if f l then m ||| (1#32 <<< l) else m) 0#32

/-- The number of a physical line (R4). -/
def lineOf (a : Nat) : Nat := a / 128

/-- The next fresh number. -/
def State.fresh (s : State) : Nat × State := (s.nextId, { s with nextId := s.nextId + 1 })

/-- Sets a bit of a context's event vector at the end of the cycle (R46). -/
def State.setEvent (s : State) (c n : Nat) : State :=
  s.setCtx c { s.ctx c with evSet := (s.ctx c).evSet ||| (1#256 <<< (n % 256)) }

/-- A count that saturates at its largest value (R361). -/
def satAdd (n max : Nat) : Nat := if n + 1 > max then max else n + 1

/-- A triple of an entry (R125): s = 1, ε = 0 and m = 0 where none is listed. -/
def FifoEntry.trip (e : FifoEntry) (r : Nat) : Triple := FMap.get { s := 0x3F800000, e := 0, m := 0 } e.trips r

end Sys2Proof.Machine
end

