-- ==== Sys2Proof/Machine/Fun.lean ====
section
/-! DEFINITION. The functions of 32-bit words that the integer, address and logic instructions compute
(spec/09_isa_scalar.md R191, R192). -/

namespace Sys2Proof.Machine

/-- An exact result clamped to the range of .i32 (R191). -/
def satI32 (x : Int) : Word := BitVec.ofInt 32 (max (-2147483648) (min x 2147483647))

/-- An exact result clamped to the range of .n32 (R191). -/
def satN32 (x : Int) : Word := BitVec.ofInt 32 (max 0 (min x 4294967295))

/-- Bits 63:32 of the signed product (R191). -/
def mulhI32 (a b : Word) : Word := (a.signExtend 64 * b.signExtend 64).extractLsb' 32 32

/-- Bits 63:32 of the unsigned product (R191). -/
def mulhN32 (a b : Word) : Word := (a.setWidth 64 * b.setWidth 64).extractLsb' 32 32

/-- The smaller, compared signed. -/
def minI32 (a b : Word) : Word := if b.slt a then b else a

/-- The smaller, compared unsigned. -/
def minN32 (a b : Word) : Word := if b.ult a then b else a

/-- The larger, compared signed. -/
def maxI32 (a b : Word) : Word := if a.slt b then b else a

/-- The larger, compared unsigned. -/
def maxN32 (a b : Word) : Word := if a.ult b then b else a

/-- |sext(A)|: the absolute value of 0x8000_0000 is 0x8000_0000 (R191). -/
def absI32 (a : Word) : Word := if a.msb then -a else a

/-- SHL (R191): 0 from 32 places on. -/
def shlW (a n : Word) : Word := if n.toNat < 32 then a <<< n.toNat else 0

/-- SHR (R191): 0 from 32 places on. -/
def shrW (a n : Word) : Word := if n.toNat < 32 then a >>> n.toNat else 0

/-- SHA (R191): at most 31 places. -/
def shaW (a n : Word) : Word := a.sshiftRight (min n.toNat 31)

/-- ROL (R191): by bits 4:0. -/
def rolW (a n : Word) : Word := a.rotateLeft (n.toNat % 32)

/-- ROR (R191): by bits 4:0. -/
def rorW (a n : Word) : Word := a.rotateRight (n.toNat % 32)

/-- The number of 1 bits. -/
def popcW (a : Word) : Word := BitVec.ofNat 32 ((List.range 32).countP a.getLsbD)

/-- Leading 0 bits; 32 when A is 0. -/
def clzW (a : Word) : Word := BitVec.ofNat 32 (((List.range 32).find? fun i => a.getLsbD (31 - i)).getD 32)

/-- Trailing 0 bits; 32 when A is 0. -/
def ctzW (a : Word) : Word := BitVec.ofNat 32 (((List.range 32).find? a.getLsbD).getD 32)

/-- Bit i of the result is bit 31 - i of A. -/
def brevW (a : Word) : Word := maskOf fun i => a.getLsbD (31 - i)

/-- bfx for .n32 (R192): bits above bit 31 read as 0. `w` is 1 to 32. -/
def bfxN32 (x : Word) (pos w : Nat) : Word := ((x >>> pos) <<< (32 - w)) >>> (32 - w)

/-- bfx for .i32 (R192). -/
def bfxI32 (x : Word) (pos w : Nat) : Word := ((x >>> pos) <<< (32 - w)).sshiftRight (32 - w)

/-- bfi (R192): field bits beyond bit 31 are dropped. -/
def bfi (y x : Word) (pos w : Nat) : Word :=
  let m : Word := BitVec.ofNat 32 (2 ^ w - 1) <<< pos
  (y &&& ~~~m) ||| ((x <<< pos) &&& m)

/-- The position of a packed bit field: bits 4:0 (R191, R192). -/
def fieldPos {n : Nat} (b : BitVec n) : Nat := (b.extractLsb' 0 5).toNat

/-- The width of a packed bit field: bits 9:5 plus one (R191, R192). -/
def fieldWidth {n : Nat} (b : BitVec n) : Nat := (b.extractLsb' 5 5).toNat + 1

end Sys2Proof.Machine
end

