-- ==== Sys2Proof/Machine/Num.lean ====
section
/-! DEFINITION. Number formats, exact values and rounding (spec/05_numbers.md R116 to R124; spec/09_isa_scalar.md R197 to
R199). A value is decoded into exact form, computed exactly, and rounded once. -/

namespace Sys2Proof.Machine

/-- A floating-point format (R116): fraction width, exponent width, bias, and whether it is E4M3, which has no
infinity. -/
structure Fmt where
  fw : Nat
  ew : Nat
  bias : Nat
  e4m3 : Bool
  deriving DecidableEq, Repr

/-- IEEE 754 binary32 (R116). -/
def fp32 : Fmt := { fw := 23, ew := 8, bias := 127, e4m3 := false }

/-- IEEE 754 binary64, of the harts' D extension (R14) and of the magnitudes that FIFO entries carry (R125; assumption log 87). -/
def fp64 : Fmt := { fw := 52, ew := 11, bias := 1023, e4m3 := false }

/-- IEEE 754 binary16 (R116). -/
def fp16 : Fmt := { fw := 10, ew := 5, bias := 15, e4m3 := false }

/-- BF16 (R116). -/
def bf16 : Fmt := { fw := 7, ew := 8, bias := 127, e4m3 := false }

/-- OFP8 E4M3 (R116). -/
def e4m3 : Fmt := { fw := 3, ew := 4, bias := 7, e4m3 := true }

/-- OFP8 E5M2 (R116). -/
def e5m2 : Fmt := { fw := 2, ew := 5, bias := 15, e4m3 := false }

/-- w48 (R119): the significand of 48 bits with the exponent range of binary32. DEDUCED: its denormals continue below
2^-126 at the spacing of its smallest normals, 2^-173 (assumption log 14). -/
def w48 : Fmt := { fw := 47, ew := 8, bias := 127, e4m3 := false }

/-- An exact value: a NaN, an infinity, or (-1)^neg x m x 2^e; a zero keeps its sign (R117). -/
inductive Fp where
  | nan
  | inf (neg : Bool)
  | fin (neg : Bool) (m : Nat) (e : Int)
  deriving DecidableEq, Repr

/-- A rounding (R119): .rn, .rz, .ru, .rd, or .sr with its random word. -/
inductive Rm where
  | rn | rz | ru | rd
  | sr (r : Nat)
  deriving DecidableEq, Repr

/-- The rounding that a code of R164 names, with the random word for .sr. -/
def Rm.ofCode (c : BitVec 3) (r : Nat) : Rm :=
  match c.toNat with
  | 1 => .rz
  | 2 => .ru
  | 3 => .rd
  | 4 => .sr r
  | _ => .rn

/-- 2^i as a natural number; 1 for a negative exponent. -/
def pow2 (i : Int) : Nat := 2 ^ i.toNat

/-- The value that a pattern of a format stands for (R116). -/
def Fmt.decode (f : Fmt) (x : Nat) : Fp :=
  let frac := x % 2 ^ f.fw
  let ex := x / 2 ^ f.fw % 2 ^ f.ew
  let neg := x / 2 ^ (f.fw + f.ew) % 2 == 1
  if f.e4m3 && ex == 15 && frac == 7 then .nan
  else if !f.e4m3 && ex == 2 ^ f.ew - 1 then (if frac == 0 then .inf neg else .nan)
  else if ex == 0 then .fin neg frac (1 - f.bias - f.fw)
  else .fin neg (2 ^ f.fw + frac) (ex - f.bias - f.fw)

/-- The canonical NaN (R116). -/
def Fmt.nan (f : Fmt) : Nat := if f.e4m3 then 0x7F else (2 ^ f.ew - 1) * 2 ^ f.fw + 2 ^ (f.fw - 1)

/-- The pattern of a value that the format holds; an infinity of E4M3 gives 0x7F (R120). -/
def Fmt.encode (f : Fmt) : Fp → Nat
  | .nan => f.nan
  | .inf neg => if f.e4m3 then 0x7F else (if neg then 2 ^ (f.fw + f.ew) else 0) + (2 ^ f.ew - 1) * 2 ^ f.fw
  | .fin neg m e =>
    let sign := if neg then 2 ^ (f.fw + f.ew) else 0
    if m = 0 then sign
    else
      let top : Int := (Nat.log2 m : Int) + e
      let low : Int := 1 - f.bias
      if top < low then
        let k := e - (low - f.fw)
        sign + (if 0 ≤ k then m * pow2 k else m / pow2 (-k))
      else
        let k := e - (top - f.fw)
        sign + (top + f.bias).toNat * 2 ^ f.fw + ((if 0 ≤ k then m * pow2 k else m / pow2 (-k)) - 2 ^ f.fw)

/-- The floor of the base-2 logarithm of n / d, for positive n and d. -/
def floorLog2 (n d : Nat) : Int :=
  let k : Int := (Nat.log2 n : Int) - Nat.log2 d
  if d * pow2 k ≤ n * pow2 (-k) then k else k - 1

/-- The significand that a magnitude q + rem / den, in units of the last place, rounds to (R119, R123). -/
def roundUnit (rm : Rm) (neg : Bool) (q rem den : Nat) : Nat :=
  match rm with
  | .rn => if den < 2 * rem ∨ (2 * rem = den ∧ q % 2 = 1) then q + 1 else q
  | .rz => q
  | .ru => if rem ≠ 0 ∧ !neg then q + 1 else q
  | .rd => if rem ≠ 0 ∧ neg then q + 1 else q
  | .sr r => if 65536 ≤ rem * 65536 / den + r then q + 1 else q

/-- The largest finite value of a format (R116): significand and exponent. -/
def Fmt.largest (f : Fmt) : Nat × Int := if f.e4m3 then (14, 5) else (2 ^ (f.fw + 1) - 1, f.bias - f.fw)

/-- What a magnitude beyond the largest finite value gives (R120). -/
def Fmt.overflow (f : Fmt) (rm : Rm) (neg : Bool) : Fp :=
  let big : Fp := .fin neg f.largest.1 f.largest.2
  if f.e4m3 then big
  else match rm with
    | .rn | .sr _ => .inf neg
    | .rz => big
    | .ru => if neg then big else .inf neg
    | .rd => if neg then .inf neg else big

/-- Rounds (-1)^neg x n / d x 2^e to a format (R119, R120, R123). -/
def Fmt.roundRat (f : Fmt) (rm : Rm) (neg : Bool) (n d : Nat) (e : Int) : Fp :=
  if n = 0 then .fin neg 0 0
  else
    let low : Int := 1 - f.bias
    let top := floorLog2 n d + e
    if f.bias + 2 < top then f.overflow rm neg
    else
      let ue := max top low - f.fw
      let k := e - ue
      let num := n * pow2 k
      let den := d * pow2 (-k)
      let q := roundUnit rm neg (num / den) (num % den) den
      let (lm, le) := f.largest
      if q * pow2 (ue - le) > lm * pow2 (le - ue) then f.overflow rm neg else .fin neg q ue

/-- Rounds an exact value to a format (R119 to R121). -/
def Fmt.round (f : Fmt) (rm : Rm) : Fp → Fp
  | .nan => .nan
  | .inf neg => .inf neg
  | .fin neg m e => f.roundRat rm neg m 1 e

/-- The pattern of an exact value rounded to a format. -/
def Fmt.pack (f : Fmt) (rm : Rm) (x : Fp) : Nat := f.encode (f.round rm x)

/-- The sum of two exact values: a zero from operands of opposite sign is +0, under .rd -0 (R197). -/
def Fp.add (rd : Bool) : Fp → Fp → Fp
  | .nan, _ => .nan
  | _, .nan => .nan
  | .inf a, .inf b => if a = b then .inf a else .nan
  | .inf a, _ => .inf a
  | _, .inf b => .inf b
  | .fin a m x, .fin b n y =>
    let z := min x y
    let v : Int := (if a then -1 else 1) * (m * pow2 (x - z) : Nat) + (if b then -1 else 1) * (n * pow2 (y - z) : Nat)
    if v = 0 then .fin (if a = b then a else rd) 0 0 else .fin (v < 0) v.natAbs z

/-- The negation of an exact value. -/
def Fp.neg : Fp → Fp
  | .nan => .nan
  | .inf a => .inf (!a)
  | .fin a m e => .fin (!a) m e

/-- The magnitude of an exact value. -/
def Fp.abs : Fp → Fp
  | .nan => .nan
  | .inf _ => .inf false
  | .fin _ m e => .fin false m e

/-- Whether a value is a zero. -/
def Fp.isZero : Fp → Bool
  | .fin _ 0 _ => true
  | _ => false

/-- Whether a value is a NaN. -/
def Fp.isNan : Fp → Bool
  | .nan => true
  | _ => false

/-- Whether a value is neither a NaN nor an infinity. -/
def Fp.isFinite : Fp → Bool
  | .fin _ _ _ => true
  | _ => false

/-- The product of two exact values: the sign of a zero is the exclusive or of the signs. -/
def Fp.mul : Fp → Fp → Fp
  | .nan, _ => .nan
  | _, .nan => .nan
  | .inf a, .inf b => .inf (a != b)
  | .inf a, .fin b n _ => if n = 0 then .nan else .inf (a != b)
  | .fin a m _, .inf b => if m = 0 then .nan else .inf (a != b)
  | .fin a m x, .fin b n y => .fin (a != b) (m * n) (x + y)

/-- The order of two values that are no NaN, with -0 = +0: less, equal or greater. -/
def Fp.cmp : Fp → Fp → Ordering
  | .inf a, .inf b => if a = b then .eq else if a then .lt else .gt
  | .inf a, _ => if a then .lt else .gt
  | _, .inf b => if b then .gt else .lt
  | .fin a m x, .fin b n y =>
    let z := min x y
    compare ((if a then -1 else 1) * (m * pow2 (x - z) : Nat) : Int) ((if b then -1 else 1) * (n * pow2 (y - z) : Nat) : Int)
  | _, _ => .eq

/-- Whether a value's sign is negative. -/
def Fp.sign : Fp → Bool
  | .nan => false
  | .inf a => a
  | .fin a _ _ => a

/-- FMIN (R198): a NaN yields the other operand, and -0 counts as less than +0. -/
def Fp.min (a b : Fp) : Fp :=
  if a.isNan then b else if b.isNan then a
  else match Fp.cmp a b with
    | .lt => a
    | .gt => b
    | .eq => if a.sign then a else b

/-- FMAX (R198). -/
def Fp.max (a b : Fp) : Fp :=
  if a.isNan then b else if b.isNan then a
  else match Fp.cmp a b with
    | .gt => a
    | .lt => b
    | .eq => if a.sign then b else a

/-- The floor of the square root, found bit by bit from bit `k` down: `r` has its bits above `k`. -/
def isqrtFrom (n : Nat) : Nat → Nat → Nat
  | 0, r => if (r + 1) * (r + 1) ≤ n then r + 1 else r
  | k + 1, r => isqrtFrom n k (if (r + 2 ^ (k + 1)) * (r + 2 ^ (k + 1)) ≤ n then r + 2 ^ (k + 1) else r)

/-- The floor of the square root. -/
def isqrt (n : Nat) : Nat := isqrtFrom n (Nat.log2 n / 2 + 1) 0

/-- The fixed-point precision of the transcendental functions (assumption log 10). -/
def prec : Nat := 192

/-- ln 2 in units of 2^-prec, as the sum of 1 / (k 2^k). -/
def ln2Fix : Nat := (List.range 200).foldl (fun t k => t + 2 ^ prec / ((k + 1) * 2 ^ (k + 1))) 0

/-- The terms x^k / k! from the k-th on, in units of 2^-prec. -/
def expTerms (x : Nat) : Nat → Nat → Nat → Nat
  | 0, _, _ => 0
  | n + 1, k, t => t + expTerms x n (k + 1) (t * x / 2 ^ prec / (k + 1))

/-- The powers z^(2k+1) / (2k+1) from the k-th on, in units of 2^-prec, for z2 = z x z. -/
def atanhTerms (z2 : Nat) : Nat → Nat → Nat → Nat
  | 0, _, _ => 0
  | n + 1, k, t => t / (2 * k + 1) + atanhTerms z2 n (k + 1) (t * z2 / 2 ^ prec)

/-- Rounds a magnitude that lies strictly between n and n + 1 units of 2^e. -/
def Fmt.roundSticky (f : Fmt) (rm : Rm) (neg : Bool) (n : Nat) (e : Int) : Fp := f.roundRat rm neg (2 * n + 1) 1 (e - 1)

/-- RM(1 / A) with the special operands of R199. -/
def Fmt.rcp (f : Fmt) (rm : Rm) : Fp → Fp
  | .nan => .nan
  | .inf a => .fin a 0 0
  | .fin a m e => if m = 0 then .inf a else f.roundRat rm a 1 m (-e)

/-- RM(square root of A) (R198, R199). -/
def Fmt.sqrt (f : Fmt) (rm : Rm) : Fp → Fp
  | .nan => .nan
  | .inf a => if a then .nan else .inf false
  | .fin a m e =>
    if m = 0 then .fin a 0 0 else if a then .nan
    else
      let n := (if e % 2 = 0 then m else 2 * m) * 2 ^ 64
      let h := (if e % 2 = 0 then e else e - 1) / 2 - 32
      let r := isqrt n
      if r * r = n then f.roundRat rm false r 1 h else f.roundSticky rm false r h

/-- The faithful 1 / square root of A (R198, R199). -/
def Fmt.rsq (f : Fmt) : Fp → Fp
  | .nan => .nan
  | .inf a => if a then .nan else .fin false 0 0
  | .fin a m e =>
    if m = 0 then .inf a else if a then .nan
    else
      let n := if e % 2 = 0 then m else 2 * m
      let h := (if e % 2 = 0 then e else e - 1) / 2
      let r := isqrt (2 ^ 128 / n)
      if r * r * n = 2 ^ 128 then f.roundRat .rn false r 1 (-64 - h) else f.roundSticky .rn false r (-64 - h)

/-- The faithful 2^A (R198, R199): 2 to the integer part, exact, times 2 to the fraction. An argument beyond the range
of the format is replaced by one that lies beyond it too. -/
def Fmt.exp2 (f : Fmt) : Fp → Fp
  | .nan => .nan
  | .inf a => if a then .fin false 0 0 else .inf false
  | .fin a m e =>
    let big := !(m = 0) && decide (12 < (Nat.log2 m : Int) + e)
    if big then f.roundRat .rn false 1 1 (if a then -4096 else 4096)
    else
      -- the argument in units of 2^-prec, rounded down
      let x : Int := if a then -((m * pow2 (e + prec) + (pow2 (-(e + prec)) - 1)) / pow2 (-(e + prec)) : Nat)
                     else (m * pow2 (e + prec) / pow2 (-(e + prec)) : Nat)
      let n := x / (2 ^ prec : Nat)
      let fr := (x % (2 ^ prec : Nat)).toNat
      if fr = 0 ∧ -(prec : Int) ≤ e then f.roundRat .rn false 1 1 n
      else f.roundSticky .rn false (expTerms (fr * ln2Fix / 2 ^ prec) 60 0 (2 ^ prec)) (n - prec)

/-- The faithful log2 A (R198, R199): the exponent plus 2 atanh((y - 1) / (y + 1)) / ln 2 for the significand y. -/
def Fmt.log2 (f : Fmt) : Fp → Fp
  | .nan => .nan
  | .inf a => if a then .nan else .inf false
  | .fin a m e =>
    if m = 0 then .inf true else if a then .nan
    else
      let k := Nat.log2 m
      let top : Int := (k : Int) + e
      let u := m - 2 ^ k
      if u = 0 then (if top = 0 then .fin false 0 0 else f.roundRat .rn (top < 0) top.natAbs 1 0)
      else
        let z := u * 2 ^ prec / (m + 2 ^ k)
        let l := 2 * atanhTerms (z * z / 2 ^ prec) 70 0 z * 2 ^ prec / ln2Fix
        let v : Int := top * (2 ^ prec : Nat) + l
        f.roundSticky .rn (v < 0) v.natAbs (-prec)

/-- One step of a lane's generator (R124). -/
def genNext (g : Word) : Word :=
  let g1 := g ^^^ (g <<< 13)
  let g2 := g1 ^^^ (g1 >>> 17)
  g2 ^^^ (g2 <<< 5)

/-- The random word of a generator state (R124): bits 31:16 after the step. -/
def genWord (g : Word) : Nat := (genNext g).toNat / 65536

/-- The state that SRSEED gives a lane (R124). -/
def genSeed (l : Nat) (v : Word) : Word :=
  let g := v ^^^ BitVec.ofNat 32 (0x9E3779B9 * (l + 1))
  if g = 0 then 0x6D2B79F5 else g

/-- The state of a lane's generator at group placement (R124). -/
def genInit (l : Nat) : Word := 0x2545F491 + BitVec.ofNat 32 l

/-- The binary32 value of a word. -/
def f32 (x : Word) : Fp := fp32.decode x.toNat

/-- The binary64 value of a double word. -/
def f64 (x : DWord) : Fp := fp64.decode x.toNat

/-- A double word with the binary64 rounding of an exact value. -/
def toF64 (x : Fp) : DWord := BitVec.ofNat 64 (fp64.pack .rn x)

/-- A word with the binary32 rounding of an exact value. -/
def toF32 (rm : Rm) (x : Fp) : Word := BitVec.ofNat 32 (fp32.pack rm x)

/-- The format of a floating-point type code (R162), none for another code. -/
def fmtOf (ty : Nat) : Option Fmt :=
  match ty with
  | 9 => some fp32
  | 10 => some fp16
  | 11 => some bf16
  | 12 => some e4m3
  | 13 => some e5m2
  | _ => none

end Sys2Proof.Machine
end

