-- ==== Sys2Proof/Config.lean ====
section
/-! DEFINITION. What one module fixes and the spec does not: the free values. None has a body, so no proof can lean on
a value of one; each is named by a row of the assumption log. -/

namespace Sys2Proof

/-- The byte that a device or another module answers to a read (R72, R110): the spec gives no device's answer.
The argument counts the bytes drawn so far (assumption log 8). -/
opaque Config.deviceByte : Nat → Byte

/-- The port that a physical address of the system/peer space lies behind (R17, R18): the spec gives no system
address map (assumption log 12). -/
opaque Config.portOf : Nat → Fin 24

/-- The CXL port that a line of CXL memory lies behind (R17, R355): no address map is given (assumption log 12). -/
opaque Config.cxlPortOf : Nat → Fin 4

/-- Whether a physical address is CXL memory (R13, R355): no address map is given (assumption log 12). -/
opaque Config.isCxl : Nat → Bool

/-- What 16 bytes of memory off the package give when they are read under a key other than that under which they were written (R25):
the spec names the cipher and gives no such bytes. The arguments are both keys, the number of the 16 bytes and what was written
(assumption log 79). -/
opaque Config.otherKey : BitVec 512 → BitVec 512 → Nat → BitVec 128 → BitVec 128

/-- The home slice of a line (R12), from 0 to 127: no address map is given (assumption log 27). -/
opaque Config.homeSlice : Nat → Fin 128

/-- The least security version that the fuses accept (R358): a module's own (assumption log 13). -/
opaque Config.minSecurityVersion : Nat

/-- Byte `i` of the signature over the given bytes with the device identity key (R360), whose private half no
interface reads (assumption log 13). -/
opaque Config.signatureByte : List Byte → Nat → Byte

end Sys2Proof
end

