-- ==== Sys2Proof/WellFormed.lean ====
section
/-! DEFINITION. Which instructions are well formed: the conditions of spec/07_encoding.md R153, R154, R158, R161, R162,
R164 and R167, and those that the descriptions of spec/09 to 12 and the fates of spec/19 (R321 to R333) put on the
word alone. -/

namespace Sys2Proof

/-- The bits of `m` are 0 in `x`. -/
def zero {n : Nat} (x : BitVec n) (m : Nat) : Bool := x &&& BitVec.ofNat n m == 0

/-- A field that names an even register (R161). -/
def mult2 (x : BitVec 7) : Bool := !x.getLsbD 0

/-- A field that names a multiple of 4 (R161). -/
def mult4 (x : BitVec 7) : Bool := !x.getLsbD 0 && !x.getLsbD 1

/-- The rounding mode code of layout E (R154, R164); 0 without a prefix. -/
def Pre.rm (p : Pre) : BitVec 3 := match p with | none => 0 | some q => q.ext.extractLsb' 16 3

/-- The type code of layout E (R154, R162). -/
def Pre.ty (p : Pre) : BitVec 5 := match p with | none => 0 | some q => q.ext.extractLsb' 11 5

/-- The third operand field of layout E (R154). -/
def Pre.c (p : Pre) : BitVec 7 := match p with | none => 0 | some q => q.ext.extractLsb' 4 7

/-- The variant selector of layout E (R154). -/
def Pre.sub (p : Pre) : BitVec 4 := match p with | none => 0 | some q => q.ext.extractLsb' 0 4

/-- The immediate bits 28:10 of layout X (R154, R156). -/
def Pre.ximm (p : Pre) : BitVec 19 := match p with | none => 0 | some q => q.ext

/-- Without a guard, bits 23:20 of a prefix are 0 (R154). -/
def Pre.guardOk (p : Pre) : Bool := match p with | none => true | some q => q.ge || (!q.gn && q.gp == 0)

/-- A prefix before an R, M or C word: it is there when the instruction is always prefixed, and its rounding, type
and variant codes and its c bits are among those the description accepts. Each mask has bit n set when code n is
accepted; `cm` holds the bits of c that may be set. -/
def Pre.okE (p : Pre) (need : Bool) (rm ty cm subs : Nat) : Bool :=
  (!need || p.isSome) && p.guardOk && rm.testBit p.rm.toNat && ty.testBit p.ty.toNat &&
    subs.testBit p.sub.toNat && (p.c &&& BitVec.ofNat 7 cm == p.c)

/-- A prefix before an I word: `xi` holds the immediate bits that may be set. -/
def Pre.okX (p : Pre) (xi : Nat) : Bool := p.guardOk && (p.ximm &&& BitVec.ofNat 19 xi == p.ximm)

/-- The latch bits of an R word (R153): a latch is allowed for a or b only where that operand is a 32-bit register,
a latched field names b0 to b3, and a suppressed write has d = 0 (for CMP, d bits 2:0). -/
def RWord.latchOk (w : RWord) (la lb cmp : Bool) : Bool :=
  (!w.la || (la && zero w.a 0x7C)) && (!w.lb || (lb && zero w.b 0x7C)) &&
    (!w.nw || (if cmp then zero w.d 7 else w.d == 0))

/-- Codes 6 and 7 are reserved for the integer comparisons, and 8 to 15 for all (R193). -/
def ccInt (d : BitVec 7) : Bool := (d.extractLsb' 3 4).toNat < 6

/-- Codes 8 to 15 are reserved (R193). -/
def ccFloat (d : BitVec 7) : Bool := (d.extractLsb' 3 4).toNat < 8

/-- The 64-bit types name an even register (R161, R202, R213). -/
def pairOk (p : Pre) (d : BitVec 7) : Bool := !(p.ty == 7 || p.ty == 8) || mult2 d

/-- A conversion to a 64-bit type writes an even pair, and .sr is accepted only for the narrow float types (R236,
R324). -/
def cvtOk (p : Pre) (w : RWord) : Bool :=
  pairOk p w.d && (p.rm != 4 || (p.ty == 0x0A || p.ty == 0x0B || p.ty == 0x0C || p.ty == 0x0D))

/-- The class codes of XFENCE are 0 to 4 (R164, R326). -/
def xclassOk (d : BitVec 7) : Bool := (d.extractLsb' 0 3).toNat < 5 && (d.extractLsb' 3 3).toNat < 5

/-- The index of an event instruction (R220): imm10 bit 8 is 0, and field a is 0 unless bit 9 selects it. -/
def evOk (w : IWord) : Bool := !w.imm.getLsbD 8 && (w.imm.getLsbD 9 || w.a == 0)

/-- The conditions that R167 puts on the word and the prefix of each instruction: the fields its description
requires to be 0, the type, rounding and variant codes it accepts, the alignment of its wide operands and the
range of its immediate. An operation or event has no word, so nothing is asked of it. That rm 0 to 3 stand before FMIN, FMAX and
FCLASS, which round nothing, is the model's choice (assumption log 86). -/
def Instr.wf : Instr → Bool
  | .nop => true
  | .bra p _ => p.okE false 1 1 0 1
  | .braR p w => p.okE false 1 1 0 1 && zero w.d 0x7f && zero w.b 0x7f && mult2 w.a
  | .brcAny p w => p.okX 0x7ffff && zero w.d 0x78 && zero w.a 0x7f
  | .brcAll p w => p.okX 0x7ffff && zero w.d 0x78 && zero w.a 0x7f
  | .brcZ p w => p.okX 0x7ffff && zero w.d 0x7f
  | .brcNz p w => p.okX 0x7ffff && zero w.d 0x7f
  | .brd p w => p.okX 0x7ffff && zero w.d 0x78 && zero w.a 0x7f
  | .brdZ p w => p.okX 0x7ffff && zero w.d 0x7f
  | .brdNz p w => p.okX 0x7ffff && zero w.d 0x7f
  | .call p _ => p.okE false 1 1 0 1
  | .callR p w => p.okE false 1 1 0 1 && zero w.d 0x7f && zero w.b 0x7f && mult2 w.a
  | .ret p w => p.okE false 1 1 0 1 && zero w.d 0x7f && zero w.a 0x7f && zero w.b 0x7f
  | .exit p w => p.okE false 1 1 0 1 && w == 0
  | .wbase p w => p.okX 0 && zero w.d 0x7f && zero w.a 0x7f && zero w.imm 0x3e0
  | .wbaseR p w => p.okE false 1 1 0 1 && zero w.d 0x7f && zero w.b 0x7f
  | .yield p w => p.okE false 1 1 0 1 && w == 0
  | .trap p _ => p.okE false 1 1 0 1
  | .spop p w => p.okE false 1 1 0 1 && w == 0
  | .add p w => p.okE false 1 1 0 1 && w.latchOk true true false
  | .addi p _ => p.okX 0x7ffff
  | .sub p w => p.okE false 1 1 0 1 && w.latchOk true true false
  | .addSatI32 p w => p.okE false 1 1 0 1 && w.latchOk true true false
  | .addSatN32 p w => p.okE false 1 1 0 1 && w.latchOk true true false
  | .subSatI32 p w => p.okE false 1 1 0 1 && w.latchOk true true false
  | .subSatN32 p w => p.okE false 1 1 0 1 && w.latchOk true true false
  | .mul p w => p.okE false 1 1 0 1 && w.latchOk true true false
  | .muli p _ => p.okX 0x7ffff
  | .mulhI32 p w => p.okE false 1 1 0 1 && w.latchOk true true false
  | .mulhN32 p w => p.okE false 1 1 0 1 && w.latchOk true true false
  | .mad p w => p.okE true 1 1 0x7f 1 && w.latchOk true true false
  | .madwI32 p w => p.okE true 1 1 0x7f 1 && w.latchOk true true false && mult2 w.d && mult2 p.c
  | .madwN32 p w => p.okE true 1 1 0x7f 1 && w.latchOk true true false && mult2 w.d && mult2 p.c
  | .minI32 p w => p.okE false 1 1 0 1 && w.latchOk true true false
  | .minN32 p w => p.okE false 1 1 0 1 && w.latchOk true true false
  | .maxI32 p w => p.okE false 1 1 0 1 && w.latchOk true true false
  | .maxN32 p w => p.okE false 1 1 0 1 && w.latchOk true true false
  | .miniI32 p _ => p.okX 0x7ffff
  | .miniN32 p _ => p.okX 0x7ffff
  | .maxiI32 p _ => p.okX 0x7ffff
  | .maxiN32 p _ => p.okX 0x7ffff
  | .abs p w => p.okE false 1 1 0 1 && zero w.b 0x7f && w.latchOk true false false
  | .neg p w => p.okE false 1 1 0 1 && zero w.b 0x7f && w.latchOk true false false
  | .and p w => p.okE false 1 1 0 1 && w.latchOk true true false
  | .andi p _ => p.okX 0x7ffff
  | .or p w => p.okE false 1 1 0 1 && w.latchOk true true false
  | .ori p _ => p.okX 0x7ffff
  | .xor p w => p.okE false 1 1 0 1 && w.latchOk true true false
  | .xori p _ => p.okX 0x7ffff
  | .not p w => p.okE false 1 1 0 1 && zero w.b 0x7f && w.latchOk true false false
  | .andn p w => p.okE false 1 1 0 1 && w.latchOk true true false
  | .andni p _ => p.okX 0x7ffff
  | .shl p w => p.okE false 1 1 0 1 && w.latchOk true true false
  | .shli p w => p.okX 0 && zero w.imm 0x3e0
  | .shr p w => p.okE false 1 1 0 1 && w.latchOk true true false
  | .shri p w => p.okX 0 && zero w.imm 0x3e0
  | .sha p w => p.okE false 1 1 0 1 && w.latchOk true true false
  | .shai p w => p.okX 0 && zero w.imm 0x3e0
  | .rol p w => p.okE false 1 1 0 1 && w.latchOk true true false
  | .roli p w => p.okX 0 && zero w.imm 0x3e0
  | .ror p w => p.okE false 1 1 0 1 && w.latchOk true true false
  | .popc p w => p.okE false 1 1 0 1 && zero w.b 0x7f && w.latchOk true false false
  | .clz p w => p.okE false 1 1 0 1 && zero w.b 0x7f && w.latchOk true false false
  | .ctz p w => p.okE false 1 1 0 1 && zero w.b 0x7f && w.latchOk true false false
  | .brev p w => p.okE false 1 1 0 1 && zero w.b 0x7f && w.latchOk true false false
  | .bfxI32 p _ => p.okX 0
  | .bfxN32 p _ => p.okX 0
  | .bfi p _ => p.okX 0
  | .sel p w => p.okE true 1 1 7 1 && w.latchOk true true false
  | .mov p w => p.okE false 1 1 0 1 && zero w.b 0x7f && w.latchOk true false false
  | .movi p w => p.okX 0x7ffff && zero w.a 0x7f
  | .movh p _ => p.okX 0x3f
  | .lea p w => p.okE false 1 1 0 0xffff && w.latchOk false true false && mult2 w.d && mult2 w.a
  | .leai p w => p.okX 0x7ffff && mult2 w.d && mult2 w.a
  | .bfxrI32 p w => p.okE false 1 1 0 1 && w.latchOk true true false
  | .bfxrN32 p w => p.okE false 1 1 0 1 && w.latchOk true true false
  | .bfir p w => p.okE false 1 1 0 1 && w.latchOk true true false
  | .rsubi p _ => p.okX 0x7ffff
  | .fadd p w => p.okE false 0xf 0x201 0 1 && w.latchOk true true false
  | .fsub p w => p.okE false 0xf 0x201 0 1 && w.latchOk true true false
  | .fmul p w => p.okE false 0xf 0x201 0 1 && w.latchOk true true false
  | .ffma p w => p.okE true 0xf 0x201 0x7f 1 && w.latchOk true true false
  | .ffms p w => p.okE true 0xf 0x201 0x7f 1 && w.latchOk true true false
  | .fnma p w => p.okE true 0xf 0x201 0x7f 1 && w.latchOk true true false
  | .fmin p w => p.okE false 0xf 0x201 0 1 && w.latchOk true true false
  | .fmax p w => p.okE false 0xf 0x201 0 1 && w.latchOk true true false
  | .frcp p w => p.okE false 0xf 0x201 0 1 && zero w.b 0x7f && w.latchOk true false false
  | .frsq p w => p.okE false 1 0x201 0 1 && zero w.b 0x7f && w.latchOk true false false
  | .fsqrt p w => p.okE false 0xf 0x201 0 1 && zero w.b 0x7f && w.latchOk true false false
  | .fexp2 p w => p.okE false 1 0x201 0 1 && zero w.b 0x7f && w.latchOk true false false
  | .flog2 p w => p.okE false 1 0x201 0 1 && zero w.b 0x7f && w.latchOk true false false
  | .fclass p w => p.okE false 0xf 0x3e01 0 1 && zero w.b 0x7f && w.latchOk true false false
  | .faddX2 p w => p.okE false 0xf 0xc01 0 1 && w.latchOk true true false
  | .fsubX2 p w => p.okE false 0xf 0xc01 0 1 && w.latchOk true true false
  | .fmulX2 p w => p.okE false 0xf 0xc01 0 1 && w.latchOk true true false
  | .ffmaX2 p w => p.okE true 0xf 0xc01 0x7f 1 && w.latchOk true true false
  | .fminX2 p w => p.okE false 0xf 0xc01 0 1 && w.latchOk true true false
  | .fmaxX2 p w => p.okE false 0xf 0xc01 0 1 && w.latchOk true true false
  | .frcpX2 p w => p.okE false 0xf 0xc01 0 1 && zero w.b 0x7f && w.latchOk true false false
  | .frsqX2 p w => p.okE false 1 0xc01 0 1 && zero w.b 0x7f && w.latchOk true false false
  | .fsqrtX2 p w => p.okE false 0xf 0xc01 0 1 && zero w.b 0x7f && w.latchOk true false false
  | .fexp2X2 p w => p.okE false 1 0xc01 0 1 && zero w.b 0x7f && w.latchOk true false false
  | .flog2X2 p w => p.okE false 1 0xc01 0 1 && zero w.b 0x7f && w.latchOk true false false
  | .cvtFromF32 p w => p.okE false 0x1f 0x7fff 0 1 && zero w.b 0x7f && w.latchOk true false false && cvtOk p w
  | .cvtFromF16 p w => p.okE false 0x1f 0x7fff 0 1 && zero w.b 0x7f && w.latchOk true false false && cvtOk p w
  | .cvtFromBf16 p w => p.okE false 0x1f 0x7fff 0 1 && zero w.b 0x7f && w.latchOk true false false && cvtOk p w
  | .cvtFromE4m3 p w => p.okE false 0x1f 0x7fff 0 1 && zero w.b 0x7f && w.latchOk true false false && cvtOk p w
  | .cvtFromE5m2 p w => p.okE false 0x1f 0x7fff 0 1 && zero w.b 0x7f && w.latchOk true false false && cvtOk p w
  | .cvtFromI32 p w => p.okE false 0x1f 0x7fff 0 1 && zero w.b 0x7f && w.latchOk true false false && cvtOk p w
  | .cvtFromN32 p w => p.okE false 0x1f 0x7fff 0 1 && zero w.b 0x7f && w.latchOk true false false && cvtOk p w
  | .cvtFromI64 p w => p.okE false 0x1f 0x7fff 0 1 && zero w.b 0x7f && w.latchOk false false false && mult2 w.a && cvtOk p w
  | .cvtFromN64 p w => p.okE false 0x1f 0x7fff 0 1 && zero w.b 0x7f && w.latchOk false false false && mult2 w.a && cvtOk p w
  | .cvtFromI16 p w => p.okE false 0x1f 0x7fff 0 1 && zero w.b 0x7f && w.latchOk true false false && cvtOk p w
  | .cvtFromN16 p w => p.okE false 0x1f 0x7fff 0 1 && zero w.b 0x7f && w.latchOk true false false && cvtOk p w
  | .cvtFromI8 p w => p.okE false 0x1f 0x7fff 0 1 && zero w.b 0x7f && w.latchOk true false false && cvtOk p w
  | .cvtFromN8 p w => p.okE false 0x1f 0x7fff 0 1 && zero w.b 0x7f && w.latchOk true false false && cvtOk p w
  | .cvtFromI4 p w => p.okE false 0x1f 0x7fff 0 1 && zero w.b 0x7f && w.latchOk true false false && cvtOk p w
  | .cvtPk p w => p.okE true 0x1f 0x3c00 0 1 && w.latchOk true true false
  | .cvtPkHi p w => p.okE true 0x1f 0x3000 0 2 && w.latchOk true true false
  | .cmpI32 p w => p.okE false 1 1 0 1 && w.latchOk true true true && ccInt w.d
  | .cmpN32 p w => p.okE false 1 1 0 1 && w.latchOk true true true && ccInt w.d
  | .cmpF32 p w => p.okE false 1 0x201 0 1 && w.latchOk true true true && ccFloat w.d
  | .cmpiI32 p w => p.okX 0x7ffff && ccInt w.d
  | .cmpiN32 p w => p.okX 0x7ffff && ccInt w.d
  | .pand p w => p.okE false 1 1 0 1 && zero w.d 0x78 && zero w.a 0x78 && zero w.b 0x78 && w.latchOk false false false
  | .por p w => p.okE false 1 1 0 1 && zero w.d 0x78 && zero w.a 0x78 && zero w.b 0x78 && w.latchOk false false false
  | .pxor p w => p.okE false 1 1 0 1 && zero w.d 0x78 && zero w.a 0x78 && zero w.b 0x78 && w.latchOk false false false
  | .pnot p w => p.okE false 1 1 0 1 && zero w.d 0x78 && zero w.a 0x78 && zero w.b 0x7f && w.latchOk false false false
  | .pmov p w => p.okE false 1 1 0 1 && zero w.d 0x78 && zero w.a 0x78 && zero w.b 0x7f && w.latchOk false false false
  | .shflIdx p w => p.okE false 1 1 0 1 && w.latchOk true true false
  | .shflUp p w => p.okE false 1 1 0 1 && w.latchOk true true false
  | .shflDown p w => p.okE false 1 1 0 1 && w.latchOk true true false
  | .shflXor p w => p.okE false 1 1 0 1 && w.latchOk true true false
  | .shfliIdx p w => p.okX 0 && zero w.imm 0x3e0
  | .shfliUp p w => p.okX 0 && zero w.imm 0x3e0
  | .shfliDown p w => p.okX 0 && zero w.imm 0x3e0
  | .shfliXor p w => p.okX 0 && zero w.imm 0x3e0
  | .voteAny p w => p.okE false 1 1 0 1 && zero w.d 0x78 && zero w.a 0x78 && zero w.b 0x7f && w.latchOk false false false
  | .voteAll p w => p.okE false 1 1 0 1 && zero w.d 0x78 && zero w.a 0x78 && zero w.b 0x7f && w.latchOk false false false
  | .voteEq p w => p.okE false 1 1 0 1 && zero w.d 0x78 && zero w.a 0x78 && zero w.b 0x7f && w.latchOk false false false
  | .ballot p w => p.okE false 1 1 0 1 && zero w.a 0x78 && zero w.b 0x7f && w.latchOk false false false
  | .reduxAdd p w => p.okE false 1 1 0 1 && zero w.b 0x7f && w.latchOk true false false
  | .reduxMinI32 p w => p.okE false 1 1 0 1 && zero w.b 0x7f && w.latchOk true false false
  | .reduxMinN32 p w => p.okE false 1 1 0 1 && zero w.b 0x7f && w.latchOk true false false
  | .reduxMaxI32 p w => p.okE false 1 1 0 1 && zero w.b 0x7f && w.latchOk true false false
  | .reduxMaxN32 p w => p.okE false 1 1 0 1 && zero w.b 0x7f && w.latchOk true false false
  | .reduxAnd p w => p.okE false 1 1 0 1 && zero w.b 0x7f && w.latchOk true false false
  | .reduxOr p w => p.okE false 1 1 0 1 && zero w.b 0x7f && w.latchOk true false false
  | .reduxXor p w => p.okE false 1 1 0 1 && zero w.b 0x7f && w.latchOk true false false
  | .ld p w => p.okE false 1 0x201ff 0 1 && pairOk p w.d
  | .ldB128 p w => p.okE false 1 1 0 1 && mult4 w.d
  | .st p w => p.okE false 1 0x201ff 0 1 && pairOk p w.d
  | .stB128 p w => p.okE false 1 1 0 1 && mult4 w.d
  | .ldfeKeep p w => p.okE false 1 0x201ff 0 1 && pairOk p w.d
  | .ldfeClr p w => p.okE false 1 0x201ff 0 1 && pairOk p w.d
  | .stfe p w => p.okE false 1 0x201ff 0 1 && pairOk p w.d
  | .feset p _ => p.okE false 1 1 0 1
  | .feclr p _ => p.okE false 1 1 0 1
  | .ldt p w => p.okE true 1 0x201ff 7 1 && pairOk p w.d
  | .pref p w => p.okE false 1 1 0 1 && zero w.d 0x7f && w.order == 0 && w.scope == 0
  | .rld p w => p.okE false 1 1 0 1 && zero w.d 0x60
  | .rset p w => p.okX 0 && zero w.d 0x60 && zero w.imm 0x3f8
  | .rget p w => p.okX 0 && zero w.a 0x60 && zero w.imm 0x3f8
  | .rmov p w => p.okE false 1 1 0 1 && zero w.d 0x60 && zero w.a 0x60 && zero w.b 0x7f
  | .atomAdd p w => p.okE false 1 0x201e1 0 1 && pairOk p w.d
  | .atomMin p w => p.okE false 1 0x201e1 0 1 && pairOk p w.d
  | .atomMax p w => p.okE false 1 0x201e1 0 1 && pairOk p w.d
  | .atomAnd p w => p.okE false 1 0x201e1 0 1 && pairOk p w.d
  | .atomOr p w => p.okE false 1 0x201e1 0 1 && pairOk p w.d
  | .atomXor p w => p.okE false 1 0x201e1 0 1 && pairOk p w.d
  | .atomXchg p w => p.okE false 1 0x201e1 0 1 && pairOk p w.d
  | .atomCas p w => p.okE true 1 0x201e1 0x7f 1 && (pairOk p w.d && pairOk p (p.c))
  | .atomIncw p w => p.okE false 1 0x201e1 0 1 && pairOk p w.d
  | .redAdd p w => p.okE false 1 0x201e1 0 1 && pairOk p w.d
  | .redMin p w => p.okE false 1 0x201e1 0 1 && pairOk p w.d
  | .redMax p w => p.okE false 1 0x201e1 0 1 && pairOk p w.d
  | .redAnd p w => p.okE false 1 0x201e1 0 1 && pairOk p w.d
  | .redOr p w => p.okE false 1 0x201e1 0 1 && pairOk p w.d
  | .redXor p w => p.okE false 1 0x201e1 0 1 && pairOk p w.d
  | .atomfAdd p _ => p.okE false 1 0x201 0 1
  | .atomfMin p _ => p.okE true 1 0x201 0 2
  | .atomfMax p _ => p.okE true 1 0x201 0 4
  | .fence p w => p.okE false 1 1 0 1 && zero w.d 0x7f && zero w.x 0x7f && w.k == 0 && !w.e
  | .xfence p w => p.okE false 1 1 0 1 && zero w.d 0x40 && zero w.x 0x7f && w.k == 0 && w.order == 0 && !w.e && xclassOk w.d
  | .bar => true
  | .bara => true
  | .barw => true
  | .gbar => true
  | .qpush p w => p.okE false 1 1 0 1 && zero w.d 0x70 && zero w.b 0x7f
  | .qpop p w => p.okE false 1 1 0 1 && zero w.a 0x70 && zero w.b 0x7f
  | .qtry p w => p.okE false 1 1 0 1 && zero w.a 0x70 && zero w.b 0x78
  | .qallow p w => p.okX 0x7ffff && zero w.d 0x70 && zero w.a 0x7f
  | .qinit p w => p.okX 0 && zero w.d 0x70 && zero w.imm 0x200
  | .evwait p w => p.okX 0 && zero w.d 0x7f && evOk w
  | .evset p w => p.okX 0 && zero w.d 0x7f && evOk w
  | .evclr p w => p.okX 0 && zero w.d 0x7f && evOk w
  | .evtest p w => p.okX 0 && zero w.d 0x78 && evOk w
  | .mma p w => p.okE false 1 0x7c03 0 1 && zero w.d 0x60 && zero w.a 0x60 && zero w.b 0x60 && mult4 w.d
  | .mmaW p w => p.okE false 1 0x3c01 0 1 && zero w.d 0x60 && zero w.a 0x60 && zero w.b 0x60 && mult4 w.d
  | .cmma p w => p.okE false 1 0x18001 0 1 && zero w.d 0x60 && zero w.a 0x60 && zero w.b 0x60 && mult4 w.d
  | .aclr p w => p.okE false 1 1 0 1 && zero w.d 0x60 && zero w.a 0x60 && zero w.b 0x7f
  | .adrain p w => p.okE false 1 1 0 1 && zero w.d 0x60
  | .afill p w => p.okE false 1 1 0 1 && zero w.d 0x60
  | .ast p w => p.okE false 0x1f 1 0 1 && zero w.d 0x60
  | .astW p w => p.okE true 0x1f 1 0 2 && zero w.d 0x60
  | .astI p w => p.okE true 1 1 0 4 && zero w.d 0x60
  | .amov p w => p.okE false 1 1 0 1 && zero w.d 0x60 && zero w.a 0x60 && zero w.b 0x7f
  | .amovGet p w => p.okE true 1 1 0 2 && zero w.a 0x60
  | .amovPut p w => p.okE true 1 1 0 4 && zero w.d 0x60
  | .bndrd p w => p.okE false 1 1 0 1 && zero w.a 0x60 && zero w.b 0x7f && mult2 w.d
  | .bndrdK p w => p.okE true 1 1 0 2 && zero w.a 0x60 && zero w.b 0x7f
  | .bndwr p w => p.okE false 1 1 0 1 && zero w.d 0x60 && zero w.b 0x7f && mult2 w.a
  | .bndthr p w => p.okX 0 && zero w.d 0x60 && zero w.a 0x7f && zero w.imm 0x3c0
  | .bndchk p w => p.okE false 1 1 0 1 && zero w.d 0x60 && zero w.a 0x7f && zero w.b 0x7f
  | .cvtq p w => p.okE false 0x1f 0x3001 0 1 && mult4 w.d && mult4 w.a && mult2 w.b
  | .srseed p w => p.okE false 1 1 0 1 && zero w.d 0x7f && zero w.b 0x7f
  | .smerge p w => p.okE false 1 0x201 0 1 && zero w.b 0x7f
  | .fork p _ => p.okE false 1 1 0 1
  | .forkHandle p _ => p.okE true 1 1 0x7f 2
  | .rdv p w => p.okE false 1 1 0 1 && zero w.d 0x7f && zero w.b 0x7f
  | .rdvAll p w => p.okE true 1 1 0 2 && zero w.d 0x7f && zero w.a 0x7f && zero w.b 0x7f
  | .acopy p w => p.okE false 1 1 0 0x3333 && w.order == 0
  | .acopyA p w => p.okE true 1 1 0 4 && zero w.d 0x60 && w.order == 0
  | .acopyB p w => p.okE true 1 1 0x7f 0x40 && zero w.d 0x60 && w.order == 0
  | .mfill p w => p.okE false 1 1 0x7f 0xf && w.order == 0 && (p.sub.getLsbD 1 || p.c == 0)
  | .bcopy p w => p.okE true 1 1 0x7f 3 && zero w.a 0x60 && zero w.b 0x60
  | .cacopy p w => p.okE false 1 1 0 3 && zero w.a 0x60 && zero w.b 0x60
  | .acwait p w => p.okE false 1 1 0 1 && zero w.d 0x7f && zero w.b 0x7f
  | .bcwait p w => p.okE false 1 1 0 1 && zero w.d 0x7f && zero w.b 0x7f
  | .cains p w => p.okE false 1 1 0 1 && mult2 w.d
  | .cainsN p w => p.okE false 1 1 0 1 && mult2 w.d
  | .caget p w => p.okE false 1 1 0 1 && zero w.b 0x7f && mult2 w.a
  | .carefInc p w => p.okE false 1 1 0 1 && zero w.d 0x7f && zero w.b 0x7f && mult2 w.a
  | .carefDec p w => p.okE false 1 1 0 1 && zero w.d 0x7f && zero w.b 0x7f && mult2 w.a
  | .carefPin p w => p.okE false 1 1 0 1 && zero w.b 0x7f && mult2 w.d && mult2 w.a
  | .caswap p w => p.okE true 1 1 0x7f 1 && mult2 w.d && mult2 p.c
  | .kvwalk p w => p.okE true 1 1 0x7f 1 && zero w.a 0x60 && mult4 w.d && mult2 p.c
  | .cawalk p w => p.okE false 1 1 0 0xffff && zero w.a 0x60 && mult2 w.d
  | .launch p w => p.okE false 1 1 0 1 && zero w.d 0x7f && zero w.a 0x60
  | .sysrd p _ => p.okX 0
  | .syswr p _ => p.okX 0
  | .tlbinv p w => p.okE false 1 1 0 1 && zero w.d 0x7f && mult2 w.a
  | .shoot p w => p.okE false 1 1 0 1 && zero w.d 0x7f && mult2 w.a
  | .shootCtx p w => p.okE true 1 1 0x7f 2 && zero w.d 0x7f && mult2 w.a
  | .ctxsw p w => p.okE false 1 1 0 1 && zero w.d 0x7f
  | .uien p w => p.okE false 1 1 0 1 && zero w.d 0x7f && zero w.b 0x7f
  | .userInterruptDelivery => true
  | .splitMerge => true
  | .stackPop => true
  | .yieldTimeout => true
  | .launchTake => true
  | .gangPlace => true
  | .blockRetire => true
  | .gridRetire => true
  | .barrierPhaseComplete => true
  | .queueRetry => true
  | .ldfeRetry => true
  | .preemptSwap => true
  | .spill => true
  | .restoreLoad => true
  | .stagedSwap => true
  | .stallReport => true
  | .hangReport => true
  | .quarterBind => true
  | .passStart => true
  | .passPromote => true
  | .completion => true
  | .copyLanding => true
  | .pageWalk => true
  | .homeSliceAtomic => true
  | .readWindowClose => true
  | .park => true
  | .faultRecordPost => true
  | .redrive => true
  | .inboundPostedWrite => true
  | .inboundRead => true
  | .inboundTimeout => true
  | .peerFailureCompletion => true
  | .relaxedFlushAck => true
  | .pageInJob => true
  | .bulkCopyJob => true
  | .cacopyJob => true
  | .caInsert => true
  | .lovageReclaim => true
  | .savoryScrub => true
  | .wsRefreshOpen => true
  | .wsRefreshClose => true
  | .congestionMark => true
  | .injectionRateRecover => true
  | .eccCorrected => true
  | .eccUncorrectable => true
  | .linkCheckFail => true
  | .portDown => true
  | .mmioReadTimeout => true
  | .cxlPoisonCompletion => true
  | .clockIslandSwitch => true
  | .throttleRaise => true
  | .throttleLower => true
  | .thermalReset => true
  | .powerOnBoot => true
  | .powerRemove => true
  | .sidebandReset => true
  | .attestation => true
  | .sidebandNack => true
  | .launchq => true
  | .killctx => true
  | .careset => true
  | .caframe => true
  | .uiraise => true
  | .stallstClear => true
  | .ctxerrClear => true
  | .lrefuseClear => true
  | .mfreezeFreeze => true
  | .mfreezeDiscard => true
  | .xpcWrite => true
  | .fqheadAdvance => true
  | .poolTake64k => true
  | .poolTake2m => true
  | .poolTake1g => true
  | .plango => true
  | .portRetrain => true
  | .portRearm => true
  | .portstClear => true
  | .memerrClear => true
  | .ctxderrClear => true
  | .trustWriteRefused => true
  | .registerWrite => true
  | .contextCreate => true
  | .partitionRangesSet => true
  | .supervisorHartAccess => true
  | .portRetrained => true

end Sys2Proof
end

