-- ==== Sys2Proof/Decode.lean ====
section
/-! DEFINITION. The decoder of instruction bytes, total and rejecting by name (spec/07_encoding.md R151 to R156, R165 to
R167), and the encoder, written from the same tables. -/

namespace Sys2Proof

/-- Why bytes are no instruction (R167). -/
inductive Reject where
  /-- Fewer bytes than the instruction has. -/
  | truncated
  /-- 0x0000_0000 or 0xFFFF_FFFF. -/
  | reservedWord
  /-- A reserved opcode value. -/
  | reservedOpcode
  /-- A reserved selector value of a shared slot. -/
  | reservedSelector
  /-- A prefix followed by a prefix. -/
  | doublePrefix
  /-- A bit set in a field that must be 0, a code that is not accepted, a missing prefix or a misaligned name. -/
  | reservedField
  deriving DecidableEq, Repr

/-- The fields of an R word of a latch family (R152). -/
def RWord.ofBits (v : BitVec 32) : RWord :=
  { d := v.extractLsb' 17 7, a := v.extractLsb' 10 7, b := v.extractLsb' 3 7, la := v.getLsbD 2, lb := v.getLsbD 1,
    nw := v.getLsbD 0 }

/-- The operand fields of any other R word (R152). -/
def SWord.ofBits (v : BitVec 32) : SWord :=
  { d := v.extractLsb' 17 7, a := v.extractLsb' 10 7, b := v.extractLsb' 3 7 }

/-- The fields of an I word (R152). -/
def IWord.ofBits (v : BitVec 32) : IWord :=
  { d := v.extractLsb' 17 7, a := v.extractLsb' 10 7, imm := v.extractLsb' 0 10 }

/-- The fields of an M word (R152). -/
def MWord.ofBits (v : BitVec 32) : MWord :=
  { d := v.extractLsb' 17 7, x := v.extractLsb' 10 7, k := v.extractLsb' 5 5, order := v.extractLsb' 3 2,
    scope := v.extractLsb' 1 2, e := v.getLsbD 0 }

/-- The imm24 of a C word (R152). -/
def CWord.ofBits (v : BitVec 32) : CWord := v.extractLsb' 0 24

/-- The fields of a prefix word (R154). -/
def Prefix.ofBits (v : BitVec 32) : Prefix :=
  { gn := v.getLsbD 23, gp := v.extractLsb' 20 3, ge := v.getLsbD 19, ext := v.extractLsb' 0 19 }

/-- The word of the R format with an opcode (R152). -/
def RWord.bits (w : RWord) (op : Nat) : BitVec 32 :=
  BitVec.ofNat 8 op ++ w.d ++ w.a ++ w.b ++ BitVec.ofBool w.la ++ BitVec.ofBool w.lb ++ BitVec.ofBool w.nw

/-- The word of the R format with an opcode and the selector of a shared slot (R152, R166). -/
def SWord.bits (w : SWord) (op sel : Nat) : BitVec 32 :=
  BitVec.ofNat 8 op ++ w.d ++ w.a ++ w.b ++ BitVec.ofNat 2 sel ++ 0#1

/-- The word of the I format with an opcode (R152). -/
def IWord.bits (w : IWord) (op : Nat) : BitVec 32 := BitVec.ofNat 8 op ++ w.d ++ w.a ++ w.imm

/-- The word of the M format with an opcode (R152). -/
def MWord.bits (w : MWord) (op : Nat) : BitVec 32 :=
  BitVec.ofNat 8 op ++ w.d ++ w.x ++ w.k ++ w.order ++ w.scope ++ BitVec.ofBool w.e

/-- The word of the C format with an opcode (R152). -/
def CWord.bits (w : CWord) (op : Nat) : BitVec 32 := BitVec.ofNat 8 op ++ w

/-- A prefix word (R154). -/
def Prefix.bits (p : Prefix) : BitVec 32 :=
  0xFE#8 ++ BitVec.ofBool p.gn ++ p.gp ++ BitVec.ofBool p.ge ++ p.ext

/-- The selector of a shared slot (R166): bits 2:1, with bit 0 equal to 0. -/
def selOf (v : BitVec 32) : Nat := (v.extractLsb' 0 3).toNat / 2 + (if v.getLsbD 0 then 4 else 0)

/-- Why a selector is refused: bit 0 must be 0, and the rest are reserved values. -/
def badSel (v : BitVec 32) : Reject := if v.getLsbD 0 then .reservedField else .reservedSelector

/-- Bits 2:0 of an R word outside the latch families and the shared slots are 0 (R153). -/
def lowZero (v : BitVec 32) : Bool := v.extractLsb' 0 3 == 0

/-- The instruction of a word and its prefix, chosen by the opcode (R165), the selector of a shared slot (R166)
and the variant that the prefix names. The fields are read here and checked by `Instr.wf` afterwards. -/
def build (p : Pre) (v : BitVec 32) : Except Reject Instr :=
  match (v.extractLsb' 24 8).toNat with
  | 0x01 => if p.okE false 1 1 0 1 && CWord.ofBits v == 0 then .ok .nop else .error .reservedField
  | 0x02 => .ok (.bra p (CWord.ofBits v))
  | 0x03 => if lowZero v then .ok (.braR p (SWord.ofBits v)) else .error .reservedField
  | 0x04 => .ok (.brcAny p (IWord.ofBits v))
  | 0x05 => .ok (.brcAll p (IWord.ofBits v))
  | 0x06 => .ok (.brcZ p (IWord.ofBits v))
  | 0x07 => .ok (.brcNz p (IWord.ofBits v))
  | 0x08 => .ok (.brd p (IWord.ofBits v))
  | 0x09 => .ok (.brdZ p (IWord.ofBits v))
  | 0x0A => .ok (.brdNz p (IWord.ofBits v))
  | 0x0B => .ok (.call p (CWord.ofBits v))
  | 0x0C => if lowZero v then .ok (.callR p (SWord.ofBits v)) else .error .reservedField
  | 0x0D => if lowZero v then .ok (.ret p (SWord.ofBits v)) else .error .reservedField
  | 0x0E => .ok (.exit p (CWord.ofBits v))
  | 0x0F => .ok (.wbase p (IWord.ofBits v))
  | 0x10 => if lowZero v then .ok (.wbaseR p (SWord.ofBits v)) else .error .reservedField
  | 0x11 => .ok (.yield p (CWord.ofBits v))
  | 0x12 => .ok (.trap p (CWord.ofBits v))
  | 0x13 => .ok (.spop p (CWord.ofBits v))
  | 0x20 => .ok (.add p (RWord.ofBits v))
  | 0x21 => .ok (.addi p (IWord.ofBits v))
  | 0x22 => .ok (.sub p (RWord.ofBits v))
  | 0x23 => .ok (.addSatI32 p (RWord.ofBits v))
  | 0x24 => .ok (.addSatN32 p (RWord.ofBits v))
  | 0x25 => .ok (.subSatI32 p (RWord.ofBits v))
  | 0x26 => .ok (.subSatN32 p (RWord.ofBits v))
  | 0x27 => .ok (.mul p (RWord.ofBits v))
  | 0x28 => .ok (.muli p (IWord.ofBits v))
  | 0x29 => .ok (.mulhI32 p (RWord.ofBits v))
  | 0x2A => .ok (.mulhN32 p (RWord.ofBits v))
  | 0x2B => .ok (.mad p (RWord.ofBits v))
  | 0x2C => .ok (.madwI32 p (RWord.ofBits v))
  | 0x2D => .ok (.madwN32 p (RWord.ofBits v))
  | 0x2E => .ok (.minI32 p (RWord.ofBits v))
  | 0x2F => .ok (.minN32 p (RWord.ofBits v))
  | 0x30 => .ok (.maxI32 p (RWord.ofBits v))
  | 0x31 => .ok (.maxN32 p (RWord.ofBits v))
  | 0x32 => .ok (.miniI32 p (IWord.ofBits v))
  | 0x33 => .ok (.miniN32 p (IWord.ofBits v))
  | 0x34 => .ok (.maxiI32 p (IWord.ofBits v))
  | 0x35 => .ok (.maxiN32 p (IWord.ofBits v))
  | 0x36 => .ok (.abs p (RWord.ofBits v))
  | 0x37 => .ok (.neg p (RWord.ofBits v))
  | 0x38 => .ok (.and p (RWord.ofBits v))
  | 0x39 => .ok (.andi p (IWord.ofBits v))
  | 0x3A => .ok (.or p (RWord.ofBits v))
  | 0x3B => .ok (.ori p (IWord.ofBits v))
  | 0x3C => .ok (.xor p (RWord.ofBits v))
  | 0x3D => .ok (.xori p (IWord.ofBits v))
  | 0x3E => .ok (.not p (RWord.ofBits v))
  | 0x3F => .ok (.andn p (RWord.ofBits v))
  | 0x40 => .ok (.andni p (IWord.ofBits v))
  | 0x41 => .ok (.shl p (RWord.ofBits v))
  | 0x42 => .ok (.shli p (IWord.ofBits v))
  | 0x43 => .ok (.shr p (RWord.ofBits v))
  | 0x44 => .ok (.shri p (IWord.ofBits v))
  | 0x45 => .ok (.sha p (RWord.ofBits v))
  | 0x46 => .ok (.shai p (IWord.ofBits v))
  | 0x47 => .ok (.rol p (RWord.ofBits v))
  | 0x48 => .ok (.roli p (IWord.ofBits v))
  | 0x49 => .ok (.ror p (RWord.ofBits v))
  | 0x4A => .ok (.popc p (RWord.ofBits v))
  | 0x4B => .ok (.clz p (RWord.ofBits v))
  | 0x4C => .ok (.ctz p (RWord.ofBits v))
  | 0x4D => .ok (.brev p (RWord.ofBits v))
  | 0x4E => .ok (.bfxI32 p (IWord.ofBits v))
  | 0x4F => .ok (.bfxN32 p (IWord.ofBits v))
  | 0x50 => .ok (.bfi p (IWord.ofBits v))
  | 0x51 => .ok (.sel p (RWord.ofBits v))
  | 0x52 => .ok (.mov p (RWord.ofBits v))
  | 0x53 => .ok (.movi p (IWord.ofBits v))
  | 0x54 => .ok (.movh p (IWord.ofBits v))
  | 0x55 => .ok (.lea p (RWord.ofBits v))
  | 0x56 => .ok (.leai p (IWord.ofBits v))
  | 0x57 => .ok (.bfxrI32 p (RWord.ofBits v))
  | 0x58 => .ok (.bfxrN32 p (RWord.ofBits v))
  | 0x59 => .ok (.bfir p (RWord.ofBits v))
  | 0x5A => .ok (.rsubi p (IWord.ofBits v))
  | 0x60 => .ok (.fadd p (RWord.ofBits v))
  | 0x61 => .ok (.fsub p (RWord.ofBits v))
  | 0x62 => .ok (.fmul p (RWord.ofBits v))
  | 0x63 => .ok (.ffma p (RWord.ofBits v))
  | 0x64 => .ok (.ffms p (RWord.ofBits v))
  | 0x65 => .ok (.fnma p (RWord.ofBits v))
  | 0x66 => .ok (.fmin p (RWord.ofBits v))
  | 0x67 => .ok (.fmax p (RWord.ofBits v))
  | 0x68 => .ok (.frcp p (RWord.ofBits v))
  | 0x69 => .ok (.frsq p (RWord.ofBits v))
  | 0x6A => .ok (.fsqrt p (RWord.ofBits v))
  | 0x6B => .ok (.fexp2 p (RWord.ofBits v))
  | 0x6C => .ok (.flog2 p (RWord.ofBits v))
  | 0x6D => .ok (.fclass p (RWord.ofBits v))
  | 0x6E => .ok (.faddX2 p (RWord.ofBits v))
  | 0x6F => .ok (.fsubX2 p (RWord.ofBits v))
  | 0x70 => .ok (.fmulX2 p (RWord.ofBits v))
  | 0x71 => .ok (.ffmaX2 p (RWord.ofBits v))
  | 0x72 => .ok (.fminX2 p (RWord.ofBits v))
  | 0x73 => .ok (.fmaxX2 p (RWord.ofBits v))
  | 0x74 => .ok (.frcpX2 p (RWord.ofBits v))
  | 0x75 => .ok (.frsqX2 p (RWord.ofBits v))
  | 0x76 => .ok (.fsqrtX2 p (RWord.ofBits v))
  | 0x77 => .ok (.fexp2X2 p (RWord.ofBits v))
  | 0x78 => .ok (.flog2X2 p (RWord.ofBits v))
  | 0x79 => .ok (.cvtFromF32 p (RWord.ofBits v))
  | 0x7A => .ok (.cvtFromF16 p (RWord.ofBits v))
  | 0x7B => .ok (.cvtFromBf16 p (RWord.ofBits v))
  | 0x7C => .ok (.cvtFromE4m3 p (RWord.ofBits v))
  | 0x7D => .ok (.cvtFromE5m2 p (RWord.ofBits v))
  | 0x7E => .ok (.cvtFromI32 p (RWord.ofBits v))
  | 0x7F => .ok (.cvtFromN32 p (RWord.ofBits v))
  | 0x80 => .ok (.cvtFromI64 p (RWord.ofBits v))
  | 0x81 => .ok (.cvtFromN64 p (RWord.ofBits v))
  | 0x82 => .ok (.cvtFromI16 p (RWord.ofBits v))
  | 0x83 => .ok (.cvtFromN16 p (RWord.ofBits v))
  | 0x84 => .ok (.cvtFromI8 p (RWord.ofBits v))
  | 0x85 => .ok (.cvtFromN8 p (RWord.ofBits v))
  | 0x86 => .ok (.cvtFromI4 p (RWord.ofBits v))
  | 0x87 => if p.sub == 1 then .ok (.cvtPkHi p (RWord.ofBits v)) else .ok (.cvtPk p (RWord.ofBits v))
  | 0x90 => .ok (.cmpI32 p (RWord.ofBits v))
  | 0x91 => .ok (.cmpN32 p (RWord.ofBits v))
  | 0x92 => .ok (.cmpF32 p (RWord.ofBits v))
  | 0x93 => .ok (.cmpiI32 p (IWord.ofBits v))
  | 0x94 => .ok (.cmpiN32 p (IWord.ofBits v))
  | 0x95 => .ok (.pand p (RWord.ofBits v))
  | 0x96 => .ok (.por p (RWord.ofBits v))
  | 0x97 => .ok (.pxor p (RWord.ofBits v))
  | 0x98 => .ok (.pnot p (RWord.ofBits v))
  | 0x99 => .ok (.pmov p (RWord.ofBits v))
  | 0x9A => .ok (.shflIdx p (RWord.ofBits v))
  | 0x9B => .ok (.shflUp p (RWord.ofBits v))
  | 0x9C => .ok (.shflDown p (RWord.ofBits v))
  | 0x9D => .ok (.shflXor p (RWord.ofBits v))
  | 0x9E => .ok (.shfliIdx p (IWord.ofBits v))
  | 0x9F => .ok (.shfliUp p (IWord.ofBits v))
  | 0xA0 => .ok (.shfliDown p (IWord.ofBits v))
  | 0xA1 => .ok (.shfliXor p (IWord.ofBits v))
  | 0xA2 => .ok (.voteAny p (RWord.ofBits v))
  | 0xA3 => .ok (.voteAll p (RWord.ofBits v))
  | 0xA4 => .ok (.voteEq p (RWord.ofBits v))
  | 0xA5 => .ok (.ballot p (RWord.ofBits v))
  | 0xA6 => .ok (.reduxAdd p (RWord.ofBits v))
  | 0xA7 => .ok (.reduxMinI32 p (RWord.ofBits v))
  | 0xA8 => .ok (.reduxMinN32 p (RWord.ofBits v))
  | 0xA9 => .ok (.reduxMaxI32 p (RWord.ofBits v))
  | 0xAA => .ok (.reduxMaxN32 p (RWord.ofBits v))
  | 0xAB => .ok (.reduxAnd p (RWord.ofBits v))
  | 0xAC => .ok (.reduxOr p (RWord.ofBits v))
  | 0xAD => .ok (.reduxXor p (RWord.ofBits v))
  | 0xB0 => .ok (.ld p (MWord.ofBits v))
  | 0xB1 => .ok (.ldB128 p (MWord.ofBits v))
  | 0xB2 => .ok (.st p (MWord.ofBits v))
  | 0xB3 => .ok (.stB128 p (MWord.ofBits v))
  | 0xB4 => .ok (.ldfeKeep p (MWord.ofBits v))
  | 0xB5 => .ok (.ldfeClr p (MWord.ofBits v))
  | 0xB6 => .ok (.stfe p (MWord.ofBits v))
  | 0xB7 => .ok (.feset p (MWord.ofBits v))
  | 0xB8 => .ok (.feclr p (MWord.ofBits v))
  | 0xB9 => .ok (.ldt p (MWord.ofBits v))
  | 0xBA => .ok (.pref p (MWord.ofBits v))
  | 0xBB => .ok (.rld p (MWord.ofBits v))
  | 0xBC => .ok (.rset p (IWord.ofBits v))
  | 0xBD => .ok (.rget p (IWord.ofBits v))
  | 0xBE => if lowZero v then .ok (.rmov p (SWord.ofBits v)) else .error .reservedField
  | 0xBF => .ok (.atomAdd p (MWord.ofBits v))
  | 0xC0 => .ok (.atomMin p (MWord.ofBits v))
  | 0xC1 => .ok (.atomMax p (MWord.ofBits v))
  | 0xC2 => .ok (.atomAnd p (MWord.ofBits v))
  | 0xC3 => .ok (.atomOr p (MWord.ofBits v))
  | 0xC4 => .ok (.atomXor p (MWord.ofBits v))
  | 0xC5 => .ok (.atomXchg p (MWord.ofBits v))
  | 0xC6 => .ok (.atomCas p (MWord.ofBits v))
  | 0xC7 => .ok (.atomIncw p (MWord.ofBits v))
  | 0xC8 => .ok (.redAdd p (MWord.ofBits v))
  | 0xC9 => .ok (.redMin p (MWord.ofBits v))
  | 0xCA => .ok (.redMax p (MWord.ofBits v))
  | 0xCB => .ok (.redAnd p (MWord.ofBits v))
  | 0xCC => .ok (.redOr p (MWord.ofBits v))
  | 0xCD => .ok (.redXor p (MWord.ofBits v))
  | 0xCE => if p.sub == 1 then .ok (.atomfMin p (MWord.ofBits v)) else if p.sub == 2 then .ok (.atomfMax p (MWord.ofBits v)) else .ok (.atomfAdd p (MWord.ofBits v))
  | 0xD0 => .ok (.fence p (MWord.ofBits v))
  | 0xD1 => .ok (.xfence p (MWord.ofBits v))
  | 0xD2 => if lowZero v then if p.okE false 1 1 0 1 && zero (SWord.ofBits v).d 0x7f && zero (SWord.ofBits v).a 0x7f && zero (SWord.ofBits v).b 0x7f then .ok .bar else .error .reservedField else .error .reservedField
  | 0xD3 => if lowZero v then if p.okE false 1 1 0 1 && zero (SWord.ofBits v).d 0x7f && zero (SWord.ofBits v).a 0x7f && zero (SWord.ofBits v).b 0x7f then .ok .bara else .error .reservedField else .error .reservedField
  | 0xD4 => if lowZero v then if p.okE false 1 1 0 1 && zero (SWord.ofBits v).d 0x7f && zero (SWord.ofBits v).a 0x7f && zero (SWord.ofBits v).b 0x7f then .ok .barw else .error .reservedField else .error .reservedField
  | 0xD5 => if lowZero v then if p.okE false 1 1 0 1 && zero (SWord.ofBits v).d 0x7f && zero (SWord.ofBits v).a 0x7f && zero (SWord.ofBits v).b 0x7f then .ok .gbar else .error .reservedField else .error .reservedField
  | 0xD6 => if lowZero v then .ok (.qpush p (SWord.ofBits v)) else .error .reservedField
  | 0xD7 => if lowZero v then .ok (.qpop p (SWord.ofBits v)) else .error .reservedField
  | 0xD8 => if lowZero v then .ok (.qtry p (SWord.ofBits v)) else .error .reservedField
  | 0xD9 => .ok (.qallow p (IWord.ofBits v))
  | 0xDA => .ok (.qinit p (IWord.ofBits v))
  | 0xDB => .ok (.evwait p (IWord.ofBits v))
  | 0xDC => .ok (.evset p (IWord.ofBits v))
  | 0xDD => .ok (.evclr p (IWord.ofBits v))
  | 0xDE => .ok (.evtest p (IWord.ofBits v))
  | 0xE0 => if lowZero v then .ok (.mma p (SWord.ofBits v)) else .error .reservedField
  | 0xE1 => if lowZero v then .ok (.mmaW p (SWord.ofBits v)) else .error .reservedField
  | 0xE2 => if lowZero v then .ok (.cmma p (SWord.ofBits v)) else .error .reservedField
  | 0xE3 => if lowZero v then .ok (.aclr p (SWord.ofBits v)) else .error .reservedField
  | 0xE4 => .ok (.adrain p (MWord.ofBits v))
  | 0xE5 => .ok (.afill p (MWord.ofBits v))
  | 0xE6 => if p.sub == 1 then .ok (.astW p (MWord.ofBits v)) else if p.sub == 2 then .ok (.astI p (MWord.ofBits v)) else .ok (.ast p (MWord.ofBits v))
  | 0xE7 => if lowZero v then if p.sub == 1 then .ok (.amovGet p (SWord.ofBits v)) else if p.sub == 2 then .ok (.amovPut p (SWord.ofBits v)) else .ok (.amov p (SWord.ofBits v)) else .error .reservedField
  | 0xE8 => if lowZero v then if p.sub == 1 then .ok (.bndrdK p (SWord.ofBits v)) else .ok (.bndrd p (SWord.ofBits v)) else .error .reservedField
  | 0xE9 => if lowZero v then .ok (.bndwr p (SWord.ofBits v)) else .error .reservedField
  | 0xEA => .ok (.bndthr p (IWord.ofBits v))
  | 0xEB => if lowZero v then .ok (.bndchk p (SWord.ofBits v)) else .error .reservedField
  | 0xEC => if lowZero v then .ok (.cvtq p (SWord.ofBits v)) else .error .reservedField
  | 0xED => if lowZero v then .ok (.srseed p (SWord.ofBits v)) else .error .reservedField
  | 0xEE => if lowZero v then .ok (.smerge p (SWord.ofBits v)) else .error .reservedField
  | 0xF0 => if p.sub.getLsbD 0 then .ok (.forkHandle p (CWord.ofBits v)) else .ok (.fork p (CWord.ofBits v))
  | 0xF1 => if lowZero v then if p.sub == 1 then .ok (.rdvAll p (SWord.ofBits v)) else .ok (.rdv p (SWord.ofBits v)) else .error .reservedField
  | 0xF2 => if !p.sub.getLsbD 1 then .ok (.acopy p (MWord.ofBits v)) else if p.sub == 6 then .ok (.acopyB p (MWord.ofBits v)) else .ok (.acopyA p (MWord.ofBits v))
  | 0xF3 => .ok (.mfill p (MWord.ofBits v))
  | 0xF4 => match selOf v with
    | 0 => .ok (.bcopy p (SWord.ofBits v))
    | 1 => .ok (.cacopy p (SWord.ofBits v))
    | _ => .error (badSel v)
  | 0xF5 => match selOf v with
    | 0 => .ok (.acwait p (SWord.ofBits v))
    | 1 => .ok (.bcwait p (SWord.ofBits v))
    | _ => .error (badSel v)
  | 0xF6 => match selOf v with
    | 0 => .ok (.cains p (SWord.ofBits v))
    | 1 => .ok (.cainsN p (SWord.ofBits v))
    | _ => .error (badSel v)
  | 0xF7 => match selOf v with
    | 0 => .ok (.caget p (SWord.ofBits v))
    | 1 => .ok (.carefInc p (SWord.ofBits v))
    | 2 => .ok (.carefDec p (SWord.ofBits v))
    | 3 => .ok (.carefPin p (SWord.ofBits v))
    | _ => .error (badSel v)
  | 0xF8 => .ok (.caswap p (MWord.ofBits v))
  | 0xF9 => match selOf v with
    | 0 => .ok (.kvwalk p (SWord.ofBits v))
    | 1 => .ok (.cawalk p (SWord.ofBits v))
    | _ => .error (badSel v)
  | 0xFA => if lowZero v then .ok (.launch p (SWord.ofBits v)) else .error .reservedField
  | 0xFB => .ok (.sysrd p (IWord.ofBits v))
  | 0xFC => .ok (.syswr p (IWord.ofBits v))
  | 0xFD => match selOf v with
    | 0 => .ok (.tlbinv p (SWord.ofBits v))
    | 1 => if p.sub.getLsbD 0 then .ok (.shootCtx p (SWord.ofBits v)) else .ok (.shoot p (SWord.ofBits v))
    | 2 => .ok (.ctxsw p (SWord.ofBits v))
    | 3 => .ok (.uien p (SWord.ofBits v))
    | _ => .error (badSel v)
  | _ => .error .reservedOpcode

/-- The instruction of a word and its prefix: built from its fields and then checked (R167). -/
def decodeWord (p : Pre) (v : BitVec 32) : Except Reject Instr :=
  if v == 0 || v == 0xFFFFFFFF then .error .reservedWord
  else match build p v with
    | .error e => .error e
    | .ok i => if i.wf then .ok i else .error .reservedField

/-- Whether a word is a prefix word (R154). -/
def isPrefixWord (v : BitVec 32) : Bool := v.extractLsb' 24 8 == 0xFE

/-- The instruction that begins with word `v`, and its length in bytes; `next` is the word after it (R151, R155). -/
def decode2 (v : BitVec 32) (next : Option (BitVec 32)) : Except Reject (Instr × Nat) :=
  if isPrefixWord v then
    match next with
    | none => .error .truncated
    | some u =>
      if isPrefixWord u then .error .doublePrefix
      else match decodeWord (some (Prefix.ofBits v)) u with
        | .error e => .error e
        | .ok i => .ok (i, 8)
  else match decodeWord none v with
    | .error e => .error e
    | .ok i => .ok (i, 4)

/-- A word at the head of a list of bytes, its least significant byte first (R3, R151). -/
def takeWord : List Byte → Option (BitVec 32 × List Byte)
  | b0 :: b1 :: b2 :: b3 :: rest => some (b3 ++ b2 ++ b1 ++ b0, rest)
  | _ => none

/-- The decoder: the instruction at the head of a list of bytes and the bytes after it, or the name of what is wrong
with them. -/
def decode (bs : List Byte) : Except Reject (Instr × List Byte) :=
  match takeWord bs with
  | none => .error .truncated
  | some (v, rest) =>
    if isPrefixWord v then
      match takeWord rest with
      | none => .error .truncated
      | some (u, rest') =>
        if isPrefixWord u then .error .doublePrefix
        else match decodeWord (some (Prefix.ofBits v)) u with
          | .error e => .error e
          | .ok i => .ok (i, rest')
    else match decodeWord none v with
      | .error e => .error e
      | .ok i => .ok (i, rest)

/-- The prefix and the 32-bit word of an instruction, by the formats of R152; `none` for an operation or event. -/
def Instr.words? : Instr → Option (Pre × BitVec 32)
  | .nop => some (none, CWord.bits 0 0x01)
  | .bra p w => some (p, w.bits 0x02)
  | .braR p w => some (p, w.bits 0x03 0)
  | .brcAny p w => some (p, w.bits 0x04)
  | .brcAll p w => some (p, w.bits 0x05)
  | .brcZ p w => some (p, w.bits 0x06)
  | .brcNz p w => some (p, w.bits 0x07)
  | .brd p w => some (p, w.bits 0x08)
  | .brdZ p w => some (p, w.bits 0x09)
  | .brdNz p w => some (p, w.bits 0x0A)
  | .call p w => some (p, w.bits 0x0B)
  | .callR p w => some (p, w.bits 0x0C 0)
  | .ret p w => some (p, w.bits 0x0D 0)
  | .exit p w => some (p, w.bits 0x0E)
  | .wbase p w => some (p, w.bits 0x0F)
  | .wbaseR p w => some (p, w.bits 0x10 0)
  | .yield p w => some (p, w.bits 0x11)
  | .trap p w => some (p, w.bits 0x12)
  | .spop p w => some (p, w.bits 0x13)
  | .add p w => some (p, w.bits 0x20)
  | .addi p w => some (p, w.bits 0x21)
  | .sub p w => some (p, w.bits 0x22)
  | .addSatI32 p w => some (p, w.bits 0x23)
  | .addSatN32 p w => some (p, w.bits 0x24)
  | .subSatI32 p w => some (p, w.bits 0x25)
  | .subSatN32 p w => some (p, w.bits 0x26)
  | .mul p w => some (p, w.bits 0x27)
  | .muli p w => some (p, w.bits 0x28)
  | .mulhI32 p w => some (p, w.bits 0x29)
  | .mulhN32 p w => some (p, w.bits 0x2A)
  | .mad p w => some (p, w.bits 0x2B)
  | .madwI32 p w => some (p, w.bits 0x2C)
  | .madwN32 p w => some (p, w.bits 0x2D)
  | .minI32 p w => some (p, w.bits 0x2E)
  | .minN32 p w => some (p, w.bits 0x2F)
  | .maxI32 p w => some (p, w.bits 0x30)
  | .maxN32 p w => some (p, w.bits 0x31)
  | .miniI32 p w => some (p, w.bits 0x32)
  | .miniN32 p w => some (p, w.bits 0x33)
  | .maxiI32 p w => some (p, w.bits 0x34)
  | .maxiN32 p w => some (p, w.bits 0x35)
  | .abs p w => some (p, w.bits 0x36)
  | .neg p w => some (p, w.bits 0x37)
  | .and p w => some (p, w.bits 0x38)
  | .andi p w => some (p, w.bits 0x39)
  | .or p w => some (p, w.bits 0x3A)
  | .ori p w => some (p, w.bits 0x3B)
  | .xor p w => some (p, w.bits 0x3C)
  | .xori p w => some (p, w.bits 0x3D)
  | .not p w => some (p, w.bits 0x3E)
  | .andn p w => some (p, w.bits 0x3F)
  | .andni p w => some (p, w.bits 0x40)
  | .shl p w => some (p, w.bits 0x41)
  | .shli p w => some (p, w.bits 0x42)
  | .shr p w => some (p, w.bits 0x43)
  | .shri p w => some (p, w.bits 0x44)
  | .sha p w => some (p, w.bits 0x45)
  | .shai p w => some (p, w.bits 0x46)
  | .rol p w => some (p, w.bits 0x47)
  | .roli p w => some (p, w.bits 0x48)
  | .ror p w => some (p, w.bits 0x49)
  | .popc p w => some (p, w.bits 0x4A)
  | .clz p w => some (p, w.bits 0x4B)
  | .ctz p w => some (p, w.bits 0x4C)
  | .brev p w => some (p, w.bits 0x4D)
  | .bfxI32 p w => some (p, w.bits 0x4E)
  | .bfxN32 p w => some (p, w.bits 0x4F)
  | .bfi p w => some (p, w.bits 0x50)
  | .sel p w => some (p, w.bits 0x51)
  | .mov p w => some (p, w.bits 0x52)
  | .movi p w => some (p, w.bits 0x53)
  | .movh p w => some (p, w.bits 0x54)
  | .lea p w => some (p, w.bits 0x55)
  | .leai p w => some (p, w.bits 0x56)
  | .bfxrI32 p w => some (p, w.bits 0x57)
  | .bfxrN32 p w => some (p, w.bits 0x58)
  | .bfir p w => some (p, w.bits 0x59)
  | .rsubi p w => some (p, w.bits 0x5A)
  | .fadd p w => some (p, w.bits 0x60)
  | .fsub p w => some (p, w.bits 0x61)
  | .fmul p w => some (p, w.bits 0x62)
  | .ffma p w => some (p, w.bits 0x63)
  | .ffms p w => some (p, w.bits 0x64)
  | .fnma p w => some (p, w.bits 0x65)
  | .fmin p w => some (p, w.bits 0x66)
  | .fmax p w => some (p, w.bits 0x67)
  | .frcp p w => some (p, w.bits 0x68)
  | .frsq p w => some (p, w.bits 0x69)
  | .fsqrt p w => some (p, w.bits 0x6A)
  | .fexp2 p w => some (p, w.bits 0x6B)
  | .flog2 p w => some (p, w.bits 0x6C)
  | .fclass p w => some (p, w.bits 0x6D)
  | .faddX2 p w => some (p, w.bits 0x6E)
  | .fsubX2 p w => some (p, w.bits 0x6F)
  | .fmulX2 p w => some (p, w.bits 0x70)
  | .ffmaX2 p w => some (p, w.bits 0x71)
  | .fminX2 p w => some (p, w.bits 0x72)
  | .fmaxX2 p w => some (p, w.bits 0x73)
  | .frcpX2 p w => some (p, w.bits 0x74)
  | .frsqX2 p w => some (p, w.bits 0x75)
  | .fsqrtX2 p w => some (p, w.bits 0x76)
  | .fexp2X2 p w => some (p, w.bits 0x77)
  | .flog2X2 p w => some (p, w.bits 0x78)
  | .cvtFromF32 p w => some (p, w.bits 0x79)
  | .cvtFromF16 p w => some (p, w.bits 0x7A)
  | .cvtFromBf16 p w => some (p, w.bits 0x7B)
  | .cvtFromE4m3 p w => some (p, w.bits 0x7C)
  | .cvtFromE5m2 p w => some (p, w.bits 0x7D)
  | .cvtFromI32 p w => some (p, w.bits 0x7E)
  | .cvtFromN32 p w => some (p, w.bits 0x7F)
  | .cvtFromI64 p w => some (p, w.bits 0x80)
  | .cvtFromN64 p w => some (p, w.bits 0x81)
  | .cvtFromI16 p w => some (p, w.bits 0x82)
  | .cvtFromN16 p w => some (p, w.bits 0x83)
  | .cvtFromI8 p w => some (p, w.bits 0x84)
  | .cvtFromN8 p w => some (p, w.bits 0x85)
  | .cvtFromI4 p w => some (p, w.bits 0x86)
  | .cvtPk p w => some (p, w.bits 0x87)
  | .cvtPkHi p w => some (p, w.bits 0x87)
  | .cmpI32 p w => some (p, w.bits 0x90)
  | .cmpN32 p w => some (p, w.bits 0x91)
  | .cmpF32 p w => some (p, w.bits 0x92)
  | .cmpiI32 p w => some (p, w.bits 0x93)
  | .cmpiN32 p w => some (p, w.bits 0x94)
  | .pand p w => some (p, w.bits 0x95)
  | .por p w => some (p, w.bits 0x96)
  | .pxor p w => some (p, w.bits 0x97)
  | .pnot p w => some (p, w.bits 0x98)
  | .pmov p w => some (p, w.bits 0x99)
  | .shflIdx p w => some (p, w.bits 0x9A)
  | .shflUp p w => some (p, w.bits 0x9B)
  | .shflDown p w => some (p, w.bits 0x9C)
  | .shflXor p w => some (p, w.bits 0x9D)
  | .shfliIdx p w => some (p, w.bits 0x9E)
  | .shfliUp p w => some (p, w.bits 0x9F)
  | .shfliDown p w => some (p, w.bits 0xA0)
  | .shfliXor p w => some (p, w.bits 0xA1)
  | .voteAny p w => some (p, w.bits 0xA2)
  | .voteAll p w => some (p, w.bits 0xA3)
  | .voteEq p w => some (p, w.bits 0xA4)
  | .ballot p w => some (p, w.bits 0xA5)
  | .reduxAdd p w => some (p, w.bits 0xA6)
  | .reduxMinI32 p w => some (p, w.bits 0xA7)
  | .reduxMinN32 p w => some (p, w.bits 0xA8)
  | .reduxMaxI32 p w => some (p, w.bits 0xA9)
  | .reduxMaxN32 p w => some (p, w.bits 0xAA)
  | .reduxAnd p w => some (p, w.bits 0xAB)
  | .reduxOr p w => some (p, w.bits 0xAC)
  | .reduxXor p w => some (p, w.bits 0xAD)
  | .ld p w => some (p, w.bits 0xB0)
  | .ldB128 p w => some (p, w.bits 0xB1)
  | .st p w => some (p, w.bits 0xB2)
  | .stB128 p w => some (p, w.bits 0xB3)
  | .ldfeKeep p w => some (p, w.bits 0xB4)
  | .ldfeClr p w => some (p, w.bits 0xB5)
  | .stfe p w => some (p, w.bits 0xB6)
  | .feset p w => some (p, w.bits 0xB7)
  | .feclr p w => some (p, w.bits 0xB8)
  | .ldt p w => some (p, w.bits 0xB9)
  | .pref p w => some (p, w.bits 0xBA)
  | .rld p w => some (p, w.bits 0xBB)
  | .rset p w => some (p, w.bits 0xBC)
  | .rget p w => some (p, w.bits 0xBD)
  | .rmov p w => some (p, w.bits 0xBE 0)
  | .atomAdd p w => some (p, w.bits 0xBF)
  | .atomMin p w => some (p, w.bits 0xC0)
  | .atomMax p w => some (p, w.bits 0xC1)
  | .atomAnd p w => some (p, w.bits 0xC2)
  | .atomOr p w => some (p, w.bits 0xC3)
  | .atomXor p w => some (p, w.bits 0xC4)
  | .atomXchg p w => some (p, w.bits 0xC5)
  | .atomCas p w => some (p, w.bits 0xC6)
  | .atomIncw p w => some (p, w.bits 0xC7)
  | .redAdd p w => some (p, w.bits 0xC8)
  | .redMin p w => some (p, w.bits 0xC9)
  | .redMax p w => some (p, w.bits 0xCA)
  | .redAnd p w => some (p, w.bits 0xCB)
  | .redOr p w => some (p, w.bits 0xCC)
  | .redXor p w => some (p, w.bits 0xCD)
  | .atomfAdd p w => some (p, w.bits 0xCE)
  | .atomfMin p w => some (p, w.bits 0xCE)
  | .atomfMax p w => some (p, w.bits 0xCE)
  | .fence p w => some (p, w.bits 0xD0)
  | .xfence p w => some (p, w.bits 0xD1)
  | .bar => some (none, CWord.bits 0 0xD2)
  | .bara => some (none, CWord.bits 0 0xD3)
  | .barw => some (none, CWord.bits 0 0xD4)
  | .gbar => some (none, CWord.bits 0 0xD5)
  | .qpush p w => some (p, w.bits 0xD6 0)
  | .qpop p w => some (p, w.bits 0xD7 0)
  | .qtry p w => some (p, w.bits 0xD8 0)
  | .qallow p w => some (p, w.bits 0xD9)
  | .qinit p w => some (p, w.bits 0xDA)
  | .evwait p w => some (p, w.bits 0xDB)
  | .evset p w => some (p, w.bits 0xDC)
  | .evclr p w => some (p, w.bits 0xDD)
  | .evtest p w => some (p, w.bits 0xDE)
  | .mma p w => some (p, w.bits 0xE0 0)
  | .mmaW p w => some (p, w.bits 0xE1 0)
  | .cmma p w => some (p, w.bits 0xE2 0)
  | .aclr p w => some (p, w.bits 0xE3 0)
  | .adrain p w => some (p, w.bits 0xE4)
  | .afill p w => some (p, w.bits 0xE5)
  | .ast p w => some (p, w.bits 0xE6)
  | .astW p w => some (p, w.bits 0xE6)
  | .astI p w => some (p, w.bits 0xE6)
  | .amov p w => some (p, w.bits 0xE7 0)
  | .amovGet p w => some (p, w.bits 0xE7 0)
  | .amovPut p w => some (p, w.bits 0xE7 0)
  | .bndrd p w => some (p, w.bits 0xE8 0)
  | .bndrdK p w => some (p, w.bits 0xE8 0)
  | .bndwr p w => some (p, w.bits 0xE9 0)
  | .bndthr p w => some (p, w.bits 0xEA)
  | .bndchk p w => some (p, w.bits 0xEB 0)
  | .cvtq p w => some (p, w.bits 0xEC 0)
  | .srseed p w => some (p, w.bits 0xED 0)
  | .smerge p w => some (p, w.bits 0xEE 0)
  | .fork p w => some (p, w.bits 0xF0)
  | .forkHandle p w => some (p, w.bits 0xF0)
  | .rdv p w => some (p, w.bits 0xF1 0)
  | .rdvAll p w => some (p, w.bits 0xF1 0)
  | .acopy p w => some (p, w.bits 0xF2)
  | .acopyA p w => some (p, w.bits 0xF2)
  | .acopyB p w => some (p, w.bits 0xF2)
  | .mfill p w => some (p, w.bits 0xF3)
  | .bcopy p w => some (p, w.bits 0xF4 0)
  | .cacopy p w => some (p, w.bits 0xF4 1)
  | .acwait p w => some (p, w.bits 0xF5 0)
  | .bcwait p w => some (p, w.bits 0xF5 1)
  | .cains p w => some (p, w.bits 0xF6 0)
  | .cainsN p w => some (p, w.bits 0xF6 1)
  | .caget p w => some (p, w.bits 0xF7 0)
  | .carefInc p w => some (p, w.bits 0xF7 1)
  | .carefDec p w => some (p, w.bits 0xF7 2)
  | .carefPin p w => some (p, w.bits 0xF7 3)
  | .caswap p w => some (p, w.bits 0xF8)
  | .kvwalk p w => some (p, w.bits 0xF9 0)
  | .cawalk p w => some (p, w.bits 0xF9 1)
  | .launch p w => some (p, w.bits 0xFA 0)
  | .sysrd p w => some (p, w.bits 0xFB)
  | .syswr p w => some (p, w.bits 0xFC)
  | .tlbinv p w => some (p, w.bits 0xFD 0)
  | .shoot p w => some (p, w.bits 0xFD 1)
  | .shootCtx p w => some (p, w.bits 0xFD 1)
  | .ctxsw p w => some (p, w.bits 0xFD 2)
  | .uien p w => some (p, w.bits 0xFD 3)
  | .userInterruptDelivery => none
  | .splitMerge => none
  | .stackPop => none
  | .yieldTimeout => none
  | .launchTake => none
  | .gangPlace => none
  | .blockRetire => none
  | .gridRetire => none
  | .barrierPhaseComplete => none
  | .queueRetry => none
  | .ldfeRetry => none
  | .preemptSwap => none
  | .spill => none
  | .restoreLoad => none
  | .stagedSwap => none
  | .stallReport => none
  | .hangReport => none
  | .quarterBind => none
  | .passStart => none
  | .passPromote => none
  | .completion => none
  | .copyLanding => none
  | .pageWalk => none
  | .homeSliceAtomic => none
  | .readWindowClose => none
  | .park => none
  | .faultRecordPost => none
  | .redrive => none
  | .inboundPostedWrite => none
  | .inboundRead => none
  | .inboundTimeout => none
  | .peerFailureCompletion => none
  | .relaxedFlushAck => none
  | .pageInJob => none
  | .bulkCopyJob => none
  | .cacopyJob => none
  | .caInsert => none
  | .lovageReclaim => none
  | .savoryScrub => none
  | .wsRefreshOpen => none
  | .wsRefreshClose => none
  | .congestionMark => none
  | .injectionRateRecover => none
  | .eccCorrected => none
  | .eccUncorrectable => none
  | .linkCheckFail => none
  | .portDown => none
  | .mmioReadTimeout => none
  | .cxlPoisonCompletion => none
  | .clockIslandSwitch => none
  | .throttleRaise => none
  | .throttleLower => none
  | .thermalReset => none
  | .powerOnBoot => none
  | .powerRemove => none
  | .sidebandReset => none
  | .attestation => none
  | .sidebandNack => none
  | .launchq => none
  | .killctx => none
  | .careset => none
  | .caframe => none
  | .uiraise => none
  | .stallstClear => none
  | .ctxerrClear => none
  | .lrefuseClear => none
  | .mfreezeFreeze => none
  | .mfreezeDiscard => none
  | .xpcWrite => none
  | .fqheadAdvance => none
  | .poolTake64k => none
  | .poolTake2m => none
  | .poolTake1g => none
  | .plango => none
  | .portRetrain => none
  | .portRearm => none
  | .portstClear => none
  | .memerrClear => none
  | .ctxderrClear => none
  | .trustWriteRefused => none
  | .registerWrite => none
  | .contextCreate => none
  | .partitionRangesSet => none
  | .supervisorHartAccess => none
  | .portRetrained => none

/-- The bytes of one instruction word (R151). -/
def wordBytes (v : BitVec 32) : List Byte :=
  [v.extractLsb' 0 8, v.extractLsb' 8 8, v.extractLsb' 16 8, v.extractLsb' 24 8]

/-- The words of an instruction, its prefix first (R151). -/
def encodeWords (i : Instr) : List (BitVec 32) :=
  match i.words? with
  | none => []
  | some (none, v) => [v]
  | some (some p, v) => [p.bits, v]

/-- The encoder: the bytes of an instruction as they stand in memory (R151). -/
def encode (i : Instr) : List Byte := (encodeWords i).flatMap wordBytes

/-- The first word of an instruction, which an illegal instruction leaves in XINFO (R301). -/
def Instr.firstWord (i : Instr) : Word := (encodeWords i).headD 0

/-- The length of an instruction in bytes (R151). -/
def Instr.len (i : Instr) : Nat := 4 * (encodeWords i).length

/-- The instruction that the decoder reads from an instruction whose bits are `w`, numbered as the opcode table
numbers them: bit 0 is the least significant bit of the first word. An instruction is at most two words (R151), so
the bits above `nbits` up to 64 are 0. -/
def decodeTableWord (nbits w : Nat) : Option Instr :=
  let v := w % 2 ^ nbits
  match decode (wordBytes (BitVec.ofNat 32 v) ++ wordBytes (BitVec.ofNat 32 (v / 2 ^ 32))) with
  | .ok (i, _) => some i
  | .error _ => none


end Sys2Proof
end

