-- ==== Sys2Proof/Machine/Operands.lean ====
section
/-! DEFINITION. Operands: what each instruction reads and writes, the register spaces with the WBASE window
(spec/07_encoding.md R153, R158 to R161; spec/19 R322), immediates (R156) and guards (R157). -/

namespace Sys2Proof.Machine

/-- The families of instructions (R50, R165). -/
inductive Fam where
  | control | latch | memory | sync | matrix | engine | system | event
  deriving DecidableEq, Repr

/-- What an instruction reads and writes: lane or uniform registers as a field and a count, predicates, record slots
and latches; its family; and whether a feed thread executes it (R58). -/
structure Shape where
  fam : Fam
  rd : List (BitVec 7 × Nat) := []
  wr : List (BitVec 7 × Nat) := []
  prd : List (BitVec 3) := []
  pwr : List (BitVec 3) := []
  krd : List (BitVec 5) := []
  kwr : List (BitVec 5) := []
  lat : List (BitVec 2) := []
  feed : Bool := false
  deriving DecidableEq, Repr

/-- The registers that an operand of `n` registers holds for a type code: two for the 64-bit types (R161). -/
def tyRegs (ty : BitVec 5) : Nat := if ty == 7 || ty == 8 then 2 else 1

/-- The indices of the array registers (R261, R262, R285, R361): WSNEXT, WSLEFT, EVW, LQCOUNT, IOCTX, PLANREG, POOLFREE
and PORTST. -/
def isArray (i : Nat) : Bool :=
  [0x028, 0x029, 0x030, 0x031, 0x0AC, 0x0E2, 0x0EC, 0x0F4].contains i

/-- All record slots. -/
def allRecs : List (BitVec 5) := (List.range 32).map (BitVec.ofNat 5)

end Sys2Proof.Machine

namespace Sys2Proof

/-- The register that operand a of an R word reads: none when it is a latch (R153). -/
def RWord.regA (w : RWord) : List (BitVec 7 × Nat) := if w.la then [] else [(w.a, 1)]

/-- The register that operand b of an R word reads: none when it is a latch (R153). -/
def RWord.regB (w : RWord) : List (BitVec 7 × Nat) := if w.lb then [] else [(w.b, 1)]

/-- The latches that an R word reads (R153). -/
def RWord.latches (w : RWord) : List (BitVec 2) :=
  (if w.la then [w.a.setWidth 2] else []) ++ (if w.lb then [w.b.setWidth 2] else [])

end Sys2Proof

namespace Sys2Proof.Machine

/-- What each instruction reads and writes, its family and whether a feed thread may execute it (R58). -/
def shapeOf : Instr → Shape
  | .nop => { fam := .control }
  | .bra _ _ => { fam := .control, feed := true }
  | .braR _ w => { fam := .control, rd := [(w.a, 2)], feed := true }
  | .brcAny _ w => { fam := .control, prd := [w.d.setWidth 3], feed := true }
  | .brcAll _ w => { fam := .control, prd := [w.d.setWidth 3], feed := true }
  | .brcZ _ w => { fam := .control, rd := [(w.a, 1)], feed := true }
  | .brcNz _ w => { fam := .control, rd := [(w.a, 1)], feed := true }
  | .brd _ w => { fam := .control, prd := [w.d.setWidth 3] }
  | .brdZ _ w => { fam := .control, rd := [(w.a, 1)] }
  | .brdNz _ w => { fam := .control, rd := [(w.a, 1)] }
  | .call _ _ => { fam := .control, wr := [(110, 2)] }
  | .callR _ w => { fam := .control, rd := [(w.a, 2)], wr := [(110, 2)] }
  | .ret _ _ => { fam := .control, rd := [(110, 2)] }
  | .exit _ _ => { fam := .control, feed := true }
  | .wbase _ _ => { fam := .control }
  | .wbaseR _ w => { fam := .control, rd := [(w.a, 1)] }
  | .yield _ _ => { fam := .control }
  | .trap _ _ => { fam := .control }
  | .spop _ _ => { fam := .control }
  | .add _ w => { fam := .latch, rd := w.regA ++ w.regB, wr := (if w.nw then [] else [(w.d, 1)]), lat := w.latches, feed := true }
  | .addi _ w => { fam := .latch, rd := [(w.a, 1)], wr := [(w.d, 1)], feed := true }
  | .sub _ w => { fam := .latch, rd := w.regA ++ w.regB, wr := (if w.nw then [] else [(w.d, 1)]), lat := w.latches, feed := true }
  | .addSatI32 _ w => { fam := .latch, rd := w.regA ++ w.regB, wr := (if w.nw then [] else [(w.d, 1)]), lat := w.latches, feed := true }
  | .addSatN32 _ w => { fam := .latch, rd := w.regA ++ w.regB, wr := (if w.nw then [] else [(w.d, 1)]), lat := w.latches, feed := true }
  | .subSatI32 _ w => { fam := .latch, rd := w.regA ++ w.regB, wr := (if w.nw then [] else [(w.d, 1)]), lat := w.latches, feed := true }
  | .subSatN32 _ w => { fam := .latch, rd := w.regA ++ w.regB, wr := (if w.nw then [] else [(w.d, 1)]), lat := w.latches, feed := true }
  | .mul _ w => { fam := .latch, rd := w.regA ++ w.regB, wr := (if w.nw then [] else [(w.d, 1)]), lat := w.latches, feed := true }
  | .muli _ w => { fam := .latch, rd := [(w.a, 1)], wr := [(w.d, 1)], feed := true }
  | .mulhI32 _ w => { fam := .latch, rd := w.regA ++ w.regB, wr := (if w.nw then [] else [(w.d, 1)]), lat := w.latches, feed := true }
  | .mulhN32 _ w => { fam := .latch, rd := w.regA ++ w.regB, wr := (if w.nw then [] else [(w.d, 1)]), lat := w.latches, feed := true }
  | .mad p w => { fam := .latch, rd := w.regA ++ w.regB ++ [(p.c, 1)], wr := (if w.nw then [] else [(w.d, 1)]), lat := w.latches, feed := true }
  | .madwI32 p w => { fam := .latch, rd := w.regA ++ w.regB ++ [(p.c, 2)], wr := (if w.nw then [] else [(w.d, 2)]), lat := w.latches, feed := true }
  | .madwN32 p w => { fam := .latch, rd := w.regA ++ w.regB ++ [(p.c, 2)], wr := (if w.nw then [] else [(w.d, 2)]), lat := w.latches, feed := true }
  | .minI32 _ w => { fam := .latch, rd := w.regA ++ w.regB, wr := (if w.nw then [] else [(w.d, 1)]), lat := w.latches, feed := true }
  | .minN32 _ w => { fam := .latch, rd := w.regA ++ w.regB, wr := (if w.nw then [] else [(w.d, 1)]), lat := w.latches, feed := true }
  | .maxI32 _ w => { fam := .latch, rd := w.regA ++ w.regB, wr := (if w.nw then [] else [(w.d, 1)]), lat := w.latches, feed := true }
  | .maxN32 _ w => { fam := .latch, rd := w.regA ++ w.regB, wr := (if w.nw then [] else [(w.d, 1)]), lat := w.latches, feed := true }
  | .miniI32 _ w => { fam := .latch, rd := [(w.a, 1)], wr := [(w.d, 1)], feed := true }
  | .miniN32 _ w => { fam := .latch, rd := [(w.a, 1)], wr := [(w.d, 1)], feed := true }
  | .maxiI32 _ w => { fam := .latch, rd := [(w.a, 1)], wr := [(w.d, 1)], feed := true }
  | .maxiN32 _ w => { fam := .latch, rd := [(w.a, 1)], wr := [(w.d, 1)], feed := true }
  | .abs _ w => { fam := .latch, rd := w.regA, wr := (if w.nw then [] else [(w.d, 1)]), lat := w.latches, feed := true }
  | .neg _ w => { fam := .latch, rd := w.regA, wr := (if w.nw then [] else [(w.d, 1)]), lat := w.latches, feed := true }
  | .and _ w => { fam := .latch, rd := w.regA ++ w.regB, wr := (if w.nw then [] else [(w.d, 1)]), lat := w.latches, feed := true }
  | .andi _ w => { fam := .latch, rd := [(w.a, 1)], wr := [(w.d, 1)], feed := true }
  | .or _ w => { fam := .latch, rd := w.regA ++ w.regB, wr := (if w.nw then [] else [(w.d, 1)]), lat := w.latches, feed := true }
  | .ori _ w => { fam := .latch, rd := [(w.a, 1)], wr := [(w.d, 1)], feed := true }
  | .xor _ w => { fam := .latch, rd := w.regA ++ w.regB, wr := (if w.nw then [] else [(w.d, 1)]), lat := w.latches, feed := true }
  | .xori _ w => { fam := .latch, rd := [(w.a, 1)], wr := [(w.d, 1)], feed := true }
  | .not _ w => { fam := .latch, rd := w.regA, wr := (if w.nw then [] else [(w.d, 1)]), lat := w.latches, feed := true }
  | .andn _ w => { fam := .latch, rd := w.regA ++ w.regB, wr := (if w.nw then [] else [(w.d, 1)]), lat := w.latches, feed := true }
  | .andni _ w => { fam := .latch, rd := [(w.a, 1)], wr := [(w.d, 1)], feed := true }
  | .shl _ w => { fam := .latch, rd := w.regA ++ w.regB, wr := (if w.nw then [] else [(w.d, 1)]), lat := w.latches, feed := true }
  | .shli _ w => { fam := .latch, rd := [(w.a, 1)], wr := [(w.d, 1)], feed := true }
  | .shr _ w => { fam := .latch, rd := w.regA ++ w.regB, wr := (if w.nw then [] else [(w.d, 1)]), lat := w.latches, feed := true }
  | .shri _ w => { fam := .latch, rd := [(w.a, 1)], wr := [(w.d, 1)], feed := true }
  | .sha _ w => { fam := .latch, rd := w.regA ++ w.regB, wr := (if w.nw then [] else [(w.d, 1)]), lat := w.latches, feed := true }
  | .shai _ w => { fam := .latch, rd := [(w.a, 1)], wr := [(w.d, 1)], feed := true }
  | .rol _ w => { fam := .latch, rd := w.regA ++ w.regB, wr := (if w.nw then [] else [(w.d, 1)]), lat := w.latches, feed := true }
  | .roli _ w => { fam := .latch, rd := [(w.a, 1)], wr := [(w.d, 1)], feed := true }
  | .ror _ w => { fam := .latch, rd := w.regA ++ w.regB, wr := (if w.nw then [] else [(w.d, 1)]), lat := w.latches, feed := true }
  | .popc _ w => { fam := .latch, rd := w.regA, wr := (if w.nw then [] else [(w.d, 1)]), lat := w.latches, feed := true }
  | .clz _ w => { fam := .latch, rd := w.regA, wr := (if w.nw then [] else [(w.d, 1)]), lat := w.latches, feed := true }
  | .ctz _ w => { fam := .latch, rd := w.regA, wr := (if w.nw then [] else [(w.d, 1)]), lat := w.latches, feed := true }
  | .brev _ w => { fam := .latch, rd := w.regA, wr := (if w.nw then [] else [(w.d, 1)]), lat := w.latches, feed := true }
  | .bfxI32 _ w => { fam := .latch, rd := [(w.a, 1)], wr := [(w.d, 1)], feed := true }
  | .bfxN32 _ w => { fam := .latch, rd := [(w.a, 1)], wr := [(w.d, 1)], feed := true }
  | .bfi _ w => { fam := .latch, rd := [(w.a, 1)] ++ [(w.d, 1)], wr := [(w.d, 1)], feed := true }
  | .sel p w => { fam := .latch, rd := w.regA ++ w.regB, wr := (if w.nw then [] else [(w.d, 1)]), prd := [p.c.setWidth 3], lat := w.latches, feed := true }
  | .mov _ w => { fam := .latch, rd := w.regA, wr := (if w.nw then [] else [(w.d, 1)]), lat := w.latches, feed := true }
  | .movi _ w => { fam := .latch, wr := [(w.d, 1)], feed := true }
  | .movh _ w => { fam := .latch, rd := [(w.a, 1)], wr := [(w.d, 1)], feed := true }
  | .lea _ w => { fam := .latch, rd := [(w.a, 2)] ++ w.regB, wr := (if w.nw then [] else [(w.d, 2)]), lat := w.latches, feed := true }
  | .leai _ w => { fam := .latch, rd := [(w.a, 2)], wr := [(w.d, 2)], feed := true }
  | .bfxrI32 _ w => { fam := .latch, rd := w.regA ++ w.regB, wr := (if w.nw then [] else [(w.d, 1)]), lat := w.latches, feed := true }
  | .bfxrN32 _ w => { fam := .latch, rd := w.regA ++ w.regB, wr := (if w.nw then [] else [(w.d, 1)]), lat := w.latches, feed := true }
  | .bfir _ w => { fam := .latch, rd := w.regA ++ w.regB ++ [(w.d, 1)], wr := (if w.nw then [] else [(w.d, 1)]), lat := w.latches, feed := true }
  | .rsubi _ w => { fam := .latch, rd := [(w.a, 1)], wr := [(w.d, 1)], feed := true }
  | .fadd _ w => { fam := .latch, rd := w.regA ++ w.regB, wr := (if w.nw then [] else [(w.d, 1)]), lat := w.latches }
  | .fsub _ w => { fam := .latch, rd := w.regA ++ w.regB, wr := (if w.nw then [] else [(w.d, 1)]), lat := w.latches }
  | .fmul _ w => { fam := .latch, rd := w.regA ++ w.regB, wr := (if w.nw then [] else [(w.d, 1)]), lat := w.latches }
  | .ffma p w => { fam := .latch, rd := w.regA ++ w.regB ++ [(p.c, 1)], wr := (if w.nw then [] else [(w.d, 1)]), lat := w.latches }
  | .ffms p w => { fam := .latch, rd := w.regA ++ w.regB ++ [(p.c, 1)], wr := (if w.nw then [] else [(w.d, 1)]), lat := w.latches }
  | .fnma p w => { fam := .latch, rd := w.regA ++ w.regB ++ [(p.c, 1)], wr := (if w.nw then [] else [(w.d, 1)]), lat := w.latches }
  | .fmin _ w => { fam := .latch, rd := w.regA ++ w.regB, wr := (if w.nw then [] else [(w.d, 1)]), lat := w.latches }
  | .fmax _ w => { fam := .latch, rd := w.regA ++ w.regB, wr := (if w.nw then [] else [(w.d, 1)]), lat := w.latches }
  | .frcp _ w => { fam := .latch, rd := w.regA, wr := (if w.nw then [] else [(w.d, 1)]), lat := w.latches }
  | .frsq _ w => { fam := .latch, rd := w.regA, wr := (if w.nw then [] else [(w.d, 1)]), lat := w.latches }
  | .fsqrt _ w => { fam := .latch, rd := w.regA, wr := (if w.nw then [] else [(w.d, 1)]), lat := w.latches }
  | .fexp2 _ w => { fam := .latch, rd := w.regA, wr := (if w.nw then [] else [(w.d, 1)]), lat := w.latches }
  | .flog2 _ w => { fam := .latch, rd := w.regA, wr := (if w.nw then [] else [(w.d, 1)]), lat := w.latches }
  | .fclass _ w => { fam := .latch, rd := w.regA, wr := (if w.nw then [] else [(w.d, 1)]), lat := w.latches }
  | .faddX2 _ w => { fam := .latch, rd := w.regA ++ w.regB, wr := (if w.nw then [] else [(w.d, 1)]), lat := w.latches }
  | .fsubX2 _ w => { fam := .latch, rd := w.regA ++ w.regB, wr := (if w.nw then [] else [(w.d, 1)]), lat := w.latches }
  | .fmulX2 _ w => { fam := .latch, rd := w.regA ++ w.regB, wr := (if w.nw then [] else [(w.d, 1)]), lat := w.latches }
  | .ffmaX2 p w => { fam := .latch, rd := w.regA ++ w.regB ++ [(p.c, 1)], wr := (if w.nw then [] else [(w.d, 1)]), lat := w.latches }
  | .fminX2 _ w => { fam := .latch, rd := w.regA ++ w.regB, wr := (if w.nw then [] else [(w.d, 1)]), lat := w.latches }
  | .fmaxX2 _ w => { fam := .latch, rd := w.regA ++ w.regB, wr := (if w.nw then [] else [(w.d, 1)]), lat := w.latches }
  | .frcpX2 _ w => { fam := .latch, rd := w.regA, wr := (if w.nw then [] else [(w.d, 1)]), lat := w.latches }
  | .frsqX2 _ w => { fam := .latch, rd := w.regA, wr := (if w.nw then [] else [(w.d, 1)]), lat := w.latches }
  | .fsqrtX2 _ w => { fam := .latch, rd := w.regA, wr := (if w.nw then [] else [(w.d, 1)]), lat := w.latches }
  | .fexp2X2 _ w => { fam := .latch, rd := w.regA, wr := (if w.nw then [] else [(w.d, 1)]), lat := w.latches }
  | .flog2X2 _ w => { fam := .latch, rd := w.regA, wr := (if w.nw then [] else [(w.d, 1)]), lat := w.latches }
  | .cvtFromF32 p w => { fam := .latch, rd := w.regA, wr := (if w.nw then [] else [(w.d, tyRegs p.ty)]), lat := w.latches }
  | .cvtFromF16 p w => { fam := .latch, rd := w.regA, wr := (if w.nw then [] else [(w.d, tyRegs p.ty)]), lat := w.latches }
  | .cvtFromBf16 p w => { fam := .latch, rd := w.regA, wr := (if w.nw then [] else [(w.d, tyRegs p.ty)]), lat := w.latches }
  | .cvtFromE4m3 p w => { fam := .latch, rd := w.regA, wr := (if w.nw then [] else [(w.d, tyRegs p.ty)]), lat := w.latches }
  | .cvtFromE5m2 p w => { fam := .latch, rd := w.regA, wr := (if w.nw then [] else [(w.d, tyRegs p.ty)]), lat := w.latches }
  | .cvtFromI32 p w => { fam := .latch, rd := w.regA, wr := (if w.nw then [] else [(w.d, tyRegs p.ty)]), lat := w.latches }
  | .cvtFromN32 p w => { fam := .latch, rd := w.regA, wr := (if w.nw then [] else [(w.d, tyRegs p.ty)]), lat := w.latches }
  | .cvtFromI64 p w => { fam := .latch, rd := [(w.a, 2)], wr := (if w.nw then [] else [(w.d, tyRegs p.ty)]), lat := w.latches }
  | .cvtFromN64 p w => { fam := .latch, rd := [(w.a, 2)], wr := (if w.nw then [] else [(w.d, tyRegs p.ty)]), lat := w.latches }
  | .cvtFromI16 p w => { fam := .latch, rd := w.regA, wr := (if w.nw then [] else [(w.d, tyRegs p.ty)]), lat := w.latches }
  | .cvtFromN16 p w => { fam := .latch, rd := w.regA, wr := (if w.nw then [] else [(w.d, tyRegs p.ty)]), lat := w.latches }
  | .cvtFromI8 p w => { fam := .latch, rd := w.regA, wr := (if w.nw then [] else [(w.d, tyRegs p.ty)]), lat := w.latches }
  | .cvtFromN8 p w => { fam := .latch, rd := w.regA, wr := (if w.nw then [] else [(w.d, tyRegs p.ty)]), lat := w.latches }
  | .cvtFromI4 p w => { fam := .latch, rd := w.regA, wr := (if w.nw then [] else [(w.d, tyRegs p.ty)]), lat := w.latches }
  | .cvtPk _ w => { fam := .latch, rd := w.regA ++ w.regB ++ [(w.d, 1)], wr := (if w.nw then [] else [(w.d, 1)]), lat := w.latches }
  | .cvtPkHi _ w => { fam := .latch, rd := w.regA ++ w.regB ++ [(w.d, 1)], wr := (if w.nw then [] else [(w.d, 1)]), lat := w.latches }
  | .cmpI32 _ w => { fam := .latch, rd := w.regA ++ w.regB, pwr := if w.nw then [] else [w.d.setWidth 3], lat := w.latches }
  | .cmpN32 _ w => { fam := .latch, rd := w.regA ++ w.regB, pwr := if w.nw then [] else [w.d.setWidth 3], lat := w.latches }
  | .cmpF32 _ w => { fam := .latch, rd := w.regA ++ w.regB, pwr := if w.nw then [] else [w.d.setWidth 3], lat := w.latches }
  | .cmpiI32 _ w => { fam := .latch, rd := [(w.a, 1)], pwr := [w.d.setWidth 3] }
  | .cmpiN32 _ w => { fam := .latch, rd := [(w.a, 1)], pwr := [w.d.setWidth 3] }
  | .pand _ w => { fam := .latch, prd := [w.a.setWidth 3, w.b.setWidth 3], pwr := if w.nw then [] else [w.d.setWidth 3], lat := w.latches }
  | .por _ w => { fam := .latch, prd := [w.a.setWidth 3, w.b.setWidth 3], pwr := if w.nw then [] else [w.d.setWidth 3], lat := w.latches }
  | .pxor _ w => { fam := .latch, prd := [w.a.setWidth 3, w.b.setWidth 3], pwr := if w.nw then [] else [w.d.setWidth 3], lat := w.latches }
  | .pnot _ w => { fam := .latch, prd := [w.a.setWidth 3], pwr := if w.nw then [] else [w.d.setWidth 3], lat := w.latches }
  | .pmov _ w => { fam := .latch, prd := [w.a.setWidth 3], pwr := if w.nw then [] else [w.d.setWidth 3], lat := w.latches }
  | .shflIdx _ w => { fam := .latch, rd := w.regA ++ w.regB, wr := (if w.nw then [] else [(w.d, 1)]), lat := w.latches }
  | .shflUp _ w => { fam := .latch, rd := w.regA ++ w.regB, wr := (if w.nw then [] else [(w.d, 1)]), lat := w.latches }
  | .shflDown _ w => { fam := .latch, rd := w.regA ++ w.regB, wr := (if w.nw then [] else [(w.d, 1)]), lat := w.latches }
  | .shflXor _ w => { fam := .latch, rd := w.regA ++ w.regB, wr := (if w.nw then [] else [(w.d, 1)]), lat := w.latches }
  | .shfliIdx _ w => { fam := .latch, rd := [(w.a, 1)], wr := [(w.d, 1)] }
  | .shfliUp _ w => { fam := .latch, rd := [(w.a, 1)], wr := [(w.d, 1)] }
  | .shfliDown _ w => { fam := .latch, rd := [(w.a, 1)], wr := [(w.d, 1)] }
  | .shfliXor _ w => { fam := .latch, rd := [(w.a, 1)], wr := [(w.d, 1)] }
  | .voteAny _ w => { fam := .latch, prd := [w.a.setWidth 3], pwr := if w.nw then [] else [w.d.setWidth 3], lat := w.latches }
  | .voteAll _ w => { fam := .latch, prd := [w.a.setWidth 3], pwr := if w.nw then [] else [w.d.setWidth 3], lat := w.latches }
  | .voteEq _ w => { fam := .latch, prd := [w.a.setWidth 3], pwr := if w.nw then [] else [w.d.setWidth 3], lat := w.latches }
  | .ballot _ w => { fam := .latch, wr := (if w.nw then [] else [(w.d, 1)]), prd := [w.a.setWidth 3], lat := w.latches }
  | .reduxAdd _ w => { fam := .latch, rd := w.regA, wr := (if w.nw then [] else [(w.d, 1)]), lat := w.latches }
  | .reduxMinI32 _ w => { fam := .latch, rd := w.regA, wr := (if w.nw then [] else [(w.d, 1)]), lat := w.latches }
  | .reduxMinN32 _ w => { fam := .latch, rd := w.regA, wr := (if w.nw then [] else [(w.d, 1)]), lat := w.latches }
  | .reduxMaxI32 _ w => { fam := .latch, rd := w.regA, wr := (if w.nw then [] else [(w.d, 1)]), lat := w.latches }
  | .reduxMaxN32 _ w => { fam := .latch, rd := w.regA, wr := (if w.nw then [] else [(w.d, 1)]), lat := w.latches }
  | .reduxAnd _ w => { fam := .latch, rd := w.regA, wr := (if w.nw then [] else [(w.d, 1)]), lat := w.latches }
  | .reduxOr _ w => { fam := .latch, rd := w.regA, wr := (if w.nw then [] else [(w.d, 1)]), lat := w.latches }
  | .reduxXor _ w => { fam := .latch, rd := w.regA, wr := (if w.nw then [] else [(w.d, 1)]), lat := w.latches }
  | .ld p w => { fam := .memory, rd := [(w.x, 1)], wr := [(w.d, tyRegs p.ty)], krd := [w.k] }
  | .ldB128 _ w => { fam := .memory, rd := [(w.x, 1)], wr := [(w.d, 4)], krd := [w.k] }
  | .st p w => { fam := .memory, rd := [(w.x, 1)] ++ [(w.d, tyRegs p.ty)], krd := [w.k] }
  | .stB128 _ w => { fam := .memory, rd := [(w.x, 1)] ++ [(w.d, 4)], krd := [w.k] }
  | .ldfeKeep p w => { fam := .memory, rd := [(w.x, 1)], wr := [(w.d, tyRegs p.ty)], krd := [w.k], feed := true }
  | .ldfeClr p w => { fam := .memory, rd := [(w.x, 1)], wr := [(w.d, tyRegs p.ty)], krd := [w.k], feed := true }
  | .stfe p w => { fam := .memory, rd := [(w.x, 1)] ++ [(w.d, tyRegs p.ty)], krd := [w.k], feed := true }
  | .feset _ w => { fam := .memory, rd := [(w.x, 1)], krd := [w.k], feed := true }
  | .feclr _ w => { fam := .memory, rd := [(w.x, 1)], krd := [w.k], feed := true }
  | .ldt p w => { fam := .memory, rd := [(w.x, 1)] ++ [(w.d, tyRegs p.ty)], wr := [(w.d, tyRegs p.ty)], pwr := [p.c.setWidth 3], krd := [w.k] }
  | .pref _ w => { fam := .memory, rd := [(w.x, 1)], krd := [w.k] }
  | .rld _ w => { fam := .memory, rd := [(w.x, 1)], krd := [w.k], kwr := [w.d.setWidth 5] }
  | .rset _ w => { fam := .memory, rd := [(w.a, 1)], krd := [w.d.setWidth 5], kwr := [w.d.setWidth 5] }
  | .rget _ w => { fam := .memory, wr := [(w.d, 1)], krd := [w.a.setWidth 5] }
  | .rmov _ w => { fam := .memory, krd := [w.a.setWidth 5], kwr := [w.d.setWidth 5] }
  | .atomAdd p w => { fam := .memory, rd := [(w.x, 1)] ++ [(w.d, tyRegs p.ty)], wr := [(w.d, tyRegs p.ty)], krd := [w.k] }
  | .atomMin p w => { fam := .memory, rd := [(w.x, 1)] ++ [(w.d, tyRegs p.ty)], wr := [(w.d, tyRegs p.ty)], krd := [w.k] }
  | .atomMax p w => { fam := .memory, rd := [(w.x, 1)] ++ [(w.d, tyRegs p.ty)], wr := [(w.d, tyRegs p.ty)], krd := [w.k] }
  | .atomAnd p w => { fam := .memory, rd := [(w.x, 1)] ++ [(w.d, tyRegs p.ty)], wr := [(w.d, tyRegs p.ty)], krd := [w.k] }
  | .atomOr p w => { fam := .memory, rd := [(w.x, 1)] ++ [(w.d, tyRegs p.ty)], wr := [(w.d, tyRegs p.ty)], krd := [w.k] }
  | .atomXor p w => { fam := .memory, rd := [(w.x, 1)] ++ [(w.d, tyRegs p.ty)], wr := [(w.d, tyRegs p.ty)], krd := [w.k] }
  | .atomXchg p w => { fam := .memory, rd := [(w.x, 1)] ++ [(w.d, tyRegs p.ty)], wr := [(w.d, tyRegs p.ty)], krd := [w.k] }
  | .atomCas p w => { fam := .memory, rd := [(w.x, 1)] ++ [(w.d, tyRegs p.ty)] ++ [(p.c, tyRegs p.ty)], wr := [(w.d, tyRegs p.ty)], krd := [w.k] }
  | .atomIncw p w => { fam := .memory, rd := [(w.x, 1)] ++ [(w.d, tyRegs p.ty)], wr := [(w.d, tyRegs p.ty)], krd := [w.k] }
  | .redAdd p w => { fam := .memory, rd := [(w.x, 1)] ++ [(w.d, tyRegs p.ty)], krd := [w.k] }
  | .redMin p w => { fam := .memory, rd := [(w.x, 1)] ++ [(w.d, tyRegs p.ty)], krd := [w.k] }
  | .redMax p w => { fam := .memory, rd := [(w.x, 1)] ++ [(w.d, tyRegs p.ty)], krd := [w.k] }
  | .redAnd p w => { fam := .memory, rd := [(w.x, 1)] ++ [(w.d, tyRegs p.ty)], krd := [w.k] }
  | .redOr p w => { fam := .memory, rd := [(w.x, 1)] ++ [(w.d, tyRegs p.ty)], krd := [w.k] }
  | .redXor p w => { fam := .memory, rd := [(w.x, 1)] ++ [(w.d, tyRegs p.ty)], krd := [w.k] }
  | .atomfAdd _ w => { fam := .memory, rd := [(w.x, 1)] ++ [(w.d, 1)], wr := [(w.d, 1)], krd := [w.k] }
  | .atomfMin _ w => { fam := .memory, rd := [(w.x, 1)] ++ [(w.d, 1)], wr := [(w.d, 1)], krd := [w.k] }
  | .atomfMax _ w => { fam := .memory, rd := [(w.x, 1)] ++ [(w.d, 1)], wr := [(w.d, 1)], krd := [w.k] }
  | .fence _ _ => { fam := .sync }
  | .xfence _ _ => { fam := .sync }
  | .bar => { fam := .sync }
  | .bara => { fam := .sync }
  | .barw => { fam := .sync }
  | .gbar => { fam := .sync }
  | .qpush _ w => { fam := .sync, rd := [(w.a, 1)], feed := true }
  | .qpop _ w => { fam := .sync, wr := [(w.d, 1)], feed := true }
  | .qtry _ w => { fam := .sync, wr := [(w.d, 1)], pwr := [w.b.setWidth 3], feed := true }
  | .qallow _ _ => { fam := .sync, feed := true }
  | .qinit _ w => { fam := .sync, rd := [(w.a, 1)] }
  | .evwait _ w => { fam := .sync, rd := (if w.imm.getLsbD 9 then [(w.a, 1)] else []) }
  | .evset _ w => { fam := .sync, rd := (if w.imm.getLsbD 9 then [(w.a, 1)] else []) }
  | .evclr _ w => { fam := .sync, rd := (if w.imm.getLsbD 9 then [(w.a, 1)] else []) }
  | .evtest _ w => { fam := .sync, rd := (if w.imm.getLsbD 9 then [(w.a, 1)] else []), pwr := [w.d.setWidth 3] }
  | .mma _ _ => { fam := .matrix }
  | .mmaW _ _ => { fam := .matrix }
  | .cmma _ _ => { fam := .matrix }
  | .aclr _ _ => { fam := .matrix }
  | .adrain _ w => { fam := .matrix, rd := [(w.x, 1)], krd := [w.k] }
  | .afill _ w => { fam := .matrix, rd := [(w.x, 1)], krd := [w.k] }
  | .ast _ w => { fam := .matrix, rd := [(w.x, 1)], krd := [w.k] }
  | .astW _ w => { fam := .matrix, rd := [(w.x, 1)], krd := [w.k] }
  | .astI _ w => { fam := .matrix, rd := [(w.x, 1)], krd := [w.k] }
  | .amov _ _ => { fam := .matrix }
  | .amovGet _ w => { fam := .matrix, rd := [(w.b, 1)], wr := [(w.d, 1)] }
  | .amovPut _ w => { fam := .matrix, rd := [(w.a, 1)] ++ [(w.b, 1)] }
  | .bndrd _ w => { fam := .matrix, wr := [(w.d, 2)] }
  | .bndrdK _ w => { fam := .matrix, wr := [(w.d, 1)] }
  | .bndwr _ w => { fam := .matrix, rd := [(w.a, 2)] }
  | .bndthr _ _ => { fam := .matrix }
  | .bndchk _ _ => { fam := .matrix }
  | .cvtq _ w => { fam := .matrix, rd := [(w.a, 4)] ++ [(w.b, 2)], wr := [(w.d, 4)] ++ [(w.b, 2)] }
  | .srseed _ w => { fam := .matrix, rd := [(w.a, 1)] }
  | .smerge _ w => { fam := .matrix, rd := [(w.a, 6)] ++ [(w.d, 6)], wr := [(w.d, 6)] }
  | .fork _ _ => { fam := .engine, rd := [(1, 8), (112, 16)], krd := allRecs }
  | .forkHandle p _ => { fam := .engine, rd := [(1, 8), (112, 16)], wr := [(p.c, 1)], krd := allRecs }
  | .rdv _ w => { fam := .engine, rd := [(w.a, 1)] }
  | .rdvAll _ _ => { fam := .engine }
  | .acopy _ w => { fam := .engine, rd := [(w.x, 1)] ++ [(w.d, 1)], krd := [w.k], feed := true }
  | .acopyA _ w => { fam := .engine, rd := [(w.x, 1)], krd := [w.k], feed := true }
  | .acopyB p w => { fam := .engine, rd := [(w.x, 1)] ++ [(p.c, 1)], krd := [w.k], feed := true }
  | .mfill p w => { fam := .engine, rd := [(w.x, 1)] ++ [(w.d, 1)] ++ (if p.sub.getLsbD 1 then [(p.c, 1)] else []), krd := [w.k], feed := true }
  | .bcopy p w => { fam := .engine, rd := [(p.c, 1)], wr := [(w.d, 1)], krd := [w.a.setWidth 5, w.b.setWidth 5] }
  | .cacopy _ w => { fam := .engine, wr := [(w.d, 1)], krd := [w.a.setWidth 5, w.b.setWidth 5] }
  | .acwait _ w => { fam := .engine, rd := [(w.a, 1)] }
  | .bcwait _ w => { fam := .engine, rd := [(w.a, 1)] }
  | .cains _ w => { fam := .engine, rd := [(w.a, 1)], wr := [(w.d, 2)] ++ [(w.b, 1)] }
  | .cainsN _ w => { fam := .engine, rd := [(w.a, 1)], wr := [(w.d, 2)] ++ [(w.b, 1)] }
  | .caget _ w => { fam := .engine, rd := [(w.a, 2)], wr := [(w.d, 1)] }
  | .carefInc _ w => { fam := .engine, rd := [(w.a, 2)] }
  | .carefDec _ w => { fam := .engine, rd := [(w.a, 2)] }
  | .carefPin _ w => { fam := .engine, rd := [(w.a, 2)], wr := [(w.d, 2)] }
  | .caswap p w => { fam := .engine, rd := [(w.x, 1)] ++ [(w.d, 2)] ++ [(p.c, 2)], wr := [(w.d, 2)], krd := [w.k] }
  | .kvwalk p w => { fam := .engine, rd := [(w.b, 1)] ++ [(p.c, 2)] ++ [(w.d, 4)], wr := [(w.d, 4)], krd := [w.a.setWidth 5] }
  | .cawalk _ w => { fam := .engine, rd := [(w.b, 1)], wr := [(w.d, 2)], krd := [w.a.setWidth 5] }
  | .launch _ w => { fam := .engine, rd := [(w.b, 1)], krd := [w.a.setWidth 5] }
  | .sysrd _ w => { fam := .system, rd := (if isArray w.imm.toNat then [(w.a, 1)] else []), wr := [(w.d, 1)] }
  | .syswr _ w => { fam := .system, rd := [(w.a, 1)] ++ (if isArray w.imm.toNat then [(w.d, 1)] else []) }
  | .tlbinv _ w => { fam := .system, rd := [(w.a, 2)] ++ [(w.b, 1)] }
  | .shoot _ w => { fam := .system, rd := [(w.a, 2)] ++ [(w.b, 1)] }
  | .shootCtx p w => { fam := .system, rd := [(w.a, 2)] ++ [(w.b, 1)] ++ [(p.c, 1)] }
  | .ctxsw _ w => { fam := .system, rd := [(w.a, 1)] ++ [(w.b, 1)] }
  | .uien _ w => { fam := .system, rd := [(w.a, 1)] }
  | .userInterruptDelivery => { fam := .event }
  | .splitMerge => { fam := .event }
  | .stackPop => { fam := .event }
  | .yieldTimeout => { fam := .event }
  | .launchTake => { fam := .event }
  | .gangPlace => { fam := .event }
  | .blockRetire => { fam := .event }
  | .gridRetire => { fam := .event }
  | .barrierPhaseComplete => { fam := .event }
  | .queueRetry => { fam := .event }
  | .ldfeRetry => { fam := .event }
  | .preemptSwap => { fam := .event }
  | .spill => { fam := .event }
  | .restoreLoad => { fam := .event }
  | .stagedSwap => { fam := .event }
  | .stallReport => { fam := .event }
  | .hangReport => { fam := .event }
  | .quarterBind => { fam := .event }
  | .passStart => { fam := .event }
  | .passPromote => { fam := .event }
  | .completion => { fam := .event }
  | .copyLanding => { fam := .event }
  | .pageWalk => { fam := .event }
  | .homeSliceAtomic => { fam := .event }
  | .readWindowClose => { fam := .event }
  | .park => { fam := .event }
  | .faultRecordPost => { fam := .event }
  | .redrive => { fam := .event }
  | .inboundPostedWrite => { fam := .event }
  | .inboundRead => { fam := .event }
  | .inboundTimeout => { fam := .event }
  | .peerFailureCompletion => { fam := .event }
  | .relaxedFlushAck => { fam := .event }
  | .pageInJob => { fam := .event }
  | .bulkCopyJob => { fam := .event }
  | .cacopyJob => { fam := .event }
  | .caInsert => { fam := .event }
  | .lovageReclaim => { fam := .event }
  | .savoryScrub => { fam := .event }
  | .wsRefreshOpen => { fam := .event }
  | .wsRefreshClose => { fam := .event }
  | .congestionMark => { fam := .event }
  | .injectionRateRecover => { fam := .event }
  | .eccCorrected => { fam := .event }
  | .eccUncorrectable => { fam := .event }
  | .linkCheckFail => { fam := .event }
  | .portDown => { fam := .event }
  | .mmioReadTimeout => { fam := .event }
  | .cxlPoisonCompletion => { fam := .event }
  | .clockIslandSwitch => { fam := .event }
  | .throttleRaise => { fam := .event }
  | .throttleLower => { fam := .event }
  | .thermalReset => { fam := .event }
  | .powerOnBoot => { fam := .event }
  | .powerRemove => { fam := .event }
  | .sidebandReset => { fam := .event }
  | .attestation => { fam := .event }
  | .sidebandNack => { fam := .event }
  | .launchq => { fam := .event }
  | .killctx => { fam := .event }
  | .careset => { fam := .event }
  | .caframe => { fam := .event }
  | .uiraise => { fam := .event }
  | .stallstClear => { fam := .event }
  | .ctxerrClear => { fam := .event }
  | .lrefuseClear => { fam := .event }
  | .mfreezeFreeze => { fam := .event }
  | .mfreezeDiscard => { fam := .event }
  | .xpcWrite => { fam := .event }
  | .fqheadAdvance => { fam := .event }
  | .poolTake64k => { fam := .event }
  | .poolTake2m => { fam := .event }
  | .poolTake1g => { fam := .event }
  | .plango => { fam := .event }
  | .portRetrain => { fam := .event }
  | .portRearm => { fam := .event }
  | .portstClear => { fam := .event }
  | .memerrClear => { fam := .event }
  | .ctxderrClear => { fam := .event }
  | .trustWriteRefused => { fam := .event }
  | .registerWrite => { fam := .event }
  | .contextCreate => { fam := .event }
  | .partitionRangesSet => { fam := .event }
  | .supervisorHartAccess => { fam := .event }
  | .portRetrained => { fam := .event }

/-- The prefix of an instruction (R154); an operation or event has none. -/
def preOf : Instr → Pre
  | .nop => none
  | .bra p _ => p
  | .braR p _ => p
  | .brcAny p _ => p
  | .brcAll p _ => p
  | .brcZ p _ => p
  | .brcNz p _ => p
  | .brd p _ => p
  | .brdZ p _ => p
  | .brdNz p _ => p
  | .call p _ => p
  | .callR p _ => p
  | .ret p _ => p
  | .exit p _ => p
  | .wbase p _ => p
  | .wbaseR p _ => p
  | .yield p _ => p
  | .trap p _ => p
  | .spop p _ => p
  | .add p _ => p
  | .addi p _ => p
  | .sub p _ => p
  | .addSatI32 p _ => p
  | .addSatN32 p _ => p
  | .subSatI32 p _ => p
  | .subSatN32 p _ => p
  | .mul p _ => p
  | .muli p _ => p
  | .mulhI32 p _ => p
  | .mulhN32 p _ => p
  | .mad p _ => p
  | .madwI32 p _ => p
  | .madwN32 p _ => p
  | .minI32 p _ => p
  | .minN32 p _ => p
  | .maxI32 p _ => p
  | .maxN32 p _ => p
  | .miniI32 p _ => p
  | .miniN32 p _ => p
  | .maxiI32 p _ => p
  | .maxiN32 p _ => p
  | .abs p _ => p
  | .neg p _ => p
  | .and p _ => p
  | .andi p _ => p
  | .or p _ => p
  | .ori p _ => p
  | .xor p _ => p
  | .xori p _ => p
  | .not p _ => p
  | .andn p _ => p
  | .andni p _ => p
  | .shl p _ => p
  | .shli p _ => p
  | .shr p _ => p
  | .shri p _ => p
  | .sha p _ => p
  | .shai p _ => p
  | .rol p _ => p
  | .roli p _ => p
  | .ror p _ => p
  | .popc p _ => p
  | .clz p _ => p
  | .ctz p _ => p
  | .brev p _ => p
  | .bfxI32 p _ => p
  | .bfxN32 p _ => p
  | .bfi p _ => p
  | .sel p _ => p
  | .mov p _ => p
  | .movi p _ => p
  | .movh p _ => p
  | .lea p _ => p
  | .leai p _ => p
  | .bfxrI32 p _ => p
  | .bfxrN32 p _ => p
  | .bfir p _ => p
  | .rsubi p _ => p
  | .fadd p _ => p
  | .fsub p _ => p
  | .fmul p _ => p
  | .ffma p _ => p
  | .ffms p _ => p
  | .fnma p _ => p
  | .fmin p _ => p
  | .fmax p _ => p
  | .frcp p _ => p
  | .frsq p _ => p
  | .fsqrt p _ => p
  | .fexp2 p _ => p
  | .flog2 p _ => p
  | .fclass p _ => p
  | .faddX2 p _ => p
  | .fsubX2 p _ => p
  | .fmulX2 p _ => p
  | .ffmaX2 p _ => p
  | .fminX2 p _ => p
  | .fmaxX2 p _ => p
  | .frcpX2 p _ => p
  | .frsqX2 p _ => p
  | .fsqrtX2 p _ => p
  | .fexp2X2 p _ => p
  | .flog2X2 p _ => p
  | .cvtFromF32 p _ => p
  | .cvtFromF16 p _ => p
  | .cvtFromBf16 p _ => p
  | .cvtFromE4m3 p _ => p
  | .cvtFromE5m2 p _ => p
  | .cvtFromI32 p _ => p
  | .cvtFromN32 p _ => p
  | .cvtFromI64 p _ => p
  | .cvtFromN64 p _ => p
  | .cvtFromI16 p _ => p
  | .cvtFromN16 p _ => p
  | .cvtFromI8 p _ => p
  | .cvtFromN8 p _ => p
  | .cvtFromI4 p _ => p
  | .cvtPk p _ => p
  | .cvtPkHi p _ => p
  | .cmpI32 p _ => p
  | .cmpN32 p _ => p
  | .cmpF32 p _ => p
  | .cmpiI32 p _ => p
  | .cmpiN32 p _ => p
  | .pand p _ => p
  | .por p _ => p
  | .pxor p _ => p
  | .pnot p _ => p
  | .pmov p _ => p
  | .shflIdx p _ => p
  | .shflUp p _ => p
  | .shflDown p _ => p
  | .shflXor p _ => p
  | .shfliIdx p _ => p
  | .shfliUp p _ => p
  | .shfliDown p _ => p
  | .shfliXor p _ => p
  | .voteAny p _ => p
  | .voteAll p _ => p
  | .voteEq p _ => p
  | .ballot p _ => p
  | .reduxAdd p _ => p
  | .reduxMinI32 p _ => p
  | .reduxMinN32 p _ => p
  | .reduxMaxI32 p _ => p
  | .reduxMaxN32 p _ => p
  | .reduxAnd p _ => p
  | .reduxOr p _ => p
  | .reduxXor p _ => p
  | .ld p _ => p
  | .ldB128 p _ => p
  | .st p _ => p
  | .stB128 p _ => p
  | .ldfeKeep p _ => p
  | .ldfeClr p _ => p
  | .stfe p _ => p
  | .feset p _ => p
  | .feclr p _ => p
  | .ldt p _ => p
  | .pref p _ => p
  | .rld p _ => p
  | .rset p _ => p
  | .rget p _ => p
  | .rmov p _ => p
  | .atomAdd p _ => p
  | .atomMin p _ => p
  | .atomMax p _ => p
  | .atomAnd p _ => p
  | .atomOr p _ => p
  | .atomXor p _ => p
  | .atomXchg p _ => p
  | .atomCas p _ => p
  | .atomIncw p _ => p
  | .redAdd p _ => p
  | .redMin p _ => p
  | .redMax p _ => p
  | .redAnd p _ => p
  | .redOr p _ => p
  | .redXor p _ => p
  | .atomfAdd p _ => p
  | .atomfMin p _ => p
  | .atomfMax p _ => p
  | .fence p _ => p
  | .xfence p _ => p
  | .bar => none
  | .bara => none
  | .barw => none
  | .gbar => none
  | .qpush p _ => p
  | .qpop p _ => p
  | .qtry p _ => p
  | .qallow p _ => p
  | .qinit p _ => p
  | .evwait p _ => p
  | .evset p _ => p
  | .evclr p _ => p
  | .evtest p _ => p
  | .mma p _ => p
  | .mmaW p _ => p
  | .cmma p _ => p
  | .aclr p _ => p
  | .adrain p _ => p
  | .afill p _ => p
  | .ast p _ => p
  | .astW p _ => p
  | .astI p _ => p
  | .amov p _ => p
  | .amovGet p _ => p
  | .amovPut p _ => p
  | .bndrd p _ => p
  | .bndrdK p _ => p
  | .bndwr p _ => p
  | .bndthr p _ => p
  | .bndchk p _ => p
  | .cvtq p _ => p
  | .srseed p _ => p
  | .smerge p _ => p
  | .fork p _ => p
  | .forkHandle p _ => p
  | .rdv p _ => p
  | .rdvAll p _ => p
  | .acopy p _ => p
  | .acopyA p _ => p
  | .acopyB p _ => p
  | .mfill p _ => p
  | .bcopy p _ => p
  | .cacopy p _ => p
  | .acwait p _ => p
  | .bcwait p _ => p
  | .cains p _ => p
  | .cainsN p _ => p
  | .caget p _ => p
  | .carefInc p _ => p
  | .carefDec p _ => p
  | .carefPin p _ => p
  | .caswap p _ => p
  | .kvwalk p _ => p
  | .cawalk p _ => p
  | .launch p _ => p
  | .sysrd p _ => p
  | .syswr p _ => p
  | .tlbinv p _ => p
  | .shoot p _ => p
  | .shootCtx p _ => p
  | .ctxsw p _ => p
  | .uien p _ => p
  | .userInterruptDelivery => none
  | .splitMerge => none
  | .stackPop => none
  | .yieldTimeout => none
  | .launchTake => none
  | .gangPlace => none
  | .blockRetire => none
  | .gridRetire => none
  | .barrierPhaseComplete => none
  | .queueRetry => none
  | .ldfeRetry => none
  | .preemptSwap => none
  | .spill => none
  | .restoreLoad => none
  | .stagedSwap => none
  | .stallReport => none
  | .hangReport => none
  | .quarterBind => none
  | .passStart => none
  | .passPromote => none
  | .completion => none
  | .copyLanding => none
  | .pageWalk => none
  | .homeSliceAtomic => none
  | .readWindowClose => none
  | .park => none
  | .faultRecordPost => none
  | .redrive => none
  | .inboundPostedWrite => none
  | .inboundRead => none
  | .inboundTimeout => none
  | .peerFailureCompletion => none
  | .relaxedFlushAck => none
  | .pageInJob => none
  | .bulkCopyJob => none
  | .cacopyJob => none
  | .caInsert => none
  | .lovageReclaim => none
  | .savoryScrub => none
  | .wsRefreshOpen => none
  | .wsRefreshClose => none
  | .congestionMark => none
  | .injectionRateRecover => none
  | .eccCorrected => none
  | .eccUncorrectable => none
  | .linkCheckFail => none
  | .portDown => none
  | .mmioReadTimeout => none
  | .cxlPoisonCompletion => none
  | .clockIslandSwitch => none
  | .throttleRaise => none
  | .throttleLower => none
  | .thermalReset => none
  | .powerOnBoot => none
  | .powerRemove => none
  | .sidebandReset => none
  | .attestation => none
  | .sidebandNack => none
  | .launchq => none
  | .killctx => none
  | .careset => none
  | .caframe => none
  | .uiraise => none
  | .stallstClear => none
  | .ctxerrClear => none
  | .lrefuseClear => none
  | .mfreezeFreeze => none
  | .mfreezeDiscard => none
  | .xpcWrite => none
  | .fqheadAdvance => none
  | .poolTake64k => none
  | .poolTake2m => none
  | .poolTake1g => none
  | .plango => none
  | .portRetrain => none
  | .portRearm => none
  | .portstClear => none
  | .memerrClear => none
  | .ctxderrClear => none
  | .trustWriteRefused => none
  | .registerWrite => none
  | .contextCreate => none
  | .partitionRangesSet => none
  | .supervisorHartAccess => none
  | .portRetrained => none

/-- Whether a row of the window exists (R159): the row that field n names, when n names a lane register. -/
def RegFile.rowOf (r : RegFile) (n : Nat) : Option Nat :=
  if 16 * r.wbase + n < 16 * r.units then some (16 * r.wbase + n) else none

/-- The value of a register field in a lane (R158 to R160): a row beyond the window reads as 0 (R322). -/
def RegFile.lane (r : RegFile) (f : BitVec 7) (l : Nat) : Word :=
  if h : 112 ≤ f.toNat then r.s[f.toNat - 112]'(by omega)
  else match r.rowOf f.toNat with
    | some n => (FMap.get Row.zero r.rows n).lane l
    | none => 0

/-- Writes a register field (R158 to R160): the lanes of the mask, or the value of the lowest lane of the mask in a
uniform register; a write beyond the window is discarded (R322). -/
def RegFile.write (r : RegFile) (f : BitVec 7) (m : Mask) (v : Nat → Word) : RegFile :=
  if h : 112 ≤ f.toNat then
    match lowest m with
    | some l => { r with s := r.s.set (f.toNat - 112) (v l) (by omega) }
    | none => r
  else match r.rowOf f.toNat with
    | some n => { r with rows := FMap.set Row.zero r.rows n ((FMap.get Row.zero r.rows n).merge m v) }
    | none => r

/-- The register that is `i` after a field (R161). -/
def reg (f : BitVec 7) (i : Nat) : BitVec 7 := f + BitVec.ofNat 7 i

/-- The 64-bit value of a pair in a lane, the low word first (R161). -/
def RegFile.pair (r : RegFile) (f : BitVec 7) (l : Nat) : DWord := r.lane (reg f 1) l ++ r.lane f l

/-- Writes a pair (R161). -/
def RegFile.writePair (r : RegFile) (f : BitVec 7) (m : Mask) (v : Nat → DWord) : RegFile :=
  (r.write f m fun l => (v l).setWidth 32).write (reg f 1) m fun l => (v l).extractLsb' 32 32

/-- A predicate (R158). -/
def RegFile.pred (r : RegFile) (n : BitVec 3) : Mask := r.p[n.toNat]'(by omega)

/-- Writes a predicate in the lanes of a mask. -/
def RegFile.writePred (r : RegFile) (n : BitVec 3) (m v : Mask) : RegFile :=
  { r with p := r.p.set n.toNat ((r.pred n &&& ~~~m) ||| (v &&& m)) (by omega) }

/-- A record slot (R67, R158). -/
def RegFile.rcd (r : RegFile) (k : BitVec 5) : BitVec 256 := FMap.get 0 r.k k.toNat

/-- Writes a record: bits 191:184 are written 0 whatever the source holds (R67, R212). -/
def RegFile.writeRec (r : RegFile) (k : BitVec 5) (v : BitVec 256) : RegFile :=
  { r with k := FMap.set 0 r.k k.toNat (v &&& ~~~(0xFF#256 <<< 184)) }

/-- The places that a run of registers names. -/
def RegFile.locs (r : RegFile) (f : BitVec 7) (n : Nat) : List Loc :=
  (List.range n).filterMap fun i =>
    let g := reg f i
    if 112 ≤ g.toNat then some (.s (g.toNat - 112)) else (r.rowOf g.toNat).map .row

/-- The guard of a prefix (R157): the lanes of the split that it leaves active. -/
def activeOf (r : RegFile) (m : Mask) : Pre → Mask
  | none => m
  | some q => if q.ge then (if q.gn then m &&& ~~~(r.pred q.gp) else m &&& r.pred q.gp) else m

/-- The immediate of an I word, signed use (R156), extended to 32 bits. -/
def simm (p : Pre) (w : IWord) : Word :=
  match p with
  | none => w.imm.signExtend 32
  | some q => (q.ext ++ w.imm).signExtend 32

/-- The immediate of an I word, unsigned use (R156), extended to 32 bits. -/
def uimm (p : Pre) (w : IWord) : Word :=
  match p with
  | none => w.imm.setWidth 32
  | some q => (q.ext ++ w.imm).setWidth 32

/-- A branch target (R156): the address of the instruction plus four times the word offset. -/
def targetI (pc : DWord) (p : Pre) (w : IWord) : DWord := pc + 4 * (simm p w).signExtend 64

/-- The target of a C-format branch (R156). -/
def targetC (pc : DWord) (w : CWord) : DWord := pc + 4 * w.signExtend 64

/-- The size in bytes that a type code gives a lane's access (R202). -/
def tySize (ty : BitVec 5) : Nat :=
  match ty.toNat with
  | 1 | 2 => 1
  | 3 | 4 => 2
  | 7 | 8 => 8
  | _ => 4


end Sys2Proof.Machine
end

