-- ==== Sys2Proof/Machine/Fetch.lean ====
section
/-! DEFINITION. Page tables and their walk (spec/03_memory.md R71, R72, R74), translations held by a TLB (R75), the fetch of instruction words (R168), and the chain
spans that look ahead in the instruction stream (spec/02_execution.md R51, R52). -/

namespace Sys2Proof.Machine

/-- The part of a virtual address that selects table entries: bits 56:0 (R71). -/
def va57 (va : DWord) : Nat := va.toNat % 2 ^ 57

/-- A bit of a page-table entry (R72). -/
def pteBit (e : DWord) (n : Nat) : Bool := e.getLsbD n

/-- The class of a leaf (R72). -/
def pteClass (e : DWord) : Nat := (e.extractLsb' 59 3).toNat

/-- The tier of a leaf (R72). -/
def pteTier (e : DWord) : Nat := (e.extractLsb' 57 2).toNat

/-- The physical address in an entry: bits 51:8 (R72). -/
def pteAddr (e : DWord) : Nat := (e.extractLsb' 8 44).toNat * 256

/-- The bytes that an entry of a level maps (R71). -/
def levelSize (level : Nat) : Nat :=
  match level with
  | 0 => 2 ^ 16
  | 1 => 2 ^ 21
  | 2 => 2 ^ 30
  | _ => 2 ^ 39

/-- The index of an address at a level (R71). -/
def levelIndex (level : Nat) (va : DWord) : Nat :=
  match level with
  | 0 => (va.extractLsb' 16 5).toNat
  | 1 => (va.extractLsb' 21 9).toNat
  | 2 => (va.extractLsb' 30 9).toNat
  | _ => (va.extractLsb' 39 18).toNat

/-- The alignment of the table that a pointer entry of a level names (R71). -/
def tableAlign (level : Nat) : Nat := if level = 1 then 256 else 4096

/-- What a walk finds: the level, the address and the value of a leaf, or where and why it stops (R278). -/
inductive WalkEnd where
  | leaf (level at_ : Nat) (e : DWord)
  | stop (cause level : Nat) (e : DWord)
  deriving DecidableEq, Repr

/-- Whether a leaf is usable (R74). -/
def leafUsable (level : Nat) (e : DWord) : Bool :=
  decide (pteClass e < 5) && !(decide (pteClass e < 2) && pteTier e == 3) && pteAddr e % levelSize level == 0

/-- A walk from a level down (R71, R74). -/
def walkFrom (m : Memory) (va : DWord) : Nat → Nat → WalkEnd
  | 0, table =>
    let at_ := table + 8 * levelIndex 0 va
    let e := m.read64 at_
    if !pteBit e 63 then .stop 0 0 e else if leafUsable 0 e then .leaf 0 at_ e else .stop 6 0 e
  | level + 1, table =>
    let at_ := table + 8 * levelIndex (level + 1) va
    let e := m.read64 at_
    if !pteBit e 63 then .stop 0 (level + 1) e
    else if pteBit e 62 then
      (if level + 1 < 3 ∧ leafUsable (level + 1) e = true then .leaf (level + 1) at_ e else .stop 6 (level + 1) e)
    else if pteAddr e % tableAlign (level + 1) = 0 then walkFrom m va level (pteAddr e)
    else .stop 6 (level + 1) e

/-- The walk of an address in a context's tables (R71). -/
def State.walk (s : State) (ctx : Nat) (va : DWord) : WalkEnd := walkFrom s.mem va 3 (s.ctx ctx).ptroot

/-- Whether a translation holds an address of a context. -/
def TlbEntry.covers (e : TlbEntry) (ctx a : Nat) : Bool := e.ctx == ctx && e.va ≤ a && a < e.va + e.size

/-- The translation of an address in a core's TLB that meets a condition: physical address, class and tier. -/
def State.tlb? (s : State) (core ctx : Nat) (va : DWord) (ok : TlbEntry → Bool) : Option (Nat × Nat × Nat) :=
  match (s.core core).tlb.find? fun e => e.covers ctx (va57 va) && ok e with
  | some e => some (e.pa + (va57 va - e.va), e.cls, e.tier)
  | none => none

/-- Whether the memory of some CXL port is under poison treatment (R355). -/
def State.cxlPoison (s : State) : Bool := (List.range 4).any fun i => (s.port i).poison

/-- Whether a physical line is poisoned: marked, or CXL memory of a port under poison treatment (R342, R355). -/
def State.poisoned (s : State) (pa : Nat) : Bool :=
  FMap.get false s.poison (lineOf pa) || (s.cxlPoison && Config.isCxl pa && (s.port (Config.cxlPortOf pa).val).poison)

/-- The key of a context's memory (R25). -/
def State.ctxKey (s : State) (ctx : Nat) : BitVec 512 := FMap.get 0 s.keys (s.ctx ctx).keyslot.toNat

/-- A byte of memory as a context reads it (R25): off the package, what was written under another key gives bytes that the spec leaves
open. -/
def State.seenBy (s : State) (ctx a : Nat) : Byte :=
  match FMap.get none s.cipher (a / 16) with
  | some k =>
    if k = s.ctxKey ctx ∨ Config.isCxl a = false then s.mem.read a
    else
      let v : BitVec 128 := BitVec.ofNat 128 (ofBytes (s.mem.readN (a / 16 * 16) 16))
      (Config.otherKey k (s.ctxKey ctx) (a / 16) v).extractLsb' (8 * (a % 16)) 8
  | none => s.mem.read a

/-- Bytes of memory as a context reads them (R25). -/
def State.seenBytes (s : State) (ctx a n : Nat) : List Byte := (List.range n).map fun i => s.seenBy ctx (a + i)

/-- Memory as a context reads it (R25). -/
def State.memFor (s : State) (ctx : Nat) : Memory :=
  s.cipher.foldl (fun m e => m.writeAll (at_ (16 * e.1) (s.seenBytes ctx (16 * e.1) 16))) s.mem

/-- Bytes of memory that a context writes (R25): off the package, each 16 bytes that they touch are then under the context's key. -/
def State.writeFor (s : State) (ctx : Nat) (ws : List (Nat × Byte)) : State :=
  let bs := distinct ((ws.filter fun w => Config.isCxl w.1).map fun w => w.1 / 16)
  let m := bs.foldl (fun m b => m.writeAll (at_ (16 * b) (s.seenBytes ctx (16 * b) 16))) s.mem
  { s with mem := m.writeAll ws, cipher := bs.foldl (fun c b => FMap.set none c b (some (s.ctxKey ctx))) s.cipher }

/-- An instruction address: bits 1:0 are 0 and bits 63:57 equal bit 56 (R151). -/
def instrAddr (pc : DWord) : Bool :=
  pc.extractLsb' 0 2 == 0 && (pc.extractLsb' 56 8 == 0 || pc.extractLsb' 56 8 == 0xFF)

/-- The instruction word at an address: one that a fetch has delivered, or the word that the context reads in memory (R25) where the
TLB permits the fetch of it (R74, R168, R278) and the line is not poisoned (R342). -/
def State.fetchWord (s : State) (core ctx : Nat) (sp : Split) (pc : DWord) : Option Word :=
  match sp.words.find? fun e => e.1 == pc.toNat with
  | some e => some e.2
  | none =>
    match s.tlb? core ctx pc fun e => e.x && e.cls == 0 with
    | some (pa, _) => if s.poisoned pa then none else some (BitVec.ofNat 32 (ofBytes (s.seenBytes ctx pa 4)))
    | none => none

/-- What the fetch at an address finds. -/
inductive Fetched where
  /-- The word at this address must be fetched from memory first. -/
  | wait (va : DWord)
  /-- No instruction, with the first word (R167). -/
  | illegal (first : Word)
  | ok (i : Instr) (first : Word) (len : Nat)
  deriving DecidableEq, Repr

/-- The decoding of the instruction at an address from the words that a function gives (R151, R155, R167, R323). The second word of a
prefixed pair is the one at bits 56:0 of the address 4 beyond; that its address need not be in canonical form is the model's choice
(assumption log 82). -/
def fetchBy (word : DWord → Option Word) (pc : DWord) : Fetched :=
  if !instrAddr pc then .illegal 0
  else match word pc with
    | none => .wait pc
    | some v =>
      if isPrefixWord v then
        match word (pc + 4) with
        | none => .wait (pc + 4)
        | some u =>
          match decode2 v (some u) with
          | .ok (i, n) => .ok i v n
          | .error _ => .illegal v
      else match decode2 v none with
        | .ok (i, n) => .ok i v n
        | .error _ => .illegal v

/-- The fetch and decoding of the instruction at an address. -/
def State.fetch (s : State) (core ctx : Nat) (sp : Split) (pc : DWord) : Fetched := fetchBy (s.fetchWord core ctx sp) pc

/-- The instruction in which an issuer waits. -/
def Split.waitsIn (p : Split) : Option Instr :=
  match fetchBy (fun a => (p.words.find? fun e => e.1 == a.toNat).map (·.2)) p.pc with
  | .ok i _ _ => some i
  | _ => none

/-- The instructions of the latch families that follow in the stream of a split, at most `fuel` (R50, R51), each with its address and its
length; and the word that must be fetched before the next of them can be told. -/
def State.upcoming (s : State) (core ctx : Nat) (sp : Split) : Nat → DWord → List (Instr × DWord × Nat) × Option DWord
  | 0, _ => ([], none)
  | n + 1, pc =>
    match s.fetch core ctx sp pc with
    | .ok i _ len =>
      if (shapeOf i).fam = .latch then
        let (l, va) := s.upcoming core ctx sp n (pc + BitVec.ofNat 64 len)
        ((i, pc, len) :: l, va)
      else ([], none)
    | .wait va => ([], some va)
    | .illegal _ => ([], none)

/-- Whether a split stands inside a chain span (R51): an instruction at most four ahead reads through a latch a result
that the split has already made. What a run of more than 8 instructions that read a latch does, which zkas refuses (R51), is the model's
choice: its span goes on to the run's end (assumption log 88). -/
def State.inSpan (s : State) (core ctx : Nat) (sp : Split) : Bool :=
  sp.run != 0 &&
    (s.upcoming core ctx sp 4 sp.pc).1.zipIdx.any fun (x, j) =>
      (shapeOf x.1).lat.any fun n => j ≤ n.toNat && n.toNat - j < sp.run

/-- The index of the last instruction of the span to which the head of the list belongs, after `run` instructions of the latch families
(R51): a reader whose source lies in the span so far, or among those, extends it. -/
def spanEnd (run : Nat) (l : List Shape) : Nat :=
  l.zipIdx.foldl (fun last (sh, j) =>
    if sh.lat.any fun n => if n.toNat + 1 ≤ j then j - (n.toNat + 1) ≤ last else n.toNat + 1 - j ≤ run then j else last) 0

/-- The instructions of the latch families that a split has issued in a row, none when another split of the group issued last (R53). -/
def Group.runOf (g : Group) (sid : Nat) : Nat := if g.last = some sid then (g.split sid).run else 0

/-- The word that a split must fetch before its next instruction may issue (R52, R278): the next that its stream lacks, where an
instruction there may still belong to the span. The first instruction of a span issues only when every operand read within it is
available, so its words are fetched first: the model's reading of R52 (assumption log 66). -/
def State.spanLacks (s : State) (g : GroupAt) (sid : Nat) : Option DWord :=
  let gr := s.group g
  let sp := gr.split sid
  let (l, va) := s.upcoming g.core (s.block g.core g.block).ctx sp 12 sp.pc
  va.filter fun _ => decide (l.length ≤ spanEnd (gr.runOf sid) (l.map fun x => shapeOf x.1) + 4)

/-- The instruction at the PC of an issuer, with the words of the span that begins with it or goes on there. -/
def State.fetched (s : State) (w : Who) : Fetched :=
  match s.fetch w.core (s.blk w).ctx (s.sp w) (s.sp w).pc, w with
  | .ok i v n, .split g sid =>
    (match s.spanLacks g sid with
     | some va => .wait va
     | none => .ok i v n)
  | x, _ => x

/-- The instructions of the span after one in hand of `len` bytes and a given shape, which a split issues next. -/
def State.spanRest (s : State) (g : GroupAt) (sid : Nat) (sh : Shape) (len : Nat) : List (Instr × DWord × Nat) :=
  let gr := s.group g
  let sp := gr.split sid
  let l := (s.upcoming g.core (s.block g.core g.block).ctx sp 11 (sp.pc + BitVec.ofNat 64 len)).1
  l.take (spanEnd (gr.runOf sid) (sh :: l.map fun x => shapeOf x.1))

/-- The words of those instructions, which the split keeps until the span ends. -/
def State.spanWords (s : State) (g : GroupAt) (sid : Nat) (sh : Shape) (len : Nat) : List (Nat × Word) :=
  (s.spanRest g sid sh len).flatMap fun (_, pc, n) => (List.range (n / 4)).filterMap fun k =>
    let a := pc + BitVec.ofNat 64 (4 * k)
    (s.fetchWord g.core (s.block g.core g.block).ctx ((s.group g).split sid) a).map fun v => (a.toNat, v)

/-- The places that a shape reads or writes, in the registers of an issuer. -/
def Shape.locs (sh : Shape) (r : RegFile) : List Loc :=
  (sh.rd ++ sh.wr).flatMap (fun (f, n) => r.locs f n) ++ (sh.prd ++ sh.pwr).map (fun p => .pred p.toNat) ++
    (sh.krd ++ sh.kwr).map (fun k => .slot k.toNat)

/-- The places that a shape reads. -/
def Shape.reads (sh : Shape) (r : RegFile) : List Loc :=
  sh.rd.flatMap (fun (f, n) => r.locs f n) ++ sh.prd.map (fun p => .pred p.toNat) ++
    sh.krd.map (fun k => .slot k.toNat)

/-- The places that a shape writes. -/
def Shape.writes (sh : Shape) (r : RegFile) : List Loc :=
  sh.wr.flatMap (fun (f, n) => r.locs f n) ++ sh.pwr.map (fun p => .pred p.toNat) ++
    sh.kwr.map (fun k => .slot k.toNat)

/-- The guard predicate that a prefix reads (R157). -/
def guardLoc : Pre → List Loc
  | none => []
  | some q => if q.ge then [.pred q.gp.toNat] else []

/-- The places that outstanding results of a group will write (R201, R205). -/
def Group.pending (g : Group) : List Loc := g.sb.flatMap (·.dsts)

/-- Whether every place is available: no outstanding result will write it (R201). -/
def Group.available (g : Group) (ls : List Loc) : Bool := ls.all fun l => !g.pending.contains l

/-- The guard that an instruction reads before it issues (R157): that of its prefix, which for an instruction without a field stands in the
prefix word in hand. -/
def State.guardOf (s : State) (i : Instr) : Pre :=
  match i with
  | .nop | .bar | .bara | .barw | .gbar => if s.ilen = 8 then some (Prefix.ofBits s.iword) else none
  | i => preOf i

/-- Whether the operands of an instruction are available, and at the first instruction of a span those of the whole
span, but for what the span itself writes (R49, R52, R201). -/
def State.operandsReady (s : State) (w : Who) (i : Instr) (len : Nat) : Bool :=
  match w with
  | .split g sid =>
    let gr := s.group g
    let sp := gr.split sid
    let b := s.block g.core g.block
    let sh := shapeOf i
    gr.available (sh.locs gr.rf ++ guardLoc (s.guardOf i)) &&
      (sh.fam != .latch || s.inSpan g.core b.ctx sp ||
        (let span := (s.spanRest g sid sh len).map (·.1)
         let made := (sh :: span.map shapeOf).flatMap fun x => x.writes gr.rf
         span.all fun x => gr.available (((shapeOf x).reads gr.rf ++ guardLoc (preOf x)).filter fun l => !made.contains l)))
  | _ => true

end Sys2Proof.Machine
end

