-- ==== Sys2Proof/Machine/Ops.lean ====
section
/-! DEFINITION. The shared operations of issue: beginning an instruction (guard, permission, readiness), finishing it,
waiting, the latch shift (R50), taking a trap and returning from one (spec/18_traps.md R301 to R307), the halt of a
context, and the division of a split at a control instruction (R183, R308). -/

namespace Sys2Proof.Machine

/-- An instruction in hand: the state as its issuer issues, who issues, the group it belongs to, its address, the
address after it, the split's mask, the active lanes (R157), the registers and the latches as they stand now, the registers as they
stood when the instruction issued (R201), and the split before this turn. -/
structure Iss where
  s : State
  who : Who
  g : GroupAt
  pc : DWord
  fall : DWord
  mask : Mask
  active : Mask
  rf : RegFile
  b : Vector Row 4
  at_ : RegFile
  old : Split
  deriving DecidableEq, Repr

/-- What beginning an instruction gives: it goes on, or it stops with an answer. -/
inductive Begun where
  | stop (o : Answer)
  | go (c : Iss)

/-- Whether a split or a feed thread exists. -/
def State.lives (s : State) (w : Who) : Bool :=
  match w with
  | .split g sid => (s.group g).live && ((s.group g).split sid).live
  | .thread c b t => ((s.block c b).thread t).live && !((s.block c b).thread t).ended
  | .nobody => false

/-- Whether the issuer exists. -/
def State.hasIssuer (s : State) : Bool := s.lives s.cur

/-- Whether a wait is one in which an instruction waits that has issued (R49, R204); in the others it is not ready. -/
def Wait.blocking : Wait → Bool
  | .fence _ _ | .xfence _ | .release | .bar | .barw | .gbar | .qpush | .qpop | .ldfe | .event | .rdv | .acwait | .bcwait | .lpb
  | .launch | .walks | .away => true
  | .operand | .fetch | .fork | .copy | .job | .matrixFull | .tile | .handler | .merge => false

/-- What an instruction that is abandoned while it waits keeps for when it is issued again: the phase at which it waits at a
barrier, or that its event has been set (R204, R217, R221). -/
def Split.held (p : Split) : Option Nat :=
  match p.wait with
  | some .bar | some .barw | some .gbar => p.walks
  | some .event => if p.walks = some 256 then p.walks else none
  | some _ => none
  | none => p.walks

/-- The instruction is not ready: the split waits and has used its turn (R49). -/
def State.await (s : State) (w : Wait) : Answer :=
  .next (s.setSp s.cur { s.sp s.cur with wait := some w, tried := true })

/-- Whether a core holds a block of a context in its active bank. -/
def Core.holds (c : Core) (ctx : Nat) : Bool := c.act.any fun e => e.2.live && e.2.ctx == ctx

/-- Requests the pre-emption of a context on every core that holds a block of it (R59). -/
def State.requestPreempt (s : State) (ctx : Nat) : State :=
  { s with cores := s.cores.map fun (n, c) =>
      (n, if c.holds ctx && !c.preempt.contains ctx then { c with preempt := c.preempt ++ [ctx] } else c) }

/-- The halt of a context (R307): CTXERR takes the halted bit, the group slot, the core and the cause, the context-error
interrupt rises, and the context is pre-empted. A hung bit that is set stays. Where another group of the context halts before it has
left, CTXERR names the later halt: the model's choice (assumption log 92). -/
def State.halt (s : State) (ctx core slot cause : Nat) : State :=
  let x := s.ctx ctx
  let e := (x.ctxerr &&& 0x80000000) ||| 0x40000000 ||| BitVec.ofNat 32 (slot % 32 * 2 ^ 25) |||
    BitVec.ofNat 32 (core % 512 * 2 ^ 16) ||| BitVec.ofNat 32 (cause % 16)
  { s.setCtx ctx { x with ctxerr := e } with ctxIrq := true }.requestPreempt ctx

/-- The halt that the issuer's context takes, with the core and the slot of the issuing group; for a feed thread, of
the group that issued the FORK (R334). -/
def State.haltCur (s : State) (cause : Nat) : State :=
  s.halt (s.blk s.cur).ctx s.cur.core (s.slotOf (s.groupOf s.cur)) cause

/-- The trap entries on a stack (R304). -/
def trapDepth (st : List StackEntry) : Nat := (st.filter (·.trap)).length

/-- Whether another split of the group is in a handler (R304). -/
def Group.othersInHandler (g : Group) (sid : Nat) : Bool :=
  g.liveSplits.any fun e => e.1 != sid && e.2.depth != 0

/-- The latches at a switch (R53). -/
def noLatches : Vector Row 4 := Vector.replicate 4 Row.zero

/-- What a split that leaves a waiting full/empty instruction keeps of its operands, once that has taken a step in some lanes: the registers from
which it goes on (R204, R208). -/
def Split.kept (p : Split) : Option RegFile := if p.got = 0 then none else p.snap

/-- Trap entry for a split with its return address (R303): the entry is pushed, XCAUSE, XINFO and XMASK are written,
the split goes to the handler at a depth one greater, and the latches clear. -/
def Group.enterTrap (g : Group) (sid : Nat) (cause : Nat) (info : Word) (lanes : Mask) (ret handler : DWord) : Group :=
  let sp := g.split sid
  let st := { pc := ret, mask := sp.mask, trap := true, got := sp.got, walks := sp.held, snap := sp.kept } :: g.stack
  { g.setSplit sid { sp with pc := handler, depth := trapDepth st, wait := none, tried := true, run := 0,
                               yield := none, got := 0, lpb := none, walks := none, words := [], snap := none }
    with stack := st, xcause := BitVec.ofNat 32 cause, xinfo := info, xmask := lanes, b := noLatches, last := some sid }

/-- The core's account of an issue: the stamp last issued at the split's priority on its slot is the split's (R49). -/
def Core.noteIssue (c : Core) (slot prio age : Nat) : Core := { c with last := c.last.put (4 * prio + slot % 4) age }

/-- Whether an issuer waits in an instruction that has issued (R204): its next turn is a retry, which uses no issue slot. -/
def State.resuming (s : State) (w : Who) : Bool := (s.sp w).wait.any Wait.blocking

/-- A split's instruction issues (R49, R189): the split and its core take note of it. -/
def State.countIssue (s : State) (g : GroupAt) (sid : Nat) : State :=
  let bl := s.block g.core g.block
  let sp := (s.group g).split sid
  let t := s.setGroup g ((s.group g).setSplit sid { sp with stamp := s.issues + 1 })
  { t.setCore g.core ((t.core g.core).noteIssue (bl.place.slot + g.ix) bl.prio sp.age) with issues := s.issues + 1 }

/-- The state in which a split takes a trap or halts: its instruction has issued, in this turn unless it waits in it (R49, R189). -/
def State.trapping (s : State) (g : GroupAt) (sid : Nat) : State := if s.resuming (.split g sid) then s else s.countIssue g sid

/-- Takes a trap (R301 to R304, R307, R334): a feed thread halts its context; a split at depth 0 waits while another
split of its group is in a handler; a full stack or a context without a handler halts; otherwise the split enters the
handler. -/
def State.trap (s : State) (cause : Nat) (info : Word) (lanes : Mask) (ret : DWord) : Answer :=
  match s.cur with
  | .split g sid =>
    let gr := s.group g
    let h := (s.ctx (s.block g.core g.block).ctx).handler
    if (gr.split sid).depth = 0 ∧ gr.othersInHandler sid = true then s.await .handler
    else
      let t := s.trapping g sid
      if 16 ≤ gr.stack.length ∨ h = 0 then .next (t.haltCur cause)
      else .next (t.setGroup g ((t.group g).enterTrap sid cause info lanes ret h))
  | _ => .next (s.haltCur cause)

/-- The illegal-instruction trap of the instruction in hand (R301, R320): XINFO is its first word, XMASK its active
lanes, and its address returns. -/
def Iss.illegal (c : Iss) (s : State) : Answer := s.trap 1 s.iword c.active c.pc

/-- Whether a feed thread may execute an instruction (R58, R244, R334): it is one of R58, reads no latch, and names no
lane register v32 to v111. -/
def feedOk (sh : Shape) : Bool :=
  sh.feed && sh.lat.isEmpty &&
    (sh.rd ++ sh.wr).all fun (f, n) => 112 ≤ f.toNat || f.toNat + n ≤ 32

/-- The engine class of the accesses that an instruction makes (R114), none when it makes none; the write of a register is an
access to the device (R261). -/
def classOf : Instr → Option Nat
  | .ld _ _ | .ldB128 _ _ | .st _ _ | .stB128 _ _ | .ldfeKeep _ _ | .ldfeClr _ _ | .stfe _ _ | .feset _ _
  | .feclr _ _ | .ldt _ _ | .rld _ _ | .atomAdd _ _ | .atomMin _ _ | .atomMax _ _ | .atomAnd _ _ | .atomOr _ _
  | .atomXor _ _ | .atomXchg _ _ | .atomCas _ _ | .atomIncw _ _ | .redAdd _ _ | .redMin _ _ | .redMax _ _
  | .redAnd _ _ | .redOr _ _ | .redXor _ _ | .atomfAdd _ _ | .atomfMin _ _ | .atomfMax _ _ | .caswap _ _
  | .kvwalk _ _ | .launch _ _ => some 0
  | .acopy _ _ | .acopyA _ _ | .acopyB _ _ | .mfill _ _ => some 1
  | .adrain _ _ | .afill _ _ | .ast _ _ | .astW _ _ | .astI _ _ => some 2
  | .bcopy _ _ | .cacopy _ _ => some 3
  | .syswr _ _ => some 0
  | .cains _ _ | .cainsN _ _ | .caget _ _ | .carefInc _ _ | .carefDec _ _ | .carefPin _ _ | .cawalk _ _ => some 4
  | _ => none

/-- Whether an instruction only reads memory. -/
def readsOnly : Instr → Bool
  | .ld _ _ | .ldB128 _ _ | .ldfeKeep _ _ | .ldt _ _ | .rld _ _ | .kvwalk _ _ | .afill _ _ | .caget _ _ | .cawalk _ _ => true
  | _ => false

/-- Whether a request is translated. -/
def Req.translated (r : Req) : Bool := r.space == .global || r.space == .peer

/-- Whether an instruction that accesses memory only writes it. -/
def writesOnly : Instr → Bool
  | .st _ _ | .stB128 _ _ | .stfe _ _ | .feset _ _ | .feclr _ _ => true
  | _ => false

/-- The order code of an access of class .simt (R164): that of its word, none for a LAUNCH. -/
def orderOf (i : Instr) : BitVec 2 :=
  match i with
  | .launch _ _ => 0
  | _ => (MWord.ofBits ((encodeWords i).getLastD 0)).order

/-- The access of class .simt that a split has issued and in which it waits, with its number in group order (R102, R204): a full/empty
instruction, or a LAUNCH whose block has yet to be read. -/
def Split.accessing (p : Split) : Option (Nat × Instr) :=
  match p.wait with
  | some .ldfe | some .away | some .release =>
    (match p.walks, p.waitsIn with
     | some n, some i => if classOf i = some 0 then some (n, i) else none
     | _, _ => none)
  | _ => none

/-- The accesses of class .simt in which the splits of a party, but an issuer, wait: they are yet to be performed (R102, R114, R208, R259). -/
def State.waiters (s : State) (p : Party) (but : Who) : List (Nat × Instr) :=
  match p with
  | .group core block ix =>
    (((s.block core block).group ix).liveSplits.filter fun e => but != .split ⟨core, block, ix⟩ e.1).filterMap fun e => e.2.accessing
  | _ => []

/-- Whether such an access that issued before a number, and meets a condition, waits. -/
def State.waiterOwed (s : State) (p : Party) (but : Who) (before : Nat) (ok : Instr → Bool) : Bool :=
  (s.waiters p but).any fun e => decide (e.1 < before) && ok e.2

/-- Whether a request has been performed. -/
def Req.performed (r : Req) : Bool :=
  match r.st with
  | .done _ _ => true
  | _ => false

/-- The requests that have yet to be performed: those on their way and those parked (R113). -/
def State.owed (s : State) : List Req := (s.reqs.filter fun r => !r.performed) ++ s.parked.map (·.req)

/-- Whether a copy is a walk or a launch's read, whose loads are of class .simt (R258, R259). -/
def Copy.isWalk (c : Copy) : Bool :=
  match c.kind with
  | .kv _ _ _ _ _ _ _ | .lpb _ => true
  | _ => false

/-- Whether a party has walks that it began before a number (R258). -/
def State.walksOwed (s : State) (p : Party) (before : Nat) : Bool :=
  s.copies.any fun x => x.isWalk && x.party == p && decide (x.id < before)

/-- Whether a request of a party before a number, or a walk of it, has yet to be performed: it may still come to be parked (R113, R278). -/
def State.owedBefore (s : State) (p : Party) (before : Nat) : Bool :=
  (s.owed.any fun r => r.party == p && decide (r.seq < before)) || s.walksOwed p before

/-- Whether a request is parked, or is known to go where it may be (R113, R278): it has not been translated, its line is poisoned, or
another module may fail it. -/
def State.parkedBefore (s : State) (p : Party) (before : Nat) : Bool :=
  let soon (q : Req) : Bool := match q.st with
    | .mapped pa cls _ => if q.translated then cls == 2 || cls == 3 || s.poisoned pa else q.space != .weight
    | .done _ _ => false
    | _ => true
  (s.reqs.filter soon ++ s.parked.map (·.req)).any fun r => r.party == p && decide (r.seq < before)

/-- Whether a fence or a release in which another split of the group waits orders the accesses of an instruction after itself
(R204, R215), or after a request before it that is or may come to be parked (R113). -/
def State.fenced (s : State) (g : GroupAt) (sid : Nat) (i : Instr) : Bool :=
  match classOf i with
  | none => false
  | some k => (s.group g).liveSplits.any fun e => e.1 != sid &&
      (let held := s.owedBefore (.group g.core g.block g.ix) (e.2.walks.getD 0)
       match e.2.wait with
       | some (.fence acq rel) => (k == 0 && (acq || (rel && !readsOnly i))) || held
       | some (.xfence dst) => k == dst || (dst == 3 && k == 0 && (match i with | .ldt _ _ => true | _ => false)) || held
       | some .release => held
       | _ => false)

/-- A split as its turn begins: it waits for nothing. -/
def Split.taken (p : Split) : Split :=
  { p with wait := none, tried := true, words := [], got := 0, lpb := none, walks := none, snap := none }

/-- A split as it issues (R51 to R53, R189): its wait ends, a run of latch instructions grows or ends, and it keeps the words of its span. -/
def State.issuingSplit (s : State) (g : GroupAt) (sid : Nat) (sh : Shape) : Split :=
  let sp := (s.group g).split sid
  { sp.taken with
    yield := none, stamp := s.issues + 1, words := if sh.fam = .latch then s.spanWords g sid sh s.ilen else []
    run := if sh.fam = .latch then (if (s.group g).last = some sid then sp.run + 1 else 1) else 0 }

/-- The state as an issuer issues: its wait ends and its turn passes; when another split of the group issued last, the
latches clear (R53); a run of latch instructions grows or ends. -/
def State.issuing (s : State) (w : Who) (sh : Shape) : State :=
  match w with
  | .split g sid =>
    let gr := s.group g
    let same := gr.last = some sid
    let gr' := { gr.setSplit sid (s.issuingSplit g sid sh) with b := if same then gr.b else noLatches, last := some sid }
    let bl := s.block g.core g.block
    let s1 := s.setGroup g gr'
    { s1.setCore g.core ((s1.core g.core).noteIssue (bl.place.slot + g.ix) bl.prio (gr.split sid).age) with issues := s.issues + 1 }
  | .thread c _ t =>
    let s1 := s.setSp w (s.sp w).taken
    { s1.setCore c { s1.core c with feedLast := t } with issues := s.issues + 1 }
  | .nobody => s

/-- The state as the turn of an issuer begins: it issues, or it tries again. -/
def State.entered (s : State) (w : Who) (sh : Shape) : State :=
  if s.resuming w then s.setSp w (s.sp w).taken else s.issuing w sh

/-- The latches of an issuer; a feed thread has none (R58). -/
def State.latches (s : State) : Who → Vector Row 4
  | .split g _ => (s.group g).b
  | _ => noLatches

/-- The instruction in hand of an issuer, with `s` the state as its turn begins and `old` the split before: an instruction that
tries again, and an LDFE that was left after it had taken a step, takes its operands and its active lanes as they stood when it
issued (R157, R201, R204, R208). -/
def State.inHand (s : State) (w : Who) (p : Pre) (old : Split) : Iss :=
  let sp := s.sp w
  let r := if old.wait.any Wait.blocking || old.got != 0 then old.snap.getD (s.rf w) else s.rf w
  { s := s, who := w, g := s.groupOf w, pc := sp.pc, fall := sp.pc + BitVec.ofNat 64 s.ilen, mask := sp.mask,
    active := activeOf r sp.mask p, rf := s.rf w, b := s.latches w, at_ := r, old := old }

/-- Whether an instruction that has yet to issue may (R49, R204, R334): a split's operands are available and no fence of another
split orders it after itself; a feed thread may execute it. -/
def State.readyFor (s : State) (i : Instr) : Bool :=
  match s.cur with
  | .split g sid => s.operandsReady s.cur i s.ilen && !s.fenced g sid i
  | _ => feedOk (shapeOf i)

/-- Begins an instruction (R49, R157, R201, R204, R334): without an issuer the step faults; a feed thread that may not
execute it halts; an operand that is not available, or a fence of another split, makes the issuer wait. -/
def State.begin (s : State) (i : Instr) : Begun :=
  if !s.hasIssuer then .stop (.fault .noIssuer)
  else if s.resuming s.cur || s.readyFor i then
    .go ((s.entered s.cur (shapeOf i)).inHand s.cur (preOf i) (s.sp s.cur))
  else if s.cur.isThread then .stop (.next (s.haltCur 1))
  else .stop (s.await .operand)

/-- Begins an instruction and gives what it does once it has begun. -/
def State.perform (s : State) (i : Instr) (f : Iss → Answer) : Answer :=
  match s.begin i with
  | .stop o => o
  | .go c => f c

/-- Writes an issuer's registers and latches and moves it to the next instruction. -/
def Iss.put (c : Iss) (rf : RegFile) (b : Vector Row 4) : State :=
  match c.who with
  | .split g sid =>
    let gr := c.s.group g
    c.s.setGroup g { gr.setSplit sid { gr.split sid with pc := c.fall } with rf := rf, b := b }
  | .thread k bl t =>
    let th := (c.s.block k bl).thread t
    c.s.setBlock k bl ((c.s.block k bl).setThread t { th with sp := { th.sp with pc := c.fall }, rf := rf })
  | .nobody => c.s

/-- Ends an instruction that writes registers and no latch. -/
def Iss.regs (c : Iss) (rf : RegFile) : State := c.put rf c.b

/-- Ends an instruction that has left the state `s`: the issuer moves to the next instruction. -/
def Iss.done (c : Iss) (s : State) : State := s.setSp c.who { s.sp c.who with pc := c.fall }

/-- The words of the instruction in hand, which a waiting split keeps. -/
def Iss.words (c : Iss) : List (Nat × Word) :=
  if c.s.ilen = 8 then [(c.pc.toNat, c.s.iword), ((c.pc + 4).toNat, c.s.iinstr)] else [(c.pc.toNat, c.s.iword)]

/-- A split that waits in the instruction in hand, which has issued (R204): it keeps the instruction and its operands. -/
def Iss.waiting (c : Iss) (w : Wait) (p : Split) : Split :=
  { p with wait := some w, tried := true, words := c.words, snap := some c.at_, got := c.old.got, lpb := c.old.lpb, walks := c.old.walks }

/-- The issuer waits in the instruction in hand, with what `f` notes. -/
def Iss.block (c : Iss) (w : Wait) (f : Split → Split) : State := c.s.setSp c.who (f (c.waiting w (c.s.sp c.who)))

/-- The issuer waits in the instruction in hand. -/
def Iss.await (c : Iss) (w : Wait) : Answer := .next (c.block w id)

/-- Whether this turn is the one in which the instruction issues. -/
def Iss.first (c : Iss) : Bool := !c.old.wait.any Wait.blocking

/-- What the instruction needs is not there: it is not ready, or goes on waiting as it does. -/
def Iss.unready (c : Iss) (s : State) (w : Wait) : Answer := if c.first then s.await w else c.await (c.old.wait.getD w)

/-- The number before which the requests lie that the instruction in hand covers: a fence or release notes it as it issues, and an
instruction that has come to wait for something else has what it covers behind it. -/
def Iss.since (c : Iss) : Nat :=
  match c.old.wait with
  | some (.fence _ _) | some (.xfence _) | some .release => c.old.walks.getD c.s.nextId
  | some w => if w.blocking then 0 else c.s.nextId
  | none => c.s.nextId

/-- The issuer waits for the requests before the instruction (R104, R215, R221). -/
def Iss.awaitSince (c : Iss) (w : Wait) : Answer := .next (c.block w fun p => { p with walks := some c.since })

/-- Registers written as the window base stood when an instruction issued (R159, R201). -/
def RegFile.under (r : RegFile) (n : Nat) (f : RegFile → RegFile) : RegFile := { f { r with wbase := n } with wbase := r.wbase }

/-- The latch shift (R50): b0 takes the result in the active lanes and 0 in the others. -/
def Iss.shift (c : Iss) (v : Nat → Word) : Vector Row 4 :=
  #v[Row.make fun l => if c.active.getLsbD l then v l else 0, c.b[0], c.b[1], c.b[2]]

/-- Operand a of an R word in a lane (R153, R182). -/
def Iss.opA (c : Iss) (w : RWord) (l : Nat) : Word :=
  if w.la then (c.b[(w.a.setWidth 2).toNat]'(by omega)).lane l else c.rf.lane w.a l

/-- Operand b of an R word in a lane (R153, R182). -/
def Iss.opB (c : Iss) (w : RWord) (l : Nat) : Word :=
  if w.lb then (c.b[(w.b.setWidth 2).toNat]'(by omega)).lane l else c.rf.lane w.b l

/-- Ends an instruction of a latch family with a 32-bit result (R50, R153, R182). -/
def Iss.result (c : Iss) (nw : Bool) (d : BitVec 7) (v : Nat → Word) : State :=
  c.put (if nw then c.rf else c.rf.write d c.active v) (c.shift v)

/-- Ends an instruction of a latch family with a 64-bit result: its low word enters b0 (R182). -/
def Iss.result64 (c : Iss) (nw : Bool) (d : BitVec 7) (v : Nat → DWord) : State :=
  c.put (if nw then c.rf else c.rf.writePair d c.active v) (c.shift fun l => (v l).setWidth 32)

/-- Ends an instruction of a latch family with a predicate result: it enters b0 as 1 or 0 (R182). -/
def Iss.resultPred (c : Iss) (nw : Bool) (d : BitVec 7) (v : Mask) : State :=
  c.put (if nw then c.rf else c.rf.writePred (d.setWidth 3) c.active v) (c.shift fun l => if v.getLsbD l then 1 else 0)

/-- The parts into which next addresses divide a mask: each distinct address with its lanes, by ascending lowest lane
(R183). -/
def partsOf (m : Mask) (next : Nat → DWord) : List (DWord × Mask) :=
  (lanesOf m).foldl (fun ps l =>
    if ps.any fun p => p.1 == next l then ps.map fun p => if p.1 == next l then (p.1, p.2 ||| (1#32 <<< l)) else p
    else ps ++ [(next l, 1#32 <<< l)]) []

/-- The parts in the order of R183: those that leave the fall-through first, the part at the fall-through last. -/
def orderParts (fall : DWord) (ps : List (DWord × Mask)) : List (DWord × Mask) :=
  ps.filter (fun p => p.1 != fall) ++ ps.filter (fun p => p.1 == fall)

/-- A number that no split of the group has had; it names the split and says nothing of its position. -/
def Group.freshSplit (g : Group) : Nat := g.splits.foldl (fun m e => max m (e.1 + 1)) g.nextSplit

/-- The lowest split slot of a group that no split holds: the one that a new split receives (R28, R31). That the lowest free slot
is taken, where several are free, is the model's choice (assumption log 81). -/
def Group.freePos (g : Group) : Nat := ((List.range 4).find? fun p => g.liveSplits.all fun e => e.2.pos != p).getD 0

/-- A new split takes a free slot of its group and the next number. -/
def Group.addSplit (g : Group) (p : Split) : Group :=
  { g.setSplit g.freshSplit { p with pos := g.freePos } with nextSplit := g.freshSplit + 1 }

/-- Creates splits from parts: each takes a free slot and a new age stamp and inherits the depth (R49, R304). -/
def Group.addSplits (g : Group) (depth age : Nat) : List (DWord × Mask) → Group
  | [] => g
  | (pc, m) :: ps =>
    Group.addSplits (g.addSplit { Split.empty with live := true, pc := pc, mask := m, age := age, depth := depth }) depth (age + 1) ps

/-- The resolution of a control instruction (R183, R308): the issuing split takes the first part, the next parts become
splits while the group has fewer than four, and the rest are pushed, the first of them on top. A push beyond 15 entries
is cause 5 before any effect, taken from the state `s` before the issue. A feed thread has one lane and so one part. -/
def Iss.resolve (c : Iss) (s : State) (rf : RegFile) (next : Nat → DWord) : Answer :=
  match c.who with
  | .split g sid =>
    let gr := c.s.group g
    match orderParts c.fall (partsOf c.mask next) with
    | [] => .next (c.s.setGroup g { gr.setSplit sid { gr.split sid with pc := c.fall } with rf := rf })
    | (pc0, m0) :: rest =>
      let free := 4 - gr.liveSplits.length
      let k := (rest.drop free).length
      if k ≠ 0 ∧ 15 < gr.stack.length + k then s.trap 5 (BitVec.ofNat 32 k) c.active c.pc
      else
        let co := c.s.core g.core
        let gr1 := gr.setSplit sid { gr.split sid with pc := pc0, mask := m0 }
        let gr2 := gr1.addSplits (gr.split sid).depth co.age (rest.take free)
        let pushed : List StackEntry := (rest.drop free).map fun p => { pc := p.1, mask := p.2, trap := false }
        let gr3 := { gr2 with rf := rf, stack := pushed ++ gr.stack }
        let s1 := c.s.setGroup g gr3
        .next (s1.setCore g.core { s1.core g.core with age := co.age + (rest.take free).length })
  | w => .next ((c.s.setRf w rf).setSp w { c.s.sp w with pc := next 0 })

/-- Takes the lanes of a mask from every split and stack entry; an entry left empty leaves the stack (R27, R30, R306). -/
def Group.exitLanes (g : Group) (m : Mask) : Group :=
  { g with stack := (g.stack.map fun e => { e with mask := e.mask &&& ~~~m }).filter fun e => e.mask != 0 }

/-- A scoreboard entry of a group is freed (R205). -/
def State.freeSb (s : State) (g : GroupAt) (id : Nat) : State := s.setGroup g { s.group g with sb := (s.group g).sb.filter fun e => e.id != id }

/-- The group retires when it has no split left and its stack is empty (R29). -/
def Group.retireIfDone (g : Group) : Group :=
  if g.liveSplits.isEmpty && g.stack.isEmpty then { g with live := false, sb := [] } else g

end Sys2Proof.Machine
end

