-- ==== Sys2Proof/Machine/Tile.lean ====
section
/-! DEFINITION. Accumulator tiles, bound registers and the promotion of a quarter op (spec/05_numbers.md R118, R125 to
R136; spec/11_isa_matrix.md R225, R228, R234, R235). -/

namespace Sys2Proof.Machine

/-- Element k = 128 x i + j of a tile. -/
def Tile.elem (t : Tile) (k : Nat) : Word := FMap.get 0 t k

/-- The tile whose element k is given. -/
def tileOf (f : Nat → Word) : Tile := (List.range 2048).filterMap fun k => if f k = 0 then none else some (k, f k)

/-- A tile of a group. -/
def Group.tile (g : Group) (n : Nat) : Tile := FMap.get [] g.tiles n

/-- The bound register of a tile (R130). -/
def Group.bnd (g : Group) (n : Nat) : DWord := FMap.get 0 g.bounds n

/-- The threshold of a tile (R130). -/
def Group.threshold (g : Group) (n : Nat) : BitVec 8 := FMap.get 0 g.thr n

/-- Replaces the elements of a tile. -/
def Group.setTile (g : Group) (n : Nat) (t : Tile) : Group := { g with tiles := FMap.set [] g.tiles n t }

/-- Replaces a bound register. -/
def Group.setBnd (g : Group) (n : Nat) (e : DWord) : Group := { g with bounds := FMap.set 0 g.bounds n e }

/-- Replaces a threshold: bits 7:6 are written 0 (R130). -/
def Group.setThr (g : Group) (n : Nat) (k : BitVec 8) : Group := { g with thr := FMap.set 0 g.thr n (k &&& 0x3F) }

/-- ovf of a bound register (R130). -/
def bndOvf (e : DWord) : Bool := e.getLsbD 31

/-- A bound field as a value: a NaN is read as +∞ (R130, R232). -/
def bndValue (x : BitVec 31) : Fp :=
  match fp32.decode x.toNat with
  | .nan => .inf false
  | v => v

/-- arith (R130). -/
def bndArith (e : DWord) : Fp := bndValue (e.extractLsb' 0 31)

/-- inh (R130). -/
def bndInh (e : DWord) : Fp := bndValue (e.extractLsb' 32 31)

/-- RU_fp32 of a bound (R132). -/
def ru (x : Fp) : Fp := fp32.round .ru x

/-- The 31 bits of a bound. -/
def bndBits (x : Fp) : BitVec 31 := BitVec.ofNat 31 (fp32.pack .ru x)

/-- A bound register from its fields (R130). -/
def bndMake (sat ovf : Bool) (inh arith : Fp) : DWord :=
  BitVec.ofBool sat ++ bndBits inh ++ BitVec.ofBool ovf ++ bndBits arith

/-- The greater of two bounds; one that is no number stays so (R121). -/
def bndMax (a b : Fp) : Fp := if a.isNan || b.isNan then .nan else if Fp.cmp a b = .lt then b else a

/-- ex of R132: none for zero and for what is not finite. -/
def Fp.ex : Fp → Option Int
  | .fin _ m e => if m = 0 then none else some (if floorLog2 m 1 + e < -126 then -126 else floorLog2 m 1 + e)
  | _ => none

/-- maxex of R132 over the elements of a list. -/
def maxex (l : List Fp) : Option Int :=
  l.foldl (fun r x => match r, x.ex with
    | some a, some b => some (max a b)
    | none, e => e
    | a, none => a) none

/-- half of R132, with the 2^(E - 48) of R134 for MMA.W. -/
def half (wide : Bool) : Option Int → Fp
  | none => .fin false 0 0
  | some e => ru (.fin false 1 (e - if wide then 48 else 24))

/-- The K of an operand type (R225), none when it is not one. -/
def matK (ty : Nat) : Option Nat :=
  match ty with
  | 0x0C | 0x0D | 0x01 | 0x10 => some 128
  | 0x0E => some 256
  | 0x0A | 0x0B => some 32
  | 0x0F => some 64
  | _ => none

/-- Whether a type is complex (R225). -/
def isComplex (ty : Nat) : Bool := ty == 0x0F || ty == 0x10

/-- The columns of a B entry of a type (R225). -/
def bCols (ty : Nat) : Nat := if isComplex ty then 64 else 128

/-- The bits of an element of a type (R69). -/
def elemBits (ty : Nat) : Nat :=
  match ty with
  | 0x0E => 4
  | 0x0A | 0x0B | 0x0F => 16
  | _ => 8

/-- The rows of an entry and the elements of a row (R225). -/
def entryShape (isB : Bool) (ty : Nat) : Nat × Nat :=
  let k := (matK ty).getD 0
  if isB then (k, bCols ty) else (16, k)

/-- The bytes of a row of an entry (R247). -/
def rowBytesOf (isB : Bool) (ty : Nat) : Nat := (entryShape isB ty).2 * elemBits ty / 8

/-- The raw bits of element n of row r of an entry (R69, R225). -/
def FifoEntry.raw (e : FifoEntry) (r n : Nat) : Nat :=
  let ty := e.ty.toNat
  let bit := ((entryShape e.isB ty).2 * r + n) * elemBits ty
  let b (i : Nat) : Nat := (FMap.get (0 : Byte) e.data (bit / 8 + i)).toNat
  if elemBits ty = 16 then b 0 + 256 * b 1 else if elemBits ty = 8 then b 0 else b 0 / 2 ^ (bit % 8) % 16

/-- m of R125 for a row of an entry. -/
def FifoEntry.mag (e : FifoEntry) (r : Nat) : Fp := f64 (e.trip r).m

/-- The exact sum of a list of products (R126): that of no product is +0. -/
def fpSum : List Fp → Fp
  | [] => .fin false 0 0
  | x :: xs => xs.foldl (Fp.add false) x

/-- P of R126 for row i and column j. -/
def fpDot (f : Fmt) (k : Nat) (a b : FifoEntry) (i j : Nat) : Fp :=
  fpSum ((List.range k).map fun n => Fp.mul (f.decode (a.raw i n)) (f.decode (b.raw n j)))

/-- The inherited term of R133: the greatest over the rows. -/
def inhTerm (k : Nat) (a b : FifoEntry) : Fp :=
  (List.range 16).foldl (fun g i =>
    let ea := f32 (a.trip i).e
    let ma := a.mag i
    let eb := f32 (b.trip 0).e
    let mb := b.mag 0
    let t := ru (Fp.add false (ru (Fp.mul ea mb)) (ru (Fp.mul ma eb)))
    bndMax g (ru (Fp.mul (.fin false k 0) (ru (Fp.add false t (ru (Fp.mul ea eb))))))) (.fin false 0 0)

/-- Whether arith passes the threshold k (R133): never when k is 0. -/
def overThreshold (arith : Fp) (ea : Option Int) (k : Nat) : Bool :=
  k != 0 && Fp.cmp arith (.fin false 1 (ea.getD (-150) - k)) == .gt

/-- The bound register after a floating-point promotion (R133, R134): `scaled` and `acc` are the partials and the
elements after it. -/
def promoteBound (wide : Bool) (k : Nat) (a b : FifoEntry) (e : DWord) (thr : Nat) (scaled acc : List Fp) (finite : Bool) : DWord :=
  let es := maxex scaled
  let ea := maxex acc
  let sum := ru (Fp.add false (ru (Fp.add false (bndArith e) (half wide es))) (half wide ea))
  let arith := if finite then (if wide then ru (Fp.add false sum (.fin false 1 (-149))) else sum) else .inf false
  let inh := ru (Fp.add false (bndInh e) (inhTerm k a b))
  bndMake (e.getLsbD 63) (bndOvf e || overThreshold arith ea thr) inh arith

/-- The promotion of a floating-point quarter op by MMA (R126, R133). -/
def Group.promoteFp (g : Group) (f : Fmt) (k : Nat) (n : Nat) (a b : FifoEntry) : Group :=
  let sb := f32 (b.trip 0).s
  let t := g.tile n
  let xs := (List.range 2048).map fun e =>
    let sc := fp32.round .rn (Fp.mul (Fp.mul (fpDot f k a b (e / 128) (e % 128)) (f32 (a.trip (e / 128)).s)) sb)
    (sc, fp32.round .rn (Fp.add false (f32 (t.elem e)) sc))
  let finite := xs.all fun x => x.1.isFinite && x.2.isFinite
  (g.setTile n (tileOf fun e => toF32 .rn ((xs.getD e (.nan, .nan)).2))).setBnd n
    (promoteBound false k a b (g.bnd n) (g.threshold n).toNat (xs.map (·.1)) (xs.map (·.2)) finite)

/-- The promotion of a quarter op by MMA.W (R134): sum tile n, compensation tile n + 4. -/
def Group.promoteW (g : Group) (f : Fmt) (k : Nat) (n : Nat) (a b : FifoEntry) : Group :=
  let sb := f32 (b.trip 0).s
  let hi := g.tile n
  let lo := g.tile (n + 4)
  let xs := (List.range 2048).map fun e =>
    let sc := w48.round .rn (Fp.mul (Fp.mul (fpDot f k a b (e / 128) (e % 128)) (f32 (a.trip (e / 128)).s)) sb)
    let v := w48.round .rn (Fp.add false (Fp.add false (f32 (hi.elem e)) (f32 (lo.elem e))) sc)
    let h := fp32.round .rn v
    (sc, v, h, fp32.round .rn (Fp.add false v h.neg))
  let finite := xs.all fun x => x.1.isFinite && x.2.1.isFinite && x.2.2.1.isFinite
  let at_ (e : Nat) : Fp × Fp × Fp × Fp := xs.getD e (.nan, .nan, .nan, .nan)
  ((g.setTile n (tileOf fun e => toF32 .rn (at_ e).2.2.1)).setTile (n + 4) (tileOf fun e => toF32 .rn (at_ e).2.2.2)).setBnd n
    (promoteBound true k a b (g.bnd n) (g.threshold n).toNat (xs.map (·.1)) (xs.map (·.2.1)) finite)

/-- The low bits of a number as a signed integer. -/
def sextOf (bits v : Nat) : Int := if v % 2 ^ bits < 2 ^ (bits - 1) then (v % 2 ^ bits : Nat) else ((v % 2 ^ bits : Nat) : Int) - (2 ^ bits : Nat)

/-- The exact integer sum for tile column j of row i (R118, R129): for a complex type even columns are real parts. -/
def intDot (ty k : Nat) (a b : FifoEntry) (i j : Nat) : Int :=
  (List.range k).foldl (fun s n =>
    if isComplex ty then
      let w := elemBits ty / 2
      let x := a.raw i n
      let y := b.raw n (j / 2)
      let (xr, xi, yr, yi) := (sextOf w x, sextOf w (x / 2 ^ w), sextOf w y, sextOf w (y / 2 ^ w))
      s + (if j % 2 = 0 then xr * yr - xi * yi else xr * yi + xi * yr)
    else s + sextOf (elemBits ty) (a.raw i n) * sextOf (elemBits ty) (b.raw n j)) 0

/-- sat32 of R129. -/
def sat32 (v : Int) : Int := max (-2147483648) (min v 2147483647)

/-- The promotion of an integer or complex quarter op (R129). -/
def Group.promoteInt (g : Group) (ty k : Nat) (n : Nat) (a b : FifoEntry) : Group :=
  let t := g.tile n
  let xs := (List.range 2048).map fun e => (t.elem e).toInt + intDot ty k a b (e / 128) (e % 128)
  let sat := xs.any fun v => sat32 v != v
  (g.setTile n (tileOf fun e => BitVec.ofInt 32 (sat32 (xs.getD e 0)))).setBnd n
    (if sat then g.bnd n ||| (1#64 <<< 63) else g.bnd n)

/-- The promotion of a quarter op whose entry is not of its type (R328). -/
def Group.promoteBad (g : Group) (ty n : Nat) : Group :=
  g.setBnd n (g.bnd n ||| (1#64 <<< 31) ||| (if (fmtOf ty).isSome then 0#64 else 1#64 <<< 63))

/-- The promotion of a quarter op (R228, R328). That an entry of the other role, an A entry bound as B or a B entry as A, counts as one
that is not of the instruction's type is the model's choice (assumption log 84). -/
def Group.promote (g : Group) (op : QOp) (a b : FifoEntry) : Group :=
  let ty := op.ty.toNat
  let k := (matK ty).getD 0
  if a.ty.toNat ≠ ty ∨ b.ty.toNat ≠ ty ∨ a.isB = true ∨ b.isB = false then g.promoteBad ty op.tile
  else match fmtOf ty with
    | some f => if op.kind = .mmaW then g.promoteW f k op.tile a b else g.promoteFp f k op.tile a b
    | none => g.promoteInt ty k op.tile a b

/-- The exponent of the scale of R234 for a vector whose largest magnitude is given: 0 for a format without scales. -/
def scaleExp (f : Fmt) (amax : Fp) : Int :=
  if f ≠ e4m3 ∧ f ≠ e5m2 then 0
  else
    let (m, e) := f.largest
    match amax with
    | .fin _ a x =>
      if a = 0 then 0
      else
        let e0 := floorLog2 a 1 + x - (floorLog2 m 1 + e)
        max (if Fp.cmp (.fin false a x) (.fin false m (e + e0)) = .gt then e0 + 1 else e0) (-149)
    | _ => 0

/-- The largest magnitude among the elements that are no NaN (R234). -/
def amaxOf (xs : List Fp) : Fp := xs.foldl (fun m x => if x.isNan then m else if Fp.cmp m x.abs = .lt then x.abs else m) (.fin false 0 0)

/-- A value times a power of two. -/
def Fp.scale (x : Fp) (e : Int) : Fp :=
  match x with
  | .fin n m y => .fin n m (y + e)
  | v => v

/-- The conversion of a vector (R135, R234): the scale's exponent, the encodings, and conv. Each element comes with the
random word of its lane. -/
def convertVec (f : Fmt) (rm : BitVec 3) (xs : List (Fp × Nat)) : Int × List Nat × Fp :=
  let e := scaleExp f (amaxOf (xs.map (·.1)))
  let ys := xs.map fun (x, r) => f.pack (Rm.ofCode rm r) (x.scale (-e))
  let conv := (xs.zip ys).foldl (fun m ((x, _), y) =>
    match Fp.add false x ((f.decode y).scale e).neg with
    | .fin _ a z => if Fp.cmp m (.fin false a z) = .lt then .fin false a z else m
    | _ => .inf false) (.fin false 0 0)
  (e, ys, ru conv)

end Sys2Proof.Machine
end

