-- ==== Sys2Proof/Machine/Array.lean ====
section
/-! DEFINITION. The matrix queue and the array of a core: binding, passes and promotion (spec/11_isa_matrix.md R223, R226 to
R228; spec/18_traps.md R310, R312). -/

namespace Sys2Proof.Machine

/-- The tiles that a quarter op names (R223). -/
def QOp.tiles (o : QOp) : List Nat := if o.kind = .mmaW then [o.tile, o.tile + 4] else [o.tile]

/-- The stream of a FIFO of a block. -/
def Block.stream (b : Block) (f : Nat) : List FifoEntry := FMap.get [] b.fifos f

/-- Replaces the stream of a FIFO. -/
def Block.setStream (b : Block) (f : Nat) (l : List FifoEntry) : Block := { b with fifos := FMap.set [] b.fifos f l }

/-- Changes an entry of a FIFO; an entry whose use has ended leaves it (R227, R312). -/
def Block.onEntry (b : Block) (f id : Nat) (g : FifoEntry → FifoEntry) : Block :=
  b.setStream f (((b.stream f).map fun e => if e.id = id then g e else e).filter fun e =>
    !(e.present && e.spent) && !(e.count == 0 && e.bound == 0))

/-- Whether an earlier op of the same block waits on a FIFO (R226). -/
def waitsOn (ops : List QOp) (block f : Nat) : Bool :=
  ops.any fun o => o.block == block && ((o.a.isNone && o.fa == f) || (o.b.isNone && o.fb == f))

/-- The ops before an op in the matrix queue, in issue order. -/
def Core.opsBefore (c : Core) (id : Nat) : List QOp := c.mq.takeWhile fun o => o.id != id

/-- Changes an op of the matrix queue. -/
def Core.onOp (c : Core) (id : Nat) (f : QOp → QOp) : Core := { c with mq := c.mq.map fun o => if o.id = id then f o else o }

/-- Whether the bind position of a stream is past an entry (R226): it has been bound as an A entry, or its count is exhausted. -/
def FifoEntry.past (e : FifoEntry) : Bool := e.taken || e.count == 0

/-- The A entry that an op can bind now (R226): the next one of its FIFO that no op has bound, as its A or as its B entry. -/
def Core.nextA (c : Core) (o : QOp) : Option FifoEntry :=
  if o.a.isSome || waitsOn (c.opsBefore o.id) o.block o.fa then none
  else ((c.block o.block).stream o.fa).find? fun e => !e.past && !e.used

/-- The B entry that an op can bind now (R226): the one at the bind position, once it is present. -/
def Core.nextB (c : Core) (o : QOp) : Option FifoEntry :=
  if o.a.isNone || o.b.isSome || waitsOn (c.opsBefore o.id) o.block o.fb then none
  else (((c.block o.block).stream o.fb).find? fun e => !e.past).filter (·.present)

/-- Binds the A entry of an op (R226). -/
def Core.bindA (c : Core) (o : QOp) : Core :=
  match c.nextA o with
  | some e => (c.setBlock o.block ((c.block o.block).onEntry o.fa e.id fun e => { e with taken := true })).onOp o.id fun o => { o with a := some e.id }
  | none => c

/-- Binds the B entry of an op (R226): its count falls by one. -/
def Core.bindB (c : Core) (ck : Nat) (o : QOp) : Core :=
  match c.nextB o with
  | some e =>
    (c.setBlock o.block ((c.block o.block).onEntry o.fb e.id fun e => { e with count := e.count - 1, bound := e.bound + 1, used := true })).onOp o.id
      fun o => { o with b := some e.id, tb := ck }
  | none => c

/-- The op with a number. -/
def Core.op? (c : Core) (id : Nat) : Option QOp := c.mq.find? fun o => o.id == id

/-- Whether an op can bind an entry now. -/
def Core.canBind (c : Core) (o : QOp) : Bool := (c.nextA o).isSome || (c.nextB o).isSome

/-- Whether a partition's FIFOs on a core still wait for Chervil to save those of a context that has left (R59). -/
def State.fifosAway (s : State) (core part : Nat) : Bool :=
  (s.core core).sha.any fun (_, b) => b.live && b.part == part && (s.ctx b.ctx).res == .spilling

/-- QUARTER_BIND (R226): an op binds its A entry, and its B entry once that is present. -/
def execQuarterBind (s : State) : Answer :=
  match s.arg with
  | .num2 core id =>
    let c := s.core core
    match c.op? id with
    | some o =>
      if s.fifosAway core (c.block o.block).part then .next s
      else
        let c1 := c.bindA o
        .next (s.setCore core (match c1.op? id with
          | some o => c1.bindB (s.coreCk core) o
          | none => c1))
    | none => .next s
  | _ => .next s

/-- Whether an op may be in a pass that begins now (R223, R227, R310, R59): its entries are present, its group is not
frozen, its context is not leaving, no landing of its tiles is outstanding, and no earlier op names its tiles. -/
def Core.opReady (c : Core) (o : QOp) : Bool :=
  let b := c.block o.block
  let g := b.group o.group
  let present (f : Nat) (x : Option Nat) : Bool := match x with
    | some id => (b.stream f).any fun e => e.id == id && e.present
    | none => false
  !o.begun && b.live && !g.freeze && !c.preempt.contains b.ctx && present o.fa o.a && present o.fb o.b &&
    (o.tiles.all fun t => !g.pending.contains (.tile t)) &&
    !((c.opsBefore o.id).any fun p => p.block == o.block && p.group == o.group && p.tiles.any o.tiles.contains)

/-- The ops of the pass that could begin: the oldest ready op and its partners (R227). -/
def Core.form (c : Core) : List QOp :=
  match c.mq.filter c.opReady with
  | [] => []
  | o :: rest => o :: (rest.filter fun p => p.block == o.block && p.b == o.b && p.kind == o.kind && p.ty == o.ty && p.tb ≤ o.tb + 8).take 3

/-- Whether a pass begins (R227): the array is free and 64 rows are gathered or eight cycles have passed. -/
def Core.canStart (c : Core) (ck : Nat) : Bool :=
  c.pass.isNone && (match c.form with
    | [] => false
    | o :: rest => rest.length == 3 || decide (o.tb + 8 ≤ ck))

/-- Whether a core and its array issue in this cycle (R357). -/
def State.issueCycle (s : State) (core : Nat) : Bool := decide (s.coreCk core % 16 < 16 - s.level)

/-- PASS_START (R227, R357). -/
def execPassStart (s : State) : Answer :=
  match s.arg with
  | .num core =>
    let c := s.core core
    if s.issueCycle core && c.canStart (s.coreCk core) && !(c.form.any fun o => s.fifosAway core (c.block o.block).part) then
      let ids := c.form.map (·.id)
      let len := if c.form.any fun o => o.kind == .mmaW then 64 else 32
      .next (s.setCore core { c with
        mq := c.mq.map fun o => if ids.contains o.id then { o with begun := true } else o
        pass := some { ops := ids, stop := s.coreCk core + len } })
    else .next s
  | _ => .next s

/-- The entries of an op after it has ended (R227, R312): its A entry retires once it is present, and its B entry when
its count is 0 and no other op is bound to it. -/
def Block.releaseOp (b : Block) (o : QOp) : Block :=
  let b1 := match o.a with
    | some id => b.onEntry o.fa id fun e => { e with spent := true }
    | none => b
  match o.b with
  | some id => b1.onEntry o.fb id fun e => { e with bound := e.bound - 1 }
  | none => b1

/-- The promotion of an op of a pass, after which it leaves the queue (R227, R228). -/
def Core.promoteOp (c : Core) (id : Nat) : Core :=
  match c.op? id with
  | none => c
  | some o =>
    let c1 := { c with mq := c.mq.filter fun p => p.id != id }
    let b := c1.block o.block
    if b.live then
      let find (f : Nat) (x : Option Nat) : Option FifoEntry := x.bind fun id => (b.stream f).find? fun e => e.id == id
      let b1 := match find o.fa o.a, find o.fb o.b with
        | some ea, some eb => if (b.group o.group).live then b.setGroup o.group ((b.group o.group).promote o ea eb) else b
        | _, _ => b
      c1.setBlock o.block (b1.releaseOp o)
    else c1

/-- PASS_PROMOTE (R227, R228). -/
def execPassPromote (s : State) : Answer :=
  match s.arg with
  | .num core =>
    let c := s.core core
    match c.pass with
    | some p => if p.stop ≤ s.coreCk core then .next (s.setCore core { p.ops.foldl Core.promoteOp c with pass := none }) else .next s
    | none => .next s
  | _ => .next s

/-- Discards the ops of a group that have not begun (R312). -/
def Core.discardOps (c : Core) (block group : Nat) : Core :=
  let gone := c.mq.filter fun o => o.block == block && o.group == group && !o.begun
  let c1 := { c with mq := c.mq.filter fun o => !(o.block == block && o.group == group && !o.begun) }
  c1.setBlock block (gone.foldl Block.releaseOp (c1.block block))

/-- Whether a begun pass holds an op of a group (R310). -/
def Core.passHolds (c : Core) (block group : Nat) : Bool := c.mq.any fun o => o.begun && o.block == block && o.group == group

end Sys2Proof.Machine
end

