-- ==== Sys2Proof/Machine/Content.lean ====
section
/-! DEFINITION. The content store of a partition (spec/06_content_addressed.md R137 to R150; spec/21 R347 to R349; spec/19
R331). -/

namespace Sys2Proof.Machine

/-- A content line as its sixteen 64-bit words (R141). -/
abbrev CaLine := Vector DWord 16

/-- The line of 128 zero bytes. -/
def CaLine.zero : CaLine := Vector.replicate 16 0

/-- The digest field of a name (R140). -/
def nameDigest (n : DWord) : BitVec 52 := n.extractLsb' 12 52

/-- The chain index of a name (R140). -/
def nameIndex (n : DWord) : Nat := (n.extractLsb' 4 8).toNat

/-- The kind of a name (R140): 1 leaf line, 2 interior node. -/
def nameKind (n : DWord) : Nat := (n.extractLsb' 0 4).toNat

/-- The name of a stored entry (R140). -/
def CaEntry.name (e : CaEntry) : DWord := e.digest ++ BitVec.ofNat 8 e.index ++ BitVec.ofNat 4 e.kind

/-- The digest of a line of a kind (R141). -/
def caDigest (key : DWord) (kind : Nat) (l : CaLine) : BitVec 52 :=
  let h0 := key ^^^ (BitVec.ofNat 64 kind * 0x9E3779B97F4A7C15)
  let h1 := (List.range 16).foldl (fun (h : DWord) i =>
    ((h ^^^ ((l.toList.getD i 0) + BitVec.ofNat 64 i * 0xB7E151628AED2A6B)) * 0x9E3779B97F4A7C15).rotateLeft 23) h0
  let h2 := (h1 ^^^ (h1 >>> 31)) * 0xB7E151628AED2A6B
  (h2 ^^^ (h2 >>> 29)).extractLsb' 12 52

/-- The stored entry that a name names (R331): none when the name is empty or unusable. -/
def Part.entry? (p : Part) (n : DWord) : Option CaEntry :=
  p.cas.find? fun e => e.digest == nameDigest n && e.index == nameIndex n && e.kind == nameKind n

/-- Whether a name is usable (R331). -/
def Part.usable (p : Part) (n : DWord) : Bool := n == 0 || (p.entry? n).isSome

/-- What a read of the content store finds: a line, or an entry that is poisoned (R349). -/
inductive CaFound where
  | line (l : CaLine)
  | poisoned (name : DWord)
  deriving DecidableEq, Repr

/-- Whether a stored entry is poisoned (R349): its own mark, or that of the line of memory that holds it (R137, R342, R355),
which `bad` tells. -/
def CaEntry.bad (e : CaEntry) (bad : Nat → Bool) : Bool := e.poisoned || e.place.any bad

/-- The line under a name of a kind: zeros for the empty name, and for an unusable name or one of the wrong kind (R331). -/
def Part.lineOf (p : Part) (bad : Nat → Bool) (n : DWord) (kind : Nat) : CaFound :=
  match p.entry? n with
  | some e => if e.kind ≠ kind then .line CaLine.zero else if e.bad bad then .poisoned n else .line e.line
  | none => .line CaLine.zero

/-- The line that CAGET reads: of either kind (R254). -/
def Part.lineAny (p : Part) (bad : Nat → Bool) (n : DWord) : CaFound :=
  match p.entry? n with
  | some e => if e.bad bad then .poisoned n else .line e.line
  | none => .line CaLine.zero

/-- The number of lines of an extent (R146). -/
def treeLines (extent : Nat) : Nat := (extent + 127) / 128

/-- The depth of a tree of `n` lines (R146): the least d with 16^d at least n. An extent has 40 bits, so 9 levels
suffice. -/
def treeDepth (n : Nat) : Nat := ((List.range 10).find? fun d => n ≤ 16 ^ d).getD 10

/-- What a walk by digits finds: the name it reaches, or a poisoned node. -/
inductive CaName where
  | name (n : DWord)
  | poisoned (n : DWord)
  deriving DecidableEq, Repr

/-- The walk from a node over the digits of line `j`, most significant first: `k` digits are taken, the first at level
`level` - 1 (R146, R254). A name that is unusable or not a node leads to the empty name (R331). -/
def Part.descend (p : Part) (bad : Nat → Bool) (j : Nat) : Nat → Nat → DWord → CaName
  | 0, _, node => .name node
  | k + 1, level, node =>
    if node = 0 then .name 0
    else match p.lineOf bad node 2 with
      | .poisoned n => .poisoned n
      | .line l => p.descend bad j k (level - 1) (l.toList.getD (j / 16 ^ (level - 1) % 16) 0)

/-- What a walk that reaches a name gives (R331, R349): the empty name for a name that is not usable or not of the kind that
stands there, a leaf at the bottom and a node above it. -/
def Part.reach (p : Part) (bad : Nat → Bool) (kind : Nat) (n : DWord) : CaName :=
  match p.entry? n with
  | some e => if e.kind ≠ kind then .name 0 else if e.bad bad then .poisoned n else .name n
  | none => .name 0

/-- The name that CAWALK gives (R254, R331): `k` digits of `j` are taken in a tree of depth `d`. -/
def Part.walkName (p : Part) (bad : Nat → Bool) (root : DWord) (d k j : Nat) : CaName :=
  match p.descend bad j k d root with
  | .poisoned n => .poisoned n
  | .name n => p.reach bad (if k < d then 2 else 1) n

/-- The line of a tree under a root (R146). -/
def Part.treeLine (p : Part) (bad : Nat → Bool) (root : DWord) (extent j : Nat) : CaFound :=
  let d := treeDepth (treeLines extent)
  match p.descend bad j d d root with
  | .poisoned n => .poisoned n
  | .name n => if n = 0 then .line CaLine.zero else p.lineOf bad n 1

/-- The names that a walk over `k` digits passes, the one that it reaches last (R145, R146). -/
def Part.path (p : Part) (j : Nat) : Nat → Nat → DWord → List DWord
  | 0, _, node => [node]
  | k + 1, level, node =>
    match p.entry? node with
    | some e => node :: p.path j k (level - 1) (e.line.toList.getD (j / 16 ^ (level - 1) % 16) 0)
    | none => [node]

/-- A walk is cached at L2 (R147): the entries that it passes through keep their chain indices until the drop (R145). That the L2 drops no
cached walk by itself, before Lovage or CARESET does, is the model's choice (assumption log 85). -/
def Part.cacheWalk (p : Part) (names : List DWord) : Part :=
  { p with cas := p.cas.map fun e => if names.contains e.name then { e with walked := true } else e }

/-- Byte `i` of a content line (R3). -/
def CaLine.byte (l : CaLine) (i : Nat) : Byte := byteOf (l.toList.getD (i / 8) 0) (i % 8)

/-- The content line that 128 bytes make. -/
def caLineOf (f : Nat → Byte) : CaLine :=
  Vector.ofFn fun i => BitVec.ofNat 64 (ofBytes ((List.range 8).map fun k => f (8 * i.val + k)))

/-- The largest count, which stays (R144). -/
def caMax : Nat := 0xFFFFFF

/-- Raises the count of a name's entry (R142, R144, R348): the first saturation counts in CASAT; an unusable name has
no count. -/
def Part.inc (p : Part) (n : DWord) : Part :=
  match p.entry? n with
  | none => p
  | some e =>
    if e.count = caMax then p
    else { p with cas := p.cas.map fun x => if x.name = e.name then { x with count := x.count + 1 } else x,
                  casat := if e.count + 1 = caMax then satAdd p.casat 0xFFFFFFFF else p.casat }

/-- Lowers the count of a name's entry (R144, R145, R148): at 0 the entry leaves its chain and waits for Lovage. -/
def Part.dec (p : Part) (n : DWord) : Part :=
  match p.entry? n with
  | none => p
  | some e =>
    if e.count = caMax then p
    else if e.count ≤ 1 then
      { p with cas := p.cas.filter fun x => x.name != e.name, dying := p.dying ++ [{ e with count := 0 }] }
    else { p with cas := p.cas.map fun x => if x.name = e.name then { x with count := x.count - 1 } else x }

/-- Lovage frees the oldest waiting entry (R145, R349), and the walks cached through it are dropped: a node that is not
poisoned lowers each non-empty child. That of several the one that has waited longest goes first is the model's choice (assumption
log 94). -/
def Part.reclaim (p : Part) (bad : Nat → Bool) : Part :=
  match p.dying with
  | [] => p
  | e :: rest =>
    let p1 := { p with dying := rest }
    if e.kind = 2 ∧ e.bad bad = false then (e.line.toList.filter (· != 0)).foldl Part.dec p1 else p1

/-- The chain indices of a digest that are in use, or await Lovage's drop of the walks that are cached through their entry
(R142, R145): without such a walk an index is free at once. -/
def Part.taken (p : Part) (d : BitVec 52) : List Nat :=
  ((p.cas ++ p.dying.filter (·.walked)).filter fun e => e.digest == d).map (·.index)

/-- The lines of the registered frames, in the order in which they were registered (R137). -/
def Part.lines (p : Part) : List Nat := p.frames.flatMap fun f => (List.range 512).map fun i => 65536 * f + 128 * i

/-- The first line of the frames that holds no entry and is not poisoned. -/
def Part.freeLine (p : Part) (bad : Nat → Bool) : Option Nat :=
  p.lines.find? fun a => !bad a && !(p.cas ++ p.dying).any fun e => e.place == some a

/-- insert of R142 with its status (R253, R331, R347): the partition after it, the name and the status. -/
def Part.insert (p : Part) (bad : Nat → Bool) (kind : Nat) (l : CaLine) : Part × DWord × Nat :=
  if l = CaLine.zero then (p, 0, 2)
  else if kind = 2 ∧ (l.toList.all p.usable) = false then (p, 0, 4)
  else
    let d := caDigest p.cakey kind l
    match (List.range 256).findSome? fun i => p.cas.find? fun e =>
        e.digest == d && e.index == i && e.kind == kind && !e.bad bad && e.line == l with
    | some e => (p.inc e.name, e.name, 1)
    | none =>
      match (List.range 256).find? fun i => !(p.taken d).contains i with
      | none => ({ p with cafull := satAdd p.cafull 0xFFFFFFFF }, 0, 3)
      | some i =>
        let e : CaEntry := { digest := d, index := i, kind := kind, line := l, count := 1, poisoned := false, place := p.freeLine bad }
        let p1 := { p with cas := p.cas ++ [e] }
        let p2 := if kind = 2 then (l.toList.filter (· != 0)).foldl Part.inc p1 else p1
        (p2, e.name, 0)

/-- CARESET (R139): every entry and pending reclaim goes, and the three counts return to 0. -/
def Part.careset (p : Part) : Part := { p with cas := [], dying := [], casat := 0, cafull := 0, capois := 0 }

/-- A partition after lines of memory have come to be poisoned, as `bad` tells (R349): CAPOIS counts the first poisoning of each stored
entry. -/
def Part.notePoison (p : Part) (bad : Nat → Bool) : Part :=
  { p with
    cas := p.cas.map fun e => if e.bad bad then { e with counted := true } else e
    capois := (p.cas.filter fun e => e.bad bad && !e.counted).foldl (fun n _ => satAdd n 0xFFFFFFFF) p.capois }

/-- A stored entry is poisoned (R349). -/
def Part.poisonEntry (p : Part) (n : DWord) : Part :=
  match p.entry? n with
  | none => p
  | some e =>
    { p with cas := p.cas.map fun x => if x.name = e.name then { x with poisoned := true, counted := true } else x,
             capois := if e.counted then p.capois else satAdd p.capois 0xFFFFFFFF }

end Sys2Proof.Machine
end

