-- ==== Sys2Proof/Machine/Record.lean ====
section
/-! DEFINITION. Buffer records and the accesses formed from them (spec/03_memory.md R66 to R70, R84, R86; spec/10 R203;
spec/19 R325). -/

namespace Sys2Proof.Machine

/-- A buffer record (R67). -/
abbrev BufRec := BitVec 256

/-- The base of a record (R67). -/
def recBase (r : BufRec) : DWord := r.extractLsb' 0 64

/-- The extent in bytes (R67). -/
def recExtent (r : BufRec) : Nat := (r.extractLsb' 64 40).toNat

/-- Stride one, signed bytes (R67). -/
def recStride1 (r : BufRec) : Int := (r.extractLsb' 104 24).toInt

/-- Stride two, signed bytes (R67). -/
def recStride2 (r : BufRec) : Int := (r.extractLsb' 128 24).toInt

/-- The element format code (R69). -/
def recFormat (r : BufRec) : Nat := (r.extractLsb' 152 8).toNat

/-- The event-vector bit (R67). -/
def recEvent (r : BufRec) : Nat := (r.extractLsb' 176 8).toNat

/-- The use count of the counted policy (R67). -/
def recUses (r : BufRec) : Nat := (r.extractLsb' 170 6).toNat

/-- The cache policy; the reserved codes are treated as normal (R67). -/
def recPolicy (r : BufRec) : Nat := let p := (r.extractLsb' 166 4).toNat; if p < 4 then p else 0

/-- The scale-array offset in 16 B units (R67). -/
def recScales (r : BufRec) : Nat := (r.extractLsb' 192 32).toNat

/-- The bound-sidecar offset in 16 B units (R67). -/
def recSidecar (r : BufRec) : Nat := (r.extractLsb' 224 32).toNat

/-- The address space (R66). -/
def recSpace (r : BufRec) : Space :=
  match (r.extractLsb' 163 3).toNat with
  | 0 => .global
  | 1 => .block
  | 2 => .gang
  | 3 => .weight
  | 4 => .tree
  | 5 => .peer
  | _ => .reserved

/-- The bounds-check modes (R67). -/
inductive BoundsMode where
  | none | trap | clamp | zero
  deriving DecidableEq, Repr

/-- The bounds-check mode; codes 4 to 7 are treated as trap (R67). -/
def recMode (r : BufRec) : BoundsMode :=
  match (r.extractLsb' 160 3).toNat with
  | 0 => .none
  | 2 => .clamp
  | 3 => .zero
  | _ => .trap

/-- The byte offset that a lane's offset register gives (R68). -/
def laneOffset (r : BufRec) (x : Word) (e : Bool) : Int :=
  if e then (x.toNat : Int) * recStride1 r + ((x.toNat : Int) + 1) * recStride2 r else x.toNat

/-- What access formation gives (R68): an offset from the base, nothing, or the bounds trap. -/
inductive Spot where
  | at (off : Int)
  | dropped
  | bounds
  deriving DecidableEq, Repr

/-- The bounds check of an offset (R68). -/
def checkBounds (r : BufRec) (off : Int) (size : Nat) : Spot :=
  if recMode r = .none ∨ (0 ≤ off ∧ off + size ≤ recExtent r) then .at off
  else if recMode r = .clamp ∧ size ≤ recExtent r then .at (min (max off 0) (recExtent r - size : Nat))
  else if recMode r = .clamp ∨ recMode r = .zero then .dropped
  else .bounds

/-- access of R68. -/
def accessOf (r : BufRec) (x : Word) (e : Bool) (size : Nat) : Spot := checkBounds r (laneOffset r x e) size

/-- The address of an offset, which wraps at 64 bits (R68). -/
def addrOf (r : BufRec) (off : Int) : DWord := recBase r + BitVec.ofInt 64 off

/-- The fate "mode" (R320): a lane is treated as failing R68. -/
def modeFate (r : BufRec) : Spot := if recMode r = .trap then .bounds else .dropped

/-- Where an access of a lane goes: bytes of a block's scratchpad, an address in a space that requests reach, a
scratchpad that has left its bank (R60), nowhere, or the bounds trap. -/
inductive Tgt where
  | scratch (core block a : Nat)
  | line (sp : Space) (va : DWord)
  | away
  | drop
  | bounds
  deriving DecidableEq, Repr

/-- The target of a spot that leads nowhere. -/
def Spot.dead : Spot → Tgt
  | .bounds => .bounds
  | _ => .drop

/-- The bytes of a block's allocation (R81). -/
def Block.alloc (b : Block) : Nat := b.g * b.sp * 128

/-- Whether a weight-store segment is granted to a partition (R86). -/
def State.segGranted (s : State) (part seg : Nat) : Bool := (s.part part).segs.getLsbD seg

/-- Whether bytes of the weight store lie in segments of a partition (R86). -/
def State.segsOk (s : State) (part a n : Nat) : Bool :=
  decide (a + n ≤ 2 ^ 32) && (List.range ((a + n - 1) / 2 ^ 25 - a / 2 ^ 25 + 1)).all fun i => s.segGranted part (a / 2 ^ 25 + i)

/-- Whether a block of a gang has left its core's active bank with its context (R60). -/
def State.swapped (s : State) (gang core block ctx : Nat) : Bool :=
  (let b := FMap.get Block.empty (s.core core).sha block; b.live && b.gang == gang) ||
    (((s.ctx ctx).image.getD []).any fun sc => sc.core == core && (FMap.get Block.empty sc.blocks block).gang == gang)

/-- The target of a gang-window address (R84, R70). -/
def State.gangTarget (s : State) (bl : Block) (r : BufRec) (a size : Nat) : Tgt :=
  let i := a / 2 ^ 18
  match (s.gang bl.gang).blocks[i]? with
  | some (core, block) =>
    let t := s.block core block
    if t.live && t.gang == bl.gang then
      (if a % 2 ^ 18 + size ≤ t.alloc then .scratch core block (a % 2 ^ 18) else (modeFate r).dead)
    else if s.swapped bl.gang core block bl.ctx then .away
    else (modeFate r).dead
  | none => (modeFate r).dead

/-- The target of an offset that has passed R68 (R66, R70, R84, R86, R325). -/
def State.targetAt (s : State) (w : Who) (r : BufRec) (off : Int) (size : Nat) : Tgt :=
  let bl := s.blk w
  let a := (addrOf r off).toNat
  match recSpace r with
  | .block => if a + size ≤ bl.alloc then .scratch w.core w.block a else (modeFate r).dead
  | .gang => s.gangTarget bl r a size
  | .weight => if bl.wsr && s.segsOk bl.part a size then .line .weight (addrOf r off) else (modeFate r).dead
  | .tree => .line .tree (BitVec.ofInt 64 off)
  | .reserved => (modeFate r).dead
  | sp => .line sp (addrOf r off)

/-- The target of a lane's access (R68, R203): through a record of a reserved space every lane has the fate "mode"
(R325). -/
def State.target (s : State) (w : Who) (r : BufRec) (x : Word) (e : Bool) (size : Nat) : Tgt :=
  if recSpace r = .reserved then (modeFate r).dead
  else match accessOf r x e size with
    | .at off => s.targetAt w r off size
    | .dropped => .drop
    | .bounds => .bounds

/-- The target of a spot (R68, R70, R325). -/
def State.spotTarget (s : State) (w : Who) (r : BufRec) (size : Nat) : Spot → Tgt
  | .at off => if recSpace r = .reserved then (modeFate r).dead else s.targetAt w r off size
  | .dropped => if recSpace r = .reserved then (modeFate r).dead else .drop
  | .bounds => .bounds

/-- Whether a target is reached. -/
def Tgt.reached (t : Tgt) : Bool := match t with
  | .scratch _ _ _ | .line _ _ => true
  | _ => false

/-- Bytes of a block's scratchpad (R81). -/
def Block.bytes (b : Block) (a n : Nat) : List Byte := (List.range n).map fun i => FMap.get 0 b.scratch (a + i)

/-- Writes bytes of a block's scratchpad. -/
def Block.store (b : Block) (a : Nat) (bs : List Byte) : Block :=
  { b with scratch := bs.zipIdx.foldl (fun m (v, i) => FMap.set 0 m (a + i) v) b.scratch }

/-- The granules that bytes overlap (R81, R208). -/
def granules (a n : Nat) : List Nat := (List.range ((a + n - 1) / 16 - a / 16 + 1)).map (· + a / 16)

/-- Whether a granule is full (R81). -/
def Block.full (b : Block) (g : Nat) : Bool := FMap.get false b.fe g

/-- Sets granules full or empty (R82). -/
def Block.mark (b : Block) (gs : List Nat) (full : Bool) : Block :=
  { b with fe := gs.foldl (fun m g => FMap.set false m g full) b.fe }

/-- The number that a lane's bytes of a tree record fall in, and where: line and offset (R147). -/
def treeLine (off : DWord) : Nat × Nat := (off.toNat / 128, off.toNat % 128)

end Sys2Proof.Machine
end

