-- ==== Sys2Proof/Machine/Page.lean ====
section
/-! DEFINITION. Page tables and walks (spec/03_memory.md R71 to R76; spec/16_parking.md R278, R280). -/

namespace Sys2Proof.Machine

/-- What a request needs of a leaf (R278). -/
inductive Need where
  | read | write | both | fetch
  deriving DecidableEq, Repr

/-- The cause that a leaf's permissions give (R278): the lowest code when several apply. -/
def permitCause (n : Need) (e : DWord) : Option Nat :=
  match n with
  | .read => if pteBit e 52 then none else some 1
  | .write => if pteBit e 53 then none else some 2
  | .both => if !pteBit e 52 then some 1 else if !pteBit e 53 then some 2 else none
  | .fetch => if pteBit e 54 then none else some 3

/-- Whether a need sets the dirty bit (R73). -/
def Need.dirties : Need → Bool
  | .write | .both => true
  | _ => false

/-- The classes that a request reaches (R74): the peer classes for the system/peer space, else ordinary memory; the walk
of an atomic also ends at an MMIO page, which the core or Sorrel then treats (R301). -/
def reaches (peer atom : Bool) (cls : Nat) : Bool :=
  (if peer then cls == 2 || cls == 3 || cls == 4 else cls == 0) || (atom && cls == 4)

/-- What a translation gives: the physical address, class and tier with the leaf, or a cause (R278). -/
inductive Trans where
  | ok (pa cls tier level at_ : Nat) (e : DWord)
  | fail (cause level : Nat) (e : DWord)
  deriving DecidableEq, Repr

/-- The translation of an address under the current tables (R71 to R74, R278). -/
def State.translate (s : State) (ctx : Nat) (va : DWord) (n : Need) (peer atom : Bool) : Trans :=
  match s.walk ctx va with
  | .stop c l e => .fail c l e
  | .leaf l at_ e =>
    match permitCause n e with
    | some c => .fail c l e
    | none =>
      if reaches peer atom (pteClass e) then .ok (pteAddr e + va57 va % levelSize l) (pteClass e) (pteTier e) l at_ e
      else .fail 7 l e

/-- The update of a leaf: a is set, and d for a need that dirties (R73). -/
def usedLeaf (n : Need) (e : DWord) : DWord := e ||| (1#64 <<< 56) ||| (if n.dirties then 1#64 <<< 55 else 0)

/-- Writes a 64-bit word of memory. -/
def Memory.write64 (m : Memory) (a : Nat) (v : DWord) : Memory := m.writeAll (at_ a (bytesOf v 8))

/-- Adds a translation to a core's TLB, which holds 2,048 (R75); the oldest goes. -/
def Core.fill (c : Core) (t : TlbEntry) : Core := { c with tlb := (t :: c.tlb).take 2048 }

/-- The TLB entry of a leaf (R75). -/
def tlbOf (ctx level : Nat) (va : DWord) (e : DWord) : TlbEntry :=
  { ctx := ctx, va := va57 va / levelSize level * levelSize level, size := levelSize level, pa := pteAddr e,
    cls := pteClass e, tier := pteTier e, x := pteBit e 54, w := pteBit e 53, rd := pteBit e 52, d := pteBit e 55 }

/-- Whether the slice of a line has room for a further keep line: a quarter of its 65,536 lines (R77, R78). -/
def State.keepRoom (s : State) (n : Nat) : Bool :=
  decide ((s.l2.filter fun e => e.2.policy == 2).length < 16384) ||
    decide ((s.l2.filter fun e => e.2.policy == 2 && Config.homeSlice e.1 == Config.homeSlice n).length < 16384)

/-- The order in which lines are replaced (R78): streaming lines first and keep lines last. -/
def Cached.rank (c : Cached) : Nat := if c.policy = 1 then 0 else if c.policy = 2 then 2 else 1

/-- The line that a full slice gives up for another: the first of the lowest rank (R77, R78; assumption log 27). -/
def State.victim (s : State) (n : Nat) : Option Nat :=
  if s.l2.length < 65536 then none
  else
    let held := s.l2.filter fun e => Config.homeSlice e.1 == Config.homeSlice n
    if held.length < 65536 then none
    else (((held.find? fun e => e.2.rank == 0).or (held.find? fun e => e.2.rank == 1)).or held.head?).map (·.1)

/-- Places a line at its home slice (R78, R79): a keep line beyond the quarter is a normal one. -/
def State.placeL2 (s : State) (n : Nat) (c : Cached) : State :=
  let l := match s.victim n with
    | some v => FMap.erase s.l2 v
    | none => s.l2
  { s with l2 := FMap.put l n (if c.policy = 2 ∧ s.keepRoom n = false then { policy := 0, uses := 0 } else c) }

/-- A line that a core's access brings in enters its L1 under the policies normal and keep (R77, R78). -/
def State.placeL1 (s : State) (core : Option Nat) (n policy : Nat) : State :=
  match core with
  | some k =>
    if policy = 0 ∨ policy = 2 then s.setCore k { s.core k with l1 := (n :: (s.core k).l1.filter (· != n)).take 2048 } else s
  | none => s

/-- Whether a core's L1 holds a line. -/
def State.hitsL1 (s : State) (core : Option Nat) (n : Nat) : Bool := core.any fun k => (s.core k).l1.contains n

/-- The account of a read at the caches (R77 to R79): a line that the L1 holds does not reach the home slice; there a counted
line's count falls and the line goes when it was 0, and a line that is not held is placed by the record's policy. A counted read with
a use count of 0, or of a line that the slice holds, is served as normal (R79). -/
def State.readL2 (s : State) (core : Option Nat) (pa policy uses : Nat) : State :=
  let n := lineOf pa
  if s.hitsL1 core n then s
  else
    let held := (s.l2.find? fun e => e.1 == n).map (·.2)
    let as_ := if policy = 3 ∧ (uses = 0 ∨ held.isSome = true) then 0 else policy
    let t := s.placeL1 core n as_
    match held with
    | some c =>
      if c.policy = 3 then { t with l2 := if c.uses = 0 then FMap.erase s.l2 n else FMap.put s.l2 n { c with uses := c.uses - 1 } } else t
    | none => t.placeL2 n { policy := as_, uses := if as_ = 3 then uses - 1 else 0 }

/-- The account of a write or an atomic at the caches (R78, R79, R207): a counted line is then kept as normal, and a line that is
not held is placed by the record's policy, a counted one as normal. -/
def State.writeL2 (s : State) (core : Option Nat) (pa policy : Nat) : State :=
  let n := lineOf pa
  let t := s.placeL1 core n policy
  match s.l2.find? fun e => e.1 == n with
  | some (_, c) => if c.policy = 3 then { t with l2 := FMap.put s.l2 n { policy := 0, uses := 0 } } else t
  | none => t.placeL2 n { policy := if policy = 3 then 0 else policy, uses := 0 }

/-- The walk of an access that succeeds: the leaf's bits are set with an atomic OR at its home slice, and the translation fills the TLB
of a core when one is named (R73, R75, R79). -/
def State.fillWalk (s : State) (core : Option Nat) (ctx : Nat) (va : DWord) (n : Need) (level at_ : Nat) (e : DWord) : State :=
  let e' := usedLeaf n e
  let s1 := { s.writeL2 none at_ 0 with mem := s.mem.write64 at_ e' }
  match core with
  | some c => s1.setCore c ((s1.core c).fill (tlbOf ctx level va e'))
  | none => s1

/-- The 64 KiB granule of an address (R279). -/
def granuleOf (va : DWord) : Nat := va57 va / 65536

/-- The slice at which the requests of a context to a granule park (R279). -/
def parkSlice (ctx : Nat) (va : DWord) : Nat :=
  ((va.extractLsb' 16 7).toNat ^^^ (va.extractLsb' 23 7).toNat ^^^ (va.extractLsb' 30 7).toNat ^^^
    (va.extractLsb' 37 7).toNat ^^^ (va.extractLsb' 44 7).toNat ^^^ (ctx % 128))

/-- Whether a TLB entry overlaps a range of a context's addresses. -/
def TlbEntry.meets (t : TlbEntry) (ctx lo hi : Nat) : Bool := t.ctx == ctx && t.va < hi && lo < t.va + t.size

/-- Drops from every TLB the translations of a context that overlap a range (R76, R280). -/
def State.dropTlbs (s : State) (ctx lo hi : Nat) : State :=
  { s with cores := s.cores.map fun (n, c) => (n, { c with tlb := c.tlb.filter fun t => !t.meets ctx lo hi }) }

/-- The range of addresses that a page count names from an address on: all of them for a count of 0 (R264, R333). -/
def shootRange (va : DWord) (count : Nat) : Nat × Nat :=
  if count = 0 then (0, 2 ^ 57) else (va57 va, va57 va + 65536 * count)

/-- SHOOT (R76): the generation grows by one, no TLB holds a named translation, and requests that hold a translation
of the range walk again. -/
def State.shoot (s : State) (ctx lo hi : Nat) : State :=
  let x := s.ctx ctx
  let s1 := (s.setCtx ctx { x with tgen := x.tgen + 1 }).dropTlbs ctx lo hi
  { s1 with reqs := s1.reqs.map fun r =>
      match r.st with
      | .mapped _ _ _ =>
        if r.ctx = ctx ∧ (r.space = .global ∨ r.space = .peer) ∧ va57 r.va + 128 > lo ∧ va57 r.va < hi then { r with st := .needWalk } else r
      | _ => r }

end Sys2Proof.Machine
end

