-- ==== Sys2Proof/Machine/Save.lean ====
section
/-! DEFINITION. The layout of a context's save area (spec/18_traps.md R313 to R316): what Chervil writes there and what
it reads back. The bytes whose places within a section spec/ leaves open are laid out by the model (assumption log 15). -/

namespace Sys2Proof.Machine

/-- A field of a fixed place in a record: its first byte, its size, and how it is read from and put into an object. -/
structure SaveField (α : Type) where
  off : Nat
  n : Nat
  get : α → Nat
  set : α → Nat → α

/-- The bytes of a number, the least significant first (R3). -/
def natBytes (v n : Nat) : List Byte := (List.range n).map fun i => BitVec.ofNat 8 (v / 256 ^ i)

/-- The writes of the fields of an object at a base. -/
def saveFields {α : Type} (fs : List (SaveField α)) (base : Nat) (x : α) : List (Nat × Byte) :=
  fs.flatMap fun f => at_ (base + f.off) (natBytes (f.get x) f.n)

/-- An object with the fields that memory holds at a base. -/
def loadFields {α : Type} (fs : List (SaveField α)) (m : Memory) (base : Nat) (x : α) : α :=
  fs.foldl (fun y f => f.set y (ofBytes (m.readN (base + f.off) f.n))) x

/-- The PC of the topmost trap entry (R305): 0 when there is none. -/
def Group.xpc (g : Group) : DWord :=
  match g.stack.find? (·.trap) with
  | some e => e.pc
  | none => 0

/-- A trap entry with its PC written (R305): another address is that of another instruction, of which nothing is kept. -/
def StackEntry.goTo (e : StackEntry) (pc : DWord) : StackEntry :=
  if pc = e.pc then e else { e with pc := pc, got := 0, walks := none, snap := none }

/-- Writes the PC of the topmost trap entry; ignored when there is none (R305). -/
def setTopTrap (f : DWord → DWord) : List StackEntry → List StackEntry
  | [] => []
  | e :: rest => if e.trap then e.goTo (f e.pc) :: rest else e :: setTopTrap f rest

/-- The fixed fields of a group control record (R315), but for the splits and the stack. -/
def groupFields : List (SaveField Group) :=
  [⟨0, 1, fun g => g.rf.wbase, fun g v => { g with rf := { g.rf with wbase := v % 32 } }⟩,
   ⟨4, 8, fun g => g.jobs, fun g v => { g with jobs := v }⟩,
   ⟨544, 4, fun g => g.xcause.toNat, fun g v => { g with xcause := BitVec.ofNat 32 v }⟩,
   ⟨548, 4, fun g => g.xinfo.toNat, fun g v => { g with xinfo := BitVec.ofNat 32 v }⟩,
   ⟨552, 4, fun g => g.xmask.toNat, fun g v => { g with xmask := BitVec.ofNat 32 v }⟩,
   ⟨556, 8, fun g => g.xpc.toNat, fun g v =>
      if BitVec.ofNat 64 v = g.xpc then g else { g with stack := setTopTrap (fun _ => BitVec.ofNat 64 v) g.stack }⟩,
   ⟨564, 4, fun g => g.freeze.toNat, fun g v => { g with freeze := v % 2 == 1 }⟩,
   ⟨568, 4, fun g => g.uien.toNat, fun g v => { g with uien := BitVec.ofNat 8 v }⟩,
   ⟨572, 4, fun g => g.uipend.toNat, fun g v => { g with uipend := BitVec.ofNat 8 v }⟩] ++
  (List.range 8).map (fun i =>
    ⟨448 + 4 * i, 4, fun g => (g.rf.p.toList.getD i 0).toNat,
     fun g v => { g with rf := { g.rf with p := Vector.ofFn fun j => if j.val = i then BitVec.ofNat 32 v else g.rf.p[j.val] } }⟩) ++
  (List.range 16).map (fun i =>
    ⟨480 + 4 * i, 4, fun g => (g.rf.s.toList.getD i 0).toNat,
     fun g v => { g with rf := { g.rf with s := Vector.ofFn fun j => if j.val = i then BitVec.ofNat 32 v else g.rf.s[j.val] } }⟩) ++
  (List.range 32).map (fun l =>
    ⟨640 + 4 * l, 4, fun g => (g.gen.lane l).toNat,
     fun g v => { g with gen := Row.make fun j => if j = l then BitVec.ofNat 32 v else g.gen.lane j }⟩) ++
  (List.range 32).map (fun n =>
    ⟨1024 + 32 * n, 32, fun g => (FMap.get (0 : BitVec 256) g.rf.k n).toNat,
     fun g v => { g with rf := g.rf.writeRec (BitVec.ofNat 5 n) (BitVec.ofNat 256 v) }⟩)

/-- The fields of a split in a group control record (R315). -/
def splitFields : List (SaveField Split) :=
  [⟨0, 8, fun p => p.pc.toNat, fun p v => { p with pc := BitVec.ofNat 64 v }⟩,
   ⟨8, 4, fun p => p.mask.toNat, fun p v => { p with mask := BitVec.ofNat 32 v }⟩,
   ⟨12, 2, fun p => p.age % 65536, fun p v => { p with age := p.age / 65536 * 65536 + v }⟩,
   ⟨14, 1, fun p => p.depth, fun p v => { p with depth := v }⟩]

/-- The fields of a stack entry in a group control record (R315). -/
def stackFields : List (SaveField StackEntry) :=
  [⟨0, 8, fun e => e.pc.toNat, fun e v => { e with pc := BitVec.ofNat 64 v }⟩,
   ⟨8, 4, fun e => e.mask.toNat, fun e v => { e with mask := BitVec.ofNat 32 v }⟩,
   ⟨12, 1, fun e => e.trap.toNat, fun e v => { e with trap := v % 2 == 1 }⟩]

/-- A destination as the destination row of a scoreboard entry: the number of a lane row, and for a place of another kind its
number with the kind in the top byte (assumption log 15). -/
def Loc.code : Loc → Nat
  | .row n => n
  | .pred n => 2 ^ 24 + n
  | .s n => 2 * 2 ^ 24 + n
  | .slot n => 3 * 2 ^ 24 + n
  | .tile n => 4 * 2 ^ 24 + n

/-- The destination that a destination row names. -/
def Loc.ofCode (v : Nat) : Loc :=
  match v / 2 ^ 24 with
  | 0 => .row v
  | 1 => .pred (v % 2 ^ 24)
  | 2 => .s (v % 2 ^ 24)
  | 3 => .slot (v % 2 ^ 24)
  | _ => .tile (v % 2 ^ 24)

/-- Whether a scoreboard entry is one of the sixteen of R205: its result lands in a register, a predicate or a record slot. -/
def SbEntry.counted (e : SbEntry) : Bool := e.dsts.all fun d => match d with
  | .tile _ => false
  | _ => true

/-- The fields of a scoreboard entry (R315): its first destination, its active and its returned mask. -/
def sbFields : List (SaveField SbEntry) :=
  [⟨0, 4, fun e => (e.dsts.head?.map Loc.code).getD 0, fun e v => match e.dsts with
      | _ :: ds => { e with dsts := Loc.ofCode v :: ds }
      | [] => e⟩,
   ⟨4, 4, fun e => e.active.toNat, fun e v => { e with active := BitVec.ofNat 32 v }⟩,
   ⟨8, 4, fun e => e.returned.toNat, fun e v => { e with returned := BitVec.ofNat 32 v }⟩]

/-- The scoreboard with what memory holds in a group control record (R315). -/
def loadSb (m : Memory) (base : Nat) (sb : List SbEntry) : List SbEntry :=
  ((sb.filter SbEntry.counted).zipIdx.map fun (e, i) => if i < 16 then loadFields sbFields m (base + 768 + 16 * i) e else e) ++
    sb.filter fun e => !e.counted

/-- The fork set as a bit for each thread: bits 2:0 of a handle name the thread (R243, R315). -/
def forkBits (forks : List Word) : Nat := (List.range 8).foldl (fun v t => if forks.any fun h => h.toNat % 8 == t then v + 2 ^ t else v) 0

/-- The writes of a group control record (R315). That entry 0 of the stack is the bottom one is the model's choice (assumption
log 15). -/
def saveGroup (base ix : Nat) (g : Group) : List (Nat × Byte) :=
  at_ base (natBytes 0 2048) ++ saveFields groupFields base g ++
    at_ (base + 1) (natBytes g.liveSplits.length 1) ++ at_ (base + 2) (natBytes g.stack.length 1) ++ at_ (base + 3) (natBytes ix 1) ++
    at_ (base + 12) (natBytes (forkBits g.forks) 4) ++
    (g.byPos.zipIdx.flatMap fun (e, j) => saveFields splitFields (base + 128 + 16 * j) e.2) ++
    (g.stack.reverse.zipIdx.flatMap fun (e, i) => saveFields stackFields (base + 192 + 16 * i) e) ++
    (((g.sb.filter SbEntry.counted).take 16).zipIdx.flatMap fun (e, i) => saveFields sbFields (base + 768 + 16 * i) e)

/-- A group with what memory holds in its control record (R315): splits and stack entries by their places, split j at position j; then the fixed fields,
XPC among them. -/
def loadGroup (m : Memory) (base : Nat) (g1 : Group) : Group :=
  let nsp := min 4 (m.read (base + 1)).toNat
  let nst := min 16 (m.read (base + 2)).toNat
  let old := g1.byPos
  let sps : FMap Split := (List.range nsp).map fun j =>
    let (k, p) := (old[j]?).getD (g1.nextSplit + j, { Split.empty with live := true })
    (k, { loadFields splitFields m (base + 128 + 16 * j) p with pos := j })
  let st := ((List.range nst).map fun i =>
    loadFields stackFields m (base + 192 + 16 * i) ((g1.stack.reverse[i]?).getD { pc := 0, mask := 0, trap := false })).reverse
  let bits := ofBytes (m.readN (base + 12) 4)
  loadFields groupFields m base { g1 with
    splits := sps, nextSplit := g1.nextSplit + 4, stack := st, forks := g1.forks.filter fun h => bits.testBit (h.toNat % 8),
    sb := loadSb m base g1.sb }

/-- The queues and the barrier of a block record (R316). -/
def queueFields : List (SaveField Queue) :=
  [⟨0, 2, fun q => q.cap, fun q v => { q with cap := v }⟩, ⟨2, 2, fun q => q.base, fun q v => { q with base := v }⟩,
   ⟨4, 2, fun q => q.head, fun q v => { q with head := v }⟩, ⟨6, 2, fun q => q.tail, fun q v => { q with tail := v }⟩,
   ⟨8, 2, fun q => q.count, fun q v => { q with count := v }⟩, ⟨10, 2, fun q => q.allow, fun q v => { q with allow := v }⟩]

/-- The groups of a block that have arrived at its barrier's phase, as a mask by group index (R316). -/
def Block.arrivals (b : Block) : Nat := b.groups.foldl (fun v (i, g) => if g.live && g.arrB == some b.phase then v + 2 ^ i else v) 0

/-- The writes of a block record (R316); `gang` gives the gang barrier's phase and arrival count for block 0. -/
def saveBlock (base : Nat) (b : Block) (gang : Nat × Nat) : List (Nat × Byte) :=
  at_ base (natBytes 0 512) ++
    ((List.range 16).flatMap fun i => saveFields queueFields (base + 16 * i) (FMap.get Queue.empty b.q i)) ++
    at_ (base + 256) (natBytes b.phase 4) ++ at_ (base + 260) (natBytes b.arrivals 4) ++
    (if b.ix = 0 then at_ (base + 264) (natBytes gang.1 4 ++ natBytes gang.2 4) else [])

/-- A block with what memory holds in its record (R316). -/
def loadBlock (m : Memory) (base : Nat) (b : Block) : Block :=
  let q := (List.range 16).foldl (fun q i =>
    FMap.set Queue.empty q i (loadFields queueFields m (base + 16 * i) (FMap.get Queue.empty b.q i))) b.q
  let ph := ofBytes (m.readN (base + 256) 4)
  let arr := ofBytes (m.readN (base + 260) 4)
  { b with q := q, phase := ph, groups := b.groups.map fun (i, g) =>
      (i, { g with arrB := if arr.testBit i then some ph else if g.arrB = some b.phase then none else g.arrB }) }

/-- The fields of a feed thread (R314), packed in the order in which R314 lists them (assumption log 15). -/
def threadFields : List (SaveField Thread) :=
  (List.range 32).map (fun n =>
    ⟨4 * n, 4, fun t => (t.rf.lane (BitVec.ofNat 7 n) 0).toNat,
     fun t v => { t with rf := t.rf.write (BitVec.ofNat 7 n) 1 fun _ => BitVec.ofNat 32 v }⟩) ++
  (List.range 16).map (fun n =>
    ⟨128 + 4 * n, 4, fun t => (t.rf.lane (BitVec.ofNat 7 (112 + n)) 0).toNat,
     fun t v => { t with rf := t.rf.write (BitVec.ofNat 7 (112 + n)) 1 fun _ => BitVec.ofNat 32 v }⟩) ++
  (List.range 8).map (fun n =>
    ⟨192 + 4 * n, 4, fun t => (t.rf.pred (BitVec.ofNat 3 n)).toNat,
     fun t v => { t with rf := t.rf.writePred (BitVec.ofNat 3 n) 0xFFFFFFFF (BitVec.ofNat 32 v) }⟩) ++
  [⟨224, 8, fun t => t.sp.pc.toNat, fun t v => { t with sp := { t.sp with pc := BitVec.ofNat 64 v } }⟩] ++
  (List.range 32).map (fun n =>
    ⟨232 + 32 * n, 32, fun t => (FMap.get (0 : BitVec 256) t.rf.k n).toNat,
     fun t v => { t with rf := t.rf.writeRec (BitVec.ofNat 5 n) (BitVec.ofNat 256 v) }⟩) ++
  [⟨1256, 4, fun t => t.handle.toNat, fun t v => { t with handle := BitVec.ofNat 32 v }⟩]

/-- The bytes of a row of words. -/
def rowBytes (r : Row) : List Byte := (List.range 32).flatMap fun l => bytesOf (r.lane l) 4

/-- The row of words that 128 bytes hold. -/
def rowOfBytes (bs : List Byte) : Row := Row.make fun l => BitVec.ofNat 32 (ofBytes ((bs.drop (4 * l)).take 4))

/-- The image of a tile (R231): the elements, the bound register and the threshold. -/
def Group.tileImage (g : Group) (n : Nat) : List Byte :=
  let t := FMap.get ([] : Tile) g.tiles n
  ((List.range 2048).flatMap fun i => bytesOf (FMap.get 0 t i) 4) ++ bytesOf (FMap.get 0 g.bounds n) 8 ++
    bytesOf (FMap.get 0 g.thr n) 1 ++ natBytes 0 7

/-- A group with a tile, its bound register and its threshold loaded from an image (R231, R327). -/
def Group.loadTile (g : Group) (n : Nat) (bs : List Byte) : Group :=
  let t : Tile := (List.range 2048).foldl (fun t i => FMap.set 0 t i (BitVec.ofNat 32 (ofBytes ((bs.drop (4 * i)).take 4)))) []
  { g with tiles := FMap.set [] g.tiles n t,
           bounds := FMap.set 0 g.bounds n (BitVec.ofNat 64 (ofBytes ((bs.drop 8192).take 8))),
           thr := FMap.set 0 g.thr n ((bs.getD 8200 0) &&& 0x3F) }

/-- Where the sections of a frame begin (R314): group records, threads, rows, scratchpad, granules, tiles, the data part of the FIFO
pool, the stream states, the pending quarter ops, and the size of the frame. -/
structure FrameMap where
  groups : Nat
  threads : Nat
  rows : Nat
  scratch : Nat
  gran : Nat
  tiles : Nat
  fifos : Nat
  state : Nat
  ops : Nat
  size : Nat
  deriving DecidableEq, Repr

/-- The frame of a partition's ranges (R314). -/
def frameMap (r : Ranges) : FrameMap :=
  let gr := 256 + 16384
  let th := gr + 2048 * r.slots
  let rw := th + 2048 * 8
  let sc := rw + 128 * r.rows
  let fe := sc + 128 * r.sprows
  let ti := fe + (r.sprows + 127) / 128 * 128
  let fi := ti + 8208 * r.tiles
  let sum := fi + 9216 * r.fifos + 2048
  { groups := gr, threads := th, rows := rw, scratch := sc, gran := fe, tiles := ti, fifos := fi, state := fi + 8192 * r.fifos, ops := fi + 9216 * r.fifos,
    size := (sum + 4095) / 4096 * 4096 }

/-- The writes of the banked state of one block in a frame (R314); `j` is its block record index. -/
def saveBanks (r : Ranges) (base j : Nat) (b : Block) (gang : Nat × Nat) : List (Nat × Byte) :=
  let f := frameMap r
  let slot (i : Nat) : Nat := b.place.slot - r.slot0 + i
  saveBlock (base + 256 + 512 * j) b gang ++
    (b.groups.flatMap fun (i, g) =>
      at_ (base + 2 + slot i) [BitVec.ofNat 8 j] ++ saveGroup (base + f.groups + 2048 * slot i) i g ++
        ((List.range (16 * b.u)).flatMap fun k =>
          at_ (base + f.rows + 128 * (b.place.row - r.row0 + 16 * b.u * i + k)) (rowBytes (FMap.get Row.zero g.rf.rows k))) ++
        ((List.range b.t).flatMap fun k =>
          at_ (base + f.tiles + 8208 * (b.place.tile - r.tile0 + b.t * i + k)) (g.tileImage k))) ++
    (b.threads.flatMap fun (t, th) => at_ (base + f.threads + 2048 * t) (natBytes 0 2048) ++
        saveFields threadFields (base + f.threads + 2048 * t) th) ++
    ((List.range (b.g * b.sp)).flatMap fun k =>
      let row := b.place.sprow - r.sprow0 + k
      at_ (base + f.scratch + 128 * row) (b.bytes (128 * k) 128) ++
        at_ (base + f.gran + row) (natBytes ((List.range 8).foldl (fun v i => if b.full (8 * k + i) then v + 2 ^ i else v) 0) 1))

/-- The fields of a triple (R125): a bound is a BF16, the upper half of an FP32. -/
def tripFields : List (SaveField Triple) :=
  [⟨0, 4, fun t => t.s.toNat, fun t v => { t with s := BitVec.ofNat 32 v }⟩,
   ⟨4, 2, fun t => t.e.toNat / 2 ^ 16, fun t v => { t with e := BitVec.ofNat 32 (2 ^ 16 * v) }⟩,
   ⟨6, 8, fun t => t.m.toNat, fun t v => { t with m := BitVec.ofNat 64 v }⟩]

/-- The fields of an entry in its stream state, after its offset (R314). -/
def entryFields : List (SaveField FifoEntry) :=
  [⟨4, 4, fun e => e.size, fun e v => { e with size := v }⟩,
   ⟨8, 1, fun e => e.isB.toNat, fun e v => { e with isB := v % 2 == 1 }⟩,
   ⟨9, 1, fun e => e.ty.toNat, fun e v => { e with ty := BitVec.ofNat 8 v }⟩,
   ⟨10, 2, fun e => e.count, fun e v => { e with count := v }⟩]

/-- The place of entry `i` in the 1 KiB of its stream state: each FIFO holds at most four (R247). -/
def entryAt (i : Nat) : Nat := 16 + 248 * i

/-- The data of an entry, byte by byte. -/
def FifoEntry.bytes (e : FifoEntry) : List Byte := (List.range e.size).map fun i => FMap.get 0 e.data i

/-- The writes of an entry whose data stand at `off` in the data part. -/
def saveEntry (data state off i : Nat) (e : FifoEntry) : List (Nat × Byte) :=
  at_ (data + off) e.bytes ++ at_ (state + entryAt i) (natBytes off 4) ++ saveFields entryFields (state + entryAt i) e ++
    (e.trips.flatMap fun (k, t) => saveFields tripFields (state + entryAt i + 12 + 14 * k) t)

/-- An entry with what memory holds of it: one that has landed has a triple for each row, a B entry one (R125). -/
def loadEntry (m : Memory) (data state i : Nat) (e0 : FifoEntry) : FifoEntry :=
  let e := loadFields entryFields m (state + entryAt i) e0
  let off := ofBytes (m.readN (state + entryAt i) 4)
  { e with
    data := (List.range e.size).foldl (fun d k => FMap.set 0 d k (m.read (data + off + k))) []
    trips := if e.present then (if e.isB then [0] else List.range 16).map fun k =>
      (k, loadFields tripFields m (state + entryAt i + 12 + 14 * k) (e.trip k)) else [] }

/-- The bind position of a stream (R226): the entries before the first that an op can still bind. -/
def bindPosition (l : List FifoEntry) : Nat := (l.takeWhile fun e => e.taken || e.count == 0).length

/-- An entry of a stream whose bind position is `pos` (R226, R314), at place `i`: before it the entry is bound to the end, at it the
entry is open. -/
def FifoEntry.placed (e : FifoEntry) (i pos : Nat) : FifoEntry :=
  if i < pos then (if e.taken || e.count == 0 then e else if e.isB then { e with count := 0 } else { e with taken := true })
  else if i = pos then { e with taken := false, count := max 1 e.count }
  else e

/-- The FIFOs of blocks by their places in the partition's range: block, number in the block, and stream. -/
def fifosOf (r : Ranges) (bs : FMap Block) : FMap (Nat × Nat × List FifoEntry) :=
  bs.foldl (fun l e => (List.range (e.2.g * e.2.f)).foldl (fun l f =>
    FMap.put l (e.2.place.fifo - r.fifo0 + f) (e.1, f, FMap.get [] e.2.fifos f)) l) []

/-- The writes of the FIFO section (R314): entry data packed by FIFO, and the stream states. -/
def saveFifos (r : Ranges) (base : Nat) (bs : FMap Block) : List (Nat × Byte) :=
  let f := frameMap r
  ((fifosOf r bs).foldl (fun (acc : List (Nat × Byte) × Nat) (n, _, _, l) =>
    let state := base + f.state + 1024 * n
    let (ws, off, _) := l.foldl (fun (a : List (Nat × Byte) × Nat × Nat) e =>
      (a.1 ++ saveEntry (base + f.fifos) state a.2.1 a.2.2 e, a.2.1 + e.size, a.2.2 + 1)) (([] : List (Nat × Byte)), acc.2, 0)
    (acc.1 ++ at_ state (natBytes l.length 2 ++ natBytes (bindPosition l) 2) ++ ws, off)) ([], 0)).1

/-- An entry that the stream state of a FIFO counts beyond those that the context had: present, and bound by nobody. -/
def FifoEntry.blank (n i : Nat) : FifoEntry :=
  { id := 2 ^ 64 + 4 * n + i, isB := false, ty := 0, size := 0, data := [], trips := [], count := 1, present := true, taken := false,
    bound := 0, spent := false }

/-- The stream of FIFO `n` as memory holds it (R314): as many entries as its state counts, at most four, about its bind position. -/
def loadStream (m : Memory) (data state n : Nat) (l : List FifoEntry) : List FifoEntry :=
  let pos := ofBytes (m.readN (state + 2) 2)
  (List.range (min 4 (ofBytes (m.readN state 2)))).map fun i =>
    (loadEntry m data state i ((l[i]?).getD (FifoEntry.blank n i))).placed i pos

/-- A block with its FIFOs as memory holds them (R314). -/
def loadFifos (r : Ranges) (m : Memory) (base : Nat) (b : Block) : Block :=
  let f := frameMap r
  { b with fifos := (List.range (b.g * b.f)).foldl (fun fs n =>
      FMap.set [] fs n (loadStream m (base + f.fifos) (base + f.state + 1024 * (b.place.fifo - r.fifo0 + n)) n (FMap.get [] b.fifos n))) b.fifos }

/-- The number of a kind of product. -/
def MatKind.code : MatKind → Nat
  | .mma => 0
  | .mmaW => 1
  | .cmma => 2

/-- The kind with a number. -/
def MatKind.ofCode : Nat → MatKind
  | 0 => .mma
  | 1 => .mmaW
  | _ => .cmma

/-- The fields of a pending quarter op (R314; assumption log 15), but for the entries that it has bound. -/
def opFields : List (SaveField QOp) :=
  [⟨1, 1, fun o => o.group, fun o v => { o with group := v }⟩, ⟨2, 1, fun o => o.q, fun o v => { o with q := v }⟩,
   ⟨3, 1, fun o => o.kind.code, fun o v => { o with kind := MatKind.ofCode v }⟩,
   ⟨4, 1, fun o => o.ty.toNat, fun o v => { o with ty := BitVec.ofNat 5 v }⟩, ⟨5, 1, fun o => o.tile, fun o v => { o with tile := v }⟩,
   ⟨6, 1, fun o => o.fa, fun o v => { o with fa := v }⟩, ⟨7, 1, fun o => o.fb, fun o v => { o with fb := v }⟩,
   ⟨16, 8, fun o => o.tb, fun o v => { o with tb := v }⟩]

/-- The place of a bound entry in its stream, 255 for none. -/
def boundAt (l : List FifoEntry) (x : Option Nat) : Nat := (x.bind fun id => l.findIdx? fun e => e.id == id).getD 255

/-- The writes of the pending quarter ops of a core (R314), in the order in which they were issued: the block record index of each
and its fields. -/
def saveOps (base : Nat) (bs : FMap Block) (ops : List QOp) : List (Nat × Byte) :=
  ops.zipIdx.flatMap fun (o, i) =>
    let at1 := base + 32 * i
    let l (f : Nat) : List FifoEntry := FMap.get [] (FMap.get Block.empty bs o.block).fifos f
    at_ at1 (natBytes ((bs.findIdx? fun e => e.1 == o.block).getD 255) 1) ++ saveFields opFields at1 o ++
      at_ (at1 + 8) (natBytes (boundAt (l o.fa) o.a) 1 ++ natBytes (boundAt (l o.fb) o.b) 1)

/-- The entry of a stream at a saved place (R314): the one that the op has bound where no entry stands there. -/
def boundFrom (l : List FifoEntry) (n : Nat) (old : Option Nat) : Option Nat :=
  if n = 255 then none else match l[n]? with
    | some e => some e.id
    | none => old

/-- The pending quarter ops as memory holds them, of blocks in the order of their records (R314). -/
def loadOps (m : Memory) (base : Nat) (bs : FMap Block) (ops : List QOp) : List QOp :=
  ops.zipIdx.map fun (o0, i) =>
    let at1 := base + 32 * i
    let o := loadFields opFields m at1 { o0 with block := ((bs[(m.read at1).toNat]?).map (·.1)).getD o0.block }
    let l (f : Nat) : List FifoEntry := FMap.get [] (FMap.get Block.empty bs o.block).fifos f
    { o with a := boundFrom (l o.fa) (m.read (at1 + 8)).toNat o0.a, b := boundFrom (l o.fb) (m.read (at1 + 9)).toNat o0.b }

/-- A block with the banked state that memory holds in a frame (R314). -/
def loadBanks (r : Ranges) (m : Memory) (base j : Nat) (b : Block) : Block :=
  let f := frameMap r
  let slot (i : Nat) : Nat := b.place.slot - r.slot0 + i
  let b1 := loadBlock m (base + 256 + 512 * j) b
  let row (k : Nat) : Nat := b.place.sprow - r.sprow0 + k
  let b2 := (List.range (b.g * b.sp)).foldl (fun x k => x.store (128 * k) (m.readN (base + f.scratch + 128 * row k) 128)) b1
  let b3 := (List.range (b.g * b.sp)).foldl (fun x k =>
    let v := (m.read (base + f.gran + row k)).toNat
    (List.range 8).foldl (fun y i => y.mark [8 * k + i] (v.testBit i)) x) b2
  { b3 with
    groups := b3.groups.map fun (i, g) =>
      let g1 := loadGroup m (base + f.groups + 2048 * slot i) g
      let rows := (List.range (16 * b.u)).foldl (fun rs k =>
        FMap.set Row.zero rs k (rowOfBytes (m.readN (base + f.rows + 128 * (b.place.row - r.row0 + 16 * b.u * i + k)) 128))) g1.rf.rows
      let g2 := { g1 with rf := { g1.rf with rows := rows } }
      (i, (List.range b.t).foldl (fun x k =>
        x.loadTile k (m.readN (base + f.tiles + 8208 * (b.place.tile - r.tile0 + b.t * i + k)) 8208)) g2)
    fifos := (loadFifos r m base b3).fifos
    threads := b3.threads.map fun (t, th) => (t, loadFields threadFields m (base + f.threads + 2048 * t) th) }

/-- A block of a context in whichever bank or image it stands. -/
def State.anywhere (s : State) (ctx core b : Nat) : Block :=
  let co := s.core core
  let x := co.block b
  if x.live then x
  else
    let y := FMap.get Block.empty co.sha b
    if y.live then y
    else match ((s.ctx ctx).image.getD []).find? fun sc => sc.core == core with
      | some sc => FMap.get Block.empty sc.blocks b
      | none => Block.empty

/-- The gang barrier as a block record holds it (R316): phase and arrival count, over all the blocks of the gang. -/
def State.gangArrivals (s : State) (gang : Nat) : Nat × Nat :=
  let gg := s.gang gang
  let ctx := (s.grid gg.grid).ctx
  (gg.phase, (gg.blocks.map fun (c, k) =>
    ((s.anywhere ctx c k).groups.filter fun (_, g) => g.live && g.arrG == some gg.phase).length).sum)

/-- The writes of a frame (R314). -/
def State.saveFrame (s : State) (r : Ranges) (base : Nat) (sc : SavedCore) : List (Nat × Byte) :=
  at_ base (natBytes sc.core 2 ++ List.replicate r.slots 0xFF ++ natBytes 0 (254 - r.slots)) ++
    (sc.blocks.zipIdx.flatMap fun (e, j) => saveBanks r base j e.2 (s.gangArrivals e.2.gang)) ++
    saveFifos r base sc.blocks ++ saveOps (base + (frameMap r).ops) sc.blocks sc.ops

/-- A saved core with what memory holds in its frame (R314). -/
def loadFrame (r : Ranges) (m : Memory) (base : Nat) (sc : SavedCore) : SavedCore :=
  let blocks : FMap Block := sc.blocks.zipIdx.map fun (e, j) => (e.1, loadBanks r m base j e.2)
  { sc with blocks := blocks, ops := loadOps m (base + (frameMap r).ops) blocks sc.ops }

/-- The header of a save area (R313). -/
def saveHeader (ctx : Nat) (r : Ranges) (base : Nat) (cores : List Nat) : List (Nat × Byte) :=
  at_ base (natBytes (ctx % 4096) 4 ++ natBytes cores.length 4 ++ natBytes ((frameMap r).size / 4096) 4 ++ natBytes r.slots 1 ++
      natBytes r.rows 2 ++ natBytes r.sprows 2 ++ natBytes r.tiles 1 ++ natBytes r.fifos 1 ++ natBytes 0 45) ++
    at_ (base + 64) (cores.flatMap fun c => natBytes c 2)

/-- The base of frame `i` of a context's save area (R313). -/
def frameBase (save : Nat) (r : Ranges) (i : Nat) : Nat := save + 4096 + i * (frameMap r).size

/-- Changes one core of a context's image (R63): what memory holds is read, the change is made, and the frame
is written back. -/
def State.changeImage (s : State) (ctx core : Nat) (f : SavedCore → SavedCore) : State :=
  let x := s.ctx ctx
  match x.image, x.ranges with
  | some im, some r =>
    match im.findIdx? fun sc => sc.core == core with
    | some i =>
      match im[i]? with
      | some sc0 =>
        let base := frameBase x.save r i
        let sc := loadFrame r (s.memFor ctx) base sc0
        let sc' := f sc
        (s.setCtx ctx { x with image := some (im.set i sc') }).writeFor ctx (s.saveFrame r base sc')
      | none => s
    | none => s
  | _, _ => s

/-- Where the record of block 0 of a gang stands in the save area of its context (R313, R316), when its core is saved. -/
def State.gangRecord (s : State) (gang : Nat) : Option Nat :=
  let gg := s.gang gang
  let x := s.ctx (s.grid gg.grid).ctx
  match x.image, x.ranges, gg.blocks with
  | some im, some r, (c, k) :: _ =>
    match im.findIdx? fun sc => sc.core == c with
    | some i => ((im[i]?).bind fun sc => sc.blocks.findIdx? fun e => e.1 == k).map fun j => frameBase x.save r i + 256 + 512 * j
    | none => none
  | _, _, _ => none

/-- The phase and the arrivals of a gang's barrier go to the save area where that holds its block 0 (R63, R316). -/
def State.noteGang (s : State) (gang : Nat) : State :=
  match s.gangRecord gang with
  | some a =>
    let n := s.gangArrivals gang
    s.writeFor (s.grid (s.gang gang).grid).ctx (at_ (a + 264) (natBytes n.1 4 ++ natBytes n.2 4))
  | none => s

/-- Changes the groups of the blocks of a gang in every bank and save image: `f` is given core, block, group index and group. -/
def State.mapGang (s : State) (gang : Nat) (f : Nat → Nat → Nat → Group → Group) : State :=
  let blocks (c : Nat) (bank : FMap Block) : FMap Block := bank.map fun e =>
    (e.1, if e.2.live && e.2.gang == gang then { e.2 with groups := e.2.groups.map fun g => (g.1, f c e.1 g.1 g.2) } else e.2)
  { s with
    cores := s.cores.map fun e => (e.1, { e.2 with act := blocks e.1 e.2.act, sha := blocks e.1 e.2.sha })
    ctxs := s.ctxs.map fun e => (e.1, { e.2 with image := e.2.image.map fun im => im.map fun sc => { sc with blocks := blocks sc.core sc.blocks } }) }

/-- The live groups of a gang in any bank or image, as core, block and group index: those that have arrived at its barrier's phase
first. -/
def State.gangGroups (s : State) (gang : Nat) : List (Nat × Nat × Nat) :=
  let gg := s.gang gang
  let ctx := (s.grid gg.grid).ctx
  let all := gg.blocks.flatMap fun (c, k) => ((s.anywhere ctx c k).groups.filter fun e => e.2.live).map fun e => (c, k, e)
  let (yes, no) := all.partition fun x => x.2.2.2.arrG == some gg.phase
  (yes ++ no).map fun x => (x.1, x.2.1, x.2.2.1)

/-- The phase of a gang's barrier and its arrivals as a loaded record of its block 0 gives them (R316): as many groups have arrived as
the record counts, those that had first. -/
def State.loadGang (s : State) (m : Memory) (record : Nat) (b : Block) : State :=
  if b.ix = 0 then
    let old := (s.gang b.gang).phase
    let ph := ofBytes (m.readN (record + 264) 4)
    let here := (s.gangGroups b.gang).take (ofBytes (m.readN (record + 268) 4))
    (s.mapGang b.gang fun c k i g =>
      if here.contains (c, k, i) then { g with arrG := some ph } else if g.arrG = some old then { g with arrG := none } else g).setGang b.gang
      { s.gang b.gang with phase := ph }
  else s

end Sys2Proof.Machine
end

