-- ==== Sys2Proof/Machine/Request.lean ====
section
/-! DEFINITION. Requests: how an instruction's bytes divide into them (spec/16_parking.md R282), which may be performed
(spec/04_ordering.md R102, R104, R113; R280), what performing one does (R92, R206, R214), and how its result lands (R63,
R287). -/

namespace Sys2Proof.Machine

/-- The lines that `n` bytes from an address fall in: line address, first byte in the line, count, and which of the
bytes is first. -/
def linesOf (va : DWord) (n : Nat) : List (DWord × Nat × Nat × Nat) :=
  let o := va.toNat % 128
  (List.range ((o + n + 127) / 128)).map fun i =>
    let lo := if i = 0 then o else 0
    let first := if i = 0 then 0 else 128 * i - o
    (va - BitVec.ofNat 64 o + BitVec.ofNat 64 (128 * i), lo, min (128 - lo) (n - first), first)

/-- The pieces of the accesses of several lanes, gathered by line in the order in which the lines first occur (R282):
each access is a lane, an address and a size. -/
def gatherLines (xs : List (Nat × DWord × Nat)) : List (DWord × List Piece) :=
  (xs.flatMap fun (l, va, n) => (linesOf va n).map fun (line, lo, k, first) =>
      (line, ({ lane := l, off := lo, n := k, first := first } : Piece))).foldl
    (fun ps (line, p) =>
      if ps.any fun q => q.1 == line then ps.map fun q => if q.1 == line then (q.1, q.2 ++ [p]) else q
      else ps ++ [(line, [p])]) []

/-- What a request needs of its page (R278). -/
def Req.need (r : Req) : Need :=
  match r.kind with
  | .store _ => .write
  | .atom _ _ _ _ | .caswap _ _ => .both
  | .fetch => .fetch
  | _ => .read

/-- Whether a request is a lane of an atomic. -/
def Req.isAtomic (r : Req) : Bool :=
  match r.kind with
  | .atom _ _ _ _ | .caswap _ _ => true
  | _ => false

/-- Whether a request came in through a port (R293). -/
def Req.inbound (r : Req) : Bool :=
  match r.land with
  | .port _ _ => true
  | _ => false

/-- Whether a request comes from a core and fills its TLB. -/
def Req.fromCore (r : Req) : Bool :=
  match r.land with
  | .job _ | .port _ _ => false
  | _ => true

/-- Whether a request of this kind may use a translation that a TLB holds (R73, R75). -/
def Req.tlbOk (r : Req) (t : TlbEntry) : Bool :=
  reaches (r.space == .peer) r.isAtomic t.cls &&
    (match r.need with
     | .read => t.rd
     | .write => t.w && t.d
     | .both => t.rd && t.w && t.d
     | .fetch => t.x)

/-- How far a request is as it leaves: translated by the TLB or waiting for a walk; untranslated spaces go on. -/
def State.firstSt (s : State) (r : Req) : ReqSt :=
  if r.translated then
    (if r.fromCore then
      match s.tlb? r.core r.ctx r.va r.tlbOk with
      | some (pa, cls, tier) => .mapped pa cls tier
      | none => .needWalk
     else .needWalk)
  else .mapped (r.va.toNat % 2 ^ 32) 0 0

/-- The traffic class of a request: that of its context and engine class (R95, R263). -/
def State.trafficClass (s : State) (r : Req) : Nat := ((s.ctx r.ctx).tclass.extractLsb' (2 * r.cls) 2).toNat

/-- A request as it leaves: it takes the next number, its place in its party's order, its traffic class and the generation. -/
def State.sent (s : State) (r : Req) : Req :=
  { r with id := s.nextId, seq := if r.seq = 0 then s.nextId else r.seq, tc := s.trafficClass r, st := s.firstSt r,
           gen := (s.ctx r.ctx).tgen.toNat }

/-- Sends requests in turn. -/
def State.send (s : State) (rs : List Req) : State :=
  rs.foldl (fun t r => { t with nextId := t.nextId + 1, reqs := t.reqs ++ [t.sent r] }) s

/-- The request with a number. -/
def State.req? (s : State) (id : Nat) : Option Req := s.reqs.find? fun r => r.id == id

/-- Replaces a request. -/
def State.setReq (s : State) (r : Req) : State := { s with reqs := s.reqs.map fun x => if x.id = r.id then r else x }

/-- Takes a request off. -/
def State.dropReq (s : State) (id : Nat) : State := { s with reqs := s.reqs.filter fun r => r.id != id }

/-- Whether an order code acquires (R164). -/
def orderAcq (o : BitVec 2) : Bool := o.getLsbD 0

/-- Whether an order code releases (R164). -/
def orderRel (o : BitVec 2) : Bool := o.getLsbD 1

/-- The physical line of a translated request: where it has been translated to, or where its walk would end now. -/
def State.physLine (s : State) (r : Req) : Option Nat :=
  if r.translated then
    match r.st with
    | .mapped pa _ _ => some (lineOf pa)
    | _ =>
      match s.walk r.ctx r.va with
      | .leaf l _ e => some (lineOf (pteAddr e + va57 r.va % levelSize l))
      | .stop _ _ _ => none
  else none

/-- Whether two requests name one line (R280): the same address in the same tables and, of a tree, under the same root, or one
physical line. -/
def State.sameLine (s : State) (r q : Req) : Bool :=
  (r.translated == q.translated && r.space == q.space && r.ctx == q.ctx && r.va == q.va &&
      (r.space != .tree || (r.root == q.root && r.extent == q.extent))) ||
    (r.translated && q.translated && (s.physLine r).isSome && s.physLine r == s.physLine q)

/-- Whether a request precedes another in the order of one party (R102). -/
def Req.before (r q : Req) : Bool :=
  (decide (r.seq < q.seq) || (r.seq == q.seq && decide (r.id < q.id))) && r.party == q.party && r.core == q.core

/-- Whether a relaxed channel that a party has used since its last system-scope release holds requests, of any party, before a number
(R18): the flush of the channel covers them. -/
def State.relaxedOwed (s : State) (p : Party) (before : Nat) : Bool :=
  s.ports.any fun (_, x) => x.users.contains p && x.relaxed.any fun e => decide (e.num < before)

/-- A system-scope release of a party has drained the relaxed channels (R18). -/
def State.flushed (s : State) (p : Party) : State :=
  { s with ports := s.ports.map fun e => (e.1, { e.2 with users := e.2.users.filter (· != p) }) }

/-- A port whose relaxed channel a party has used (R18). -/
def Port.usedBy (x : Port) (p : Party) : Port := { x with users := if x.users.contains p then x.users else x.users ++ [p] }

/-- The 64 KiB granules that a record's bytes lie in, as addresses. -/
def recGranules (r : BufRec) : List DWord :=
  (List.range (((recBase r).toNat % 65536 + recExtent r + 65535) / 65536)).map fun i => recBase r + BitVec.ofNat 64 (65536 * i)

/-- The physical granule of an address of a context, where its walk would end. -/
def State.physGranule (s : State) (ctx : Nat) (va : DWord) : Option Nat :=
  match s.walk ctx va with
  | .leaf l _ e => some ((pteAddr e + va57 va % levelSize l) / 65536)
  | .stop _ _ _ => none

/-- Whether a walk that has not ended may yet read the line of a request (R258): its loads lie in its record's extent, or
anywhere for bounds mode none. -/
def State.walkMeets (s : State) (x : Copy) (r : Req) : Bool :=
  match x.kind with
  | .kv _ b _ _ _ _ _ =>
    (if recSpace b = .weight ∨ recSpace b = .tree then r.space == recSpace b
     else r.translated && (recMode b == .none || (recGranules b).any fun g =>
       granuleOf g == granuleOf r.va || ((s.physLine r).isSome && s.physGranule x.ctx g == (s.physLine r).map (· / 512))))
  | _ => false

/-- Whether a request is a probe that takes the bytes after another's, of the same instruction (R90, R209). -/
def Req.follows (q r : Req) : Bool :=
  (match q.kind, r.kind with
   | .probe _, .probe _ => true
   | _, _ => false) && q.land == r.land && q.va == r.va + 128 && q.pieces.any fun p => r.pieces.any fun p' => p'.lane == p.lane

/-- Whether an access that a request covers as a release has yet to be performed (R104): one of its class before it. -/
def State.coversOwed (s : State) (r : Req) : Bool :=
  (s.owed.any fun q => q.before r && q.cls == r.cls) || (r.cls == 0 && (s.walksOwed r.party r.seq || s.waiterOwed r.party .nobody r.seq fun _ => true))

/-- Whether the group of a request arrived at a barrier before it, which releases (R108), and an access before that arrival has yet to be
performed. -/
def State.arrivalHolds (s : State) (r : Req) : Bool :=
  match r.party with
  | .group core block ix =>
    let g := (s.block core block).group ix
    let holds (phase : Option Nat) (at_ : Nat) : Bool :=
      phase.isSome && decide (at_ ≤ r.seq) && ((s.owed.any fun q => q.cls == 0 && q.party == r.party && decide (q.seq < at_)) || s.walksOwed r.party at_)
    holds g.arrB g.arrBAt || holds g.arrG g.arrGAt
  | _ => false

/-- Whether the order of its party lets a request go on, but for the accesses to its line (R90, R102, R104, R106, R108, R110, R113): no
acquire before it, for a release no access of its class, for an atomic no atomic, no walk that may read its line, and for the second part
of a probe no first part, has yet to be performed; and no release before it, that of an arrival at a barrier too, still waits for a request,
which may come to be parked. -/
def State.orderRest (s : State) (r : Req) : Bool :=
  let old := s.owed.filter fun q => q.before r
  !(old.any fun q => orderAcq q.order) && !(s.waiterOwed r.party .nobody r.seq fun i => orderAcq (orderOf i)) &&
    (!orderRel r.order || (!s.coversOwed r && (r.scope != 3 || !s.relaxedOwed r.party r.seq))) &&
    !(r.isAtomic && old.any Req.isAtomic) &&
    !(r.cls == 0 && s.copies.any fun x => x.isWalk && x.party == r.party && decide (x.id < r.seq) && s.walkMeets x r) &&
    !(old.any fun b => orderRel b.order && s.coversOwed b) && !s.arrivalHolds r &&
    !(old.any fun q => r.follows q)

/-- Whether nothing that the group has issued before a request must be performed first (R102, R104, R110, R113, R280). -/
def State.orderFree (s : State) (r : Req) : Bool := s.orderRest r && !(s.owed.any fun q => q.before r && s.sameLine q r)

/-- Whether a class is the ordered channel of a port (R72). -/
def orderedClass (cls : Nat) : Bool := cls == 2 || cls == 4

/-- The port that a physical address of the system/peer space lies behind: a CXL port for CXL memory (R17, R72). -/
def portFor (pa : Nat) : Nat := if Config.isCxl pa then (Config.cxlPortOf pa).val else (Config.portOf pa).val

/-- Whether a request precedes another of its core (R18): by the accesses to which they belong. -/
def Req.sentBefore (q r : Req) : Bool := q.core == r.core && (decide (q.seq < r.seq) || (q.seq == r.seq && decide (q.id < r.id)))

/-- Whether the ordered channel is free for a request (R18, R110): no earlier request of its core to that port waits. -/
def State.channelFree (s : State) (r : Req) : Bool :=
  match r.st with
  | .mapped pa cls _ =>
    if cls = 2 ∨ cls = 3 ∨ cls = 4 then
      (s.port (portFor pa)).state != 1 &&
        (!orderedClass cls || !(s.reqs.any fun q => q.sentBefore r && q.fromCore && q.space == .peer &&
          (match q.st with
           | .mapped pb c _ => orderedClass c && portFor pb == portFor pa
           | .needWalk => true
           | _ => false)))
    else true
  | _ => true

/-- Whether a time lies in the refresh window of a weight-store segment (R87), in ns. -/
def inRefresh (seg ns : Nat) : Bool := decide ((ns + 64000 - 2000 * (seg % 32)) % 64000 < 2000)

/-- What an atomic's arrival at its execution point is told by (R92 to R94): the point, 0 for those on the network clock and
core + 1 for the L1 of a core; the address; and its place among those that arrive with it. -/
def Req.arrival (r : Req) : Option (Nat × Nat × Nat) :=
  match r.st, r.pieces with
  | .mapped pa _ _, [p] =>
    if r.isAtomic then
      some (if r.scope = 0 then (r.core + 1, pa + p.off, 64 * r.gslot + p.lane) else (0, pa + p.off, 64 * r.core + p.lane))
    else none
  | _, _ => none

/-- The name that the pin of a request would raise: what its root slot holds. -/
def State.pinned (s : State) (r : Req) : Option DWord :=
  match r.kind, r.st with
  | .pin, .mapped pa _ _ =>
    some (BitVec.ofNat 64 (ofBytes ((List.range 8).map fun i => s.seenBy r.ctx (pa + (r.pieces.headD ⟨0, 0, 0, 0⟩).off + i))))
  | _, _ => none

/-- The digest whose home slice an insert or a count change reaches (R142, R143): of a swap, that of the name that it replaces. -/
def State.digestOf (s : State) (r : Req) : Option (BitVec 52) :=
  match r.kind with
  | .caInsert kind line => some (caDigest (s.part r.part).cakey kind line)
  | .caInc n | .caDec n => some (nameDigest n)
  | .caswap v _ => some (nameDigest v)
  | .pin => (s.pinned r).map nameDigest
  | _ => none

/-- The arrival of an insert or a count change at the slice of a digest (R143), at a place: 64 x core id + lane for a core, and after
every core the bulk copy engines and Lovage. That the engines come before Lovage, where the spec puts both after every core and gives no
order between them, is the model's choice (assumption log 89). -/
def atDigest (part : Nat) (d : BitVec 52) (place : Nat) : Nat × Nat × Nat := (1024 + part, d.toNat, place)

/-- The places of the bulk copy engines and of Lovage among those that reach a digest (R143). -/
def enginePlace : Nat := 64 * 512
def lovagePlace : Nat := 64 * 513

/-- The digests of the children whose counts an insert raises (R142, R143): those of a node that the store does not hold. -/
def State.childDigests (s : State) (r : Req) : List (BitVec 52) :=
  match r.kind with
  | .caInsert kind line =>
    if kind = 2 ∧ ((s.part r.part).insert s.poisoned kind line).2.2 = 0 then (line.toList.filter (· != 0)).map nameDigest else []
  | _ => []

/-- The arrivals of a request at its execution points: of an atomic, and of an insert or count change at the slice of its digest, where
an insert counts as lane 0, as it does at the digests of the children that it counts (R93, R94, R143). -/
def State.arrivalsOf (s : State) (r : Req) : List (Nat × Nat × Nat) :=
  r.arrival.toList ++ ((s.digestOf r).toList ++ s.childDigests r).map fun d => atDigest r.part d
    (if r.cls = 3 then enginePlace else 64 * r.core + (match r.kind with
      | .caInsert _ _ => 0
      | _ => (r.pieces.headD ⟨0, 0, 0, 0⟩).lane))

/-- Whether an atomic may apply after those that have applied in this cycle (R93, R94, R143): to one address or digest in ascending
order of place, and on the network clock by ascending address. -/
def State.arrivalOk (s : State) (a : Nat × Nat × Nat) : Bool :=
  s.applied.all fun e => e.1 != a.1 || decide (e.2.1 < a.2.1) || (e.2.1 != a.2.1 && a.1 != 0) || (e.2.1 == a.2.1 && decide (e.2.2 ≤ a.2.2))

/-- A cycle of the network clock ends: what applies from now on there arrives in a later one (R93, R143). -/
def State.netTick (s : State) : State := { s with applied := s.applied.filter fun e => e.1 != 0 && decide (e.1 < 1024) }

/-- The state in which what arrives now may apply: after what has applied in this cycle where its place comes after theirs, else in the
next cycle of the network clock. -/
def State.arriving (s : State) (a : Nat × Nat × Nat) : State := if s.arrivalOk a then s else s.netTick

/-- Atomics have applied. -/
def State.arrive (s : State) (a : List (Nat × Nat × Nat)) : State := { s with applied := s.applied ++ a }

/-- Whether a request that Sorrel has sent again stands behind another of its line that it sent before (R113, R294). -/
def State.resentAhead (s : State) (r : Req) : Bool :=
  r.record.isSome && (s.reqs.takeWhile fun q => q.id != r.id).any fun q =>
    q.record.isSome && !q.performed && q.ctx == r.ctx && s.sameLine q r

/-- Whether a request may be performed now: it is translated and not held, and its order, its channel, its execution point and
its segment allow it (R18, R87, R93, R102, R104, R280). -/
def State.mayGo (s : State) (r : Req) : Bool :=
  (match r.st with
   | .mapped _ _ _ => true
   | _ => false) && !r.held && s.orderFree r && s.channelFree r && ((s.arrivalsOf r).all s.arrivalOk) && !s.resentAhead r &&
    !(r.space == .weight && inRefresh (r.va.toNat / 2 ^ 25) s.ns)

/-- The core through whose L1 a request goes: that of a group's or feed thread's own accesses (R77). -/
def Req.l1Core (r : Req) : Option Nat := if r.cls = 0 ∧ r.fromCore = true ∧ r.space = .global ∧ (r.isAtomic = false ∨ r.scope = 0) then some r.core else none

/-- What reading the line of a request gives: its bytes, or the cause that parks it, with the entry of its fault record. -/
inductive Got where
  | bytes (s : State) (f : Nat → Byte)
  | fail (cause : Nat) (e : DWord)

/-- Counts an uncorrectable event of a port; the field has 8 bits (R354, R362). -/
def State.countUncorr (s : State) (n : Nat) : State := s.setPort n { s.port n with uncorr := satAdd (s.port n).uncorr 255 }

/-- Free bytes of a device or another module: the next 128 that Config draws (assumption log 8). -/
def State.drawLine (s : State) : Got := .bytes { s with draws := s.draws + 128 } fun i => Config.deviceByte (s.draws + i)

/-- Reads the line of a request where it is performed (R74, R86, R147, R246, R251, R326, R342, R343, R349, R354, R355). -/
def State.readLine (s : State) (r : Req) : Got :=
  match r.space with
  | .weight =>
    if FMap.get false s.wsPoison (lineOf r.va.toNat) then .fail 4 0 else .bytes s fun i => FMap.get 0 s.ws (r.va.toNat + i)
  | .tree =>
    let p := s.part r.part
    let j := r.va.toNat / 128
    let d := treeDepth (treeLines r.extent)
    match p.treeLine s.poisoned r.root r.extent j with
    | .poisoned n => .fail 4 n
    | .line l => .bytes (s.setPart r.part (p.cacheWalk (p.path j d d r.root))) l.byte
  | _ =>
    match r.st with
    | .mapped pa cls _ =>
      if cls = 0 then
        (if s.poisoned pa then .fail 4 0 else .bytes (s.readL2 r.l1Core pa r.policy r.uses) fun i => s.seenBy r.ctx (pa + i))
      else
        let n := portFor pa
        if cls ≠ 4 ∧ Config.isCxl pa = true then (if s.poisoned pa then .fail 4 0 else .bytes s fun i => s.seenBy r.ctx (pa + i))
        else if cls = 4 then
          (match r.land with
           | .copy _ | .job _ => .bytes s fun _ => 0
           | _ => if (s.port n).state = 2 then .bytes (s.countUncorr n) fun _ => 0xFF else s.drawLine)
        else if (s.port n).state = 2 then .fail (if n < 8 then 4 else 5) 0
        else if cls = 3 then (s.setPort n ((s.port n).usedBy r.party)).drawLine
        else s.drawLine
    | _ => .fail 0 0

/-- Writes bytes at the line of a mapped request (R18, R206, R343, R354), or gives the cause that parks it. -/
def State.writeLine (s : State) (r : Req) (bs : List (Nat × Byte)) : Except Nat State :=
  match r.st with
  | .mapped pa cls _ =>
    if cls = 0 then
      (if s.poisoned pa then .error 4
       else .ok ((s.writeL2 r.l1Core pa r.policy).writeFor r.ctx (bs.map fun (i, b) => (pa + i, b))))
    else if cls ≠ 4 ∧ Config.isCxl pa = true ∧ s.poisoned pa = true then .error 4
    else
      let n := portFor pa
      let p := s.port n
      let t := if cls ≠ 4 ∧ Config.isCxl pa = true then s.writeFor r.ctx (bs.map fun (i, b) => (pa + i, b)) else s
      if p.state = 2 then (if 8 ≤ n ∧ cls ≠ 4 then .error 5 else .ok (s.countUncorr n))
      else if cls = 3 then
        .ok (t.setPort n { p.usedBy r.party with relaxed := p.relaxed ++ [{ num := r.id, party := r.party, pa := pa, bytes := bs }] })
      else .ok (t.setPort n { p with out := p.out ++ [(pa, bs)] })
  | _ => .ok s

/-- The new value of an atomic (R213). -/
def atomNew (op : AtomOp) (size : Nat) (m v c : DWord) : DWord :=
  let w := 8 * size
  let sgn (x : DWord) : Int := if size = 4 then (x.setWidth 32).toInt else x.toInt
  let uns (x : DWord) : Nat := x.toNat % 2 ^ w
  let fl (f : Fp → Fp → Fp) : DWord := BitVec.ofNat 64 (fp32.pack .rn (f (f32 (m.setWidth 32)) (f32 (v.setWidth 32))))
  match op with
  | .add => m + v
  | .minS => if sgn v < sgn m then v else m
  | .minU => if uns v < uns m then v else m
  | .maxS => if sgn m < sgn v then v else m
  | .maxU => if uns m < uns v then v else m
  | .and => m &&& v
  | .or => m ||| v
  | .xor => m ^^^ v
  | .xchg => v
  | .cas => if uns m = uns v then c else m
  | .incw => if uns v ≤ uns m then 0 else m + 1
  | .fadd => fl (Fp.add false)
  | .fmin => fl Fp.min
  | .fmax => fl Fp.max

/-- A word after bytes are put into it from byte `off` on. -/
def putBytes {n : Nat} (v : BitVec n) (off : Nat) (bs : List Byte) : BitVec n :=
  bs.zipIdx.foldl (fun v (b, i) =>
    (v &&& ~~~(BitVec.ofNat n 0xFF <<< (8 * (off + i)))) ||| (b.setWidth n <<< (8 * (off + i)))) v

/-- The bytes that extend a narrow value to its register (R202): its sign for .i8 and .i16, else zeros. -/
def extendBytes (ty : BitVec 5) (size : Nat) (top : Byte) : List Byte :=
  List.replicate (4 - size) (if (ty == 1 || ty == 3) && top.msb then 0xFF else 0)

/-- The register writes that bring bytes of a lane's access to their place (R202, R287): the bytes from `first` on. The
last bytes of a narrow value bring its extension; a uniform register takes the value of lane `low` alone. -/
def landBytes (dst : List (Option Loc)) (ty : BitVec 5) (size low lane first : Nat) (bs : List Byte) : List RegWrite :=
  match dst with
  | [some (.slot n)] => [{ loc := .slot n, lane := 0, off := first, bytes := bs }]
  | [some (.tile n)] => [{ loc := .tile n, lane := 0, off := first, bytes := bs }]
  | _ =>
    let all := if first + bs.length = size ∧ size < 4 then bs ++ extendBytes ty size (bs.getLastD 0) else bs
    all.zipIdx.filterMap fun (b, i) =>
      match dst[(first + i) / 4]? with
      | some (some (.s n)) => if lane = low then some { loc := .s n, lane := 0, off := (first + i) % 4, bytes := [b] } else none
      | some (some loc) => some { loc := loc, lane := lane, off := (first + i) % 4, bytes := [b] }
      | _ => none

/-- The register writes of a lane's bytes for a landing. -/
def Land.writes (l : Land) (lane first : Nat) (bs : List Byte) : List RegWrite :=
  match l with
  | .regs _ _ _ _ dst _ ty size low => landBytes dst ty size low lane first bs
  | _ => []

/-- The write of LDT's predicate in a lane (R90). -/
def Land.predWrite (l : Land) (lane : Nat) (v : Bool) : List RegWrite :=
  match l with
  | .regs _ _ _ _ _ (some p) _ _ _ => [{ loc := .pred p, lane := lane, off := 0, bytes := [if v then 1 else 0] }]
  | _ => []

/-- Applies a register write (R287). -/
def RegFile.land (r : RegFile) (w : RegWrite) : RegFile :=
  match w.loc with
  | .row n => { r with rows := FMap.set Row.zero r.rows n (Row.make fun l =>
      let v := (FMap.get Row.zero r.rows n).lane l
      if l = w.lane then putBytes v w.off w.bytes else v) }
  | .s n => { r with s := Vector.ofFn fun j => if j.val = n then putBytes r.s[j.val] w.off w.bytes else r.s[j.val] }
  | .pred n => r.writePred (BitVec.ofNat 3 n) (1#32 <<< w.lane) (if w.bytes.headD 0 = 0 then 0 else 0xFFFFFFFF)
  | .slot n => r.writeRec (BitVec.ofNat 5 n) (putBytes (FMap.get 0 r.k n) w.off w.bytes)
  | .tile _ => r

/-- Byte `i` of a tile's image (R231) is written; AFILL ignores bytes 8,201 on. -/
def Group.putTileByte (g : Group) (n i : Nat) (b : Byte) : Group :=
  if i < 8192 then
    let t := FMap.get ([] : Tile) g.tiles n
    { g with tiles := FMap.set [] g.tiles n (FMap.set 0 t (i / 4) (putBytes (FMap.get 0 t (i / 4)) (i % 4) [b])) }
  else if i < 8200 then { g with bounds := FMap.set 0 g.bounds n (putBytes (FMap.get 0 g.bounds n) (i - 8192) [b]) }
  else if i = 8200 then { g with thr := FMap.set 0 g.thr n (b &&& 0x3F) }
  else g

/-- Applies a register or tile write to a group. -/
def Group.land (g : Group) (w : RegWrite) : Group :=
  match w.loc with
  | .tile n => w.bytes.zipIdx.foldl (fun g (b, i) => g.putTileByte n (w.off + i) b) g
  | _ => { g with rf := g.rf.land w }

/-- The landing of one request of an instruction (R205, R287): its writes apply and its lanes return; the entry frees
with the last request. A group that has retired, or an entry that is gone, takes nothing (R187). -/
def Group.landAll (g : Group) (sb : Nat) (lanes : Mask) (ws : List RegWrite) : Group :=
  if g.live && g.sb.any fun e => e.id == sb then
    let g1 := ws.foldl Group.land g
    { g1 with sb := g1.sb.filterMap fun e =>
        if e.id = sb then (if e.left ≤ 1 then none else some { e with returned := e.returned ||| lanes, left := e.left - 1 }) else some e }
  else g

/-- The lanes of a request. -/
def Req.lanes (r : Req) : Mask := r.pieces.foldl (fun m p => m ||| (1#32 <<< p.lane)) 0

/-- Where the banked state of a block is (R62, R63). -/
inductive Home where
  | act | image | wait | gone
  deriving DecidableEq, Repr

/-- Where the banked state of a context's block on a core is. -/
def State.home (s : State) (ctx core block : Nat) : Home :=
  let x := s.ctx ctx
  if (s.block core block).live && (s.block core block).ctx == ctx then (if x.res = .resident then .act else .wait)
  else if (x.image.getD []).any fun sc => sc.core == core && sc.blocks.any fun e => e.1 == block then
    (if x.res = .spilled then .image else .wait)
  else if (FMap.get Block.empty (s.core core).sha block).live then .wait
  else .gone

/-- Changes a block where its banked state is: none while it must wait (R63). -/
def State.atHome (s : State) (ctx core block : Nat) (f : Block → Block) : Option State :=
  match s.home ctx core block with
  | .act => some (s.setBlock core block (f (s.block core block)))
  | .image => some (s.changeImage ctx core fun sc => { sc with blocks := sc.blocks.map fun (i, b) => (i, if i = block then f b else b) })
  | .wait => none
  | .gone => some s

/-- Ends the performance of a request: without a landing place it is gone; else its result waits to land. -/
def State.finish (s : State) (r : Req) (ws : List RegWrite) (bytes : List (Nat × Byte)) : State :=
  if r.land = .none then s.dropReq r.id else s.setReq { r with st := .done ws bytes }

/-- A request that cannot be performed goes to Sorrel with a cause (R278). -/
def State.failReq (s : State) (r : Req) (cause : Nat) (e : DWord) : State := s.setReq { r with st := .failed cause 0 e }

/-- Opens a page-in job for a page, or adds an event bit to the open one (R90, R91). -/
def State.postPageIn (s : State) (r : Req) (level leafAt : Nat) (leaf : DWord) (ev : Nat) : State :=
  let page := va57 r.va / levelSize level * levelSize level
  if s.jobs.any fun j => j.kind == .pageIn && j.ctx == r.ctx && j.page == page then
    { s with jobs := s.jobs.map fun j =>
        if j.kind = .pageIn ∧ j.ctx = r.ctx ∧ j.page = page then
            { j with ev := if j.ev.contains ev then j.ev else j.ev ++ [ev], also := j.also ++ [(r.party, r.seq)] } else j }
  else
    { s with nextId := s.nextId + 1, jobs := s.jobs ++ [{
        id := s.nextId, kind := .pageIn, ctx := r.ctx, part := r.part, party := r.party, also := [], handle := r.seq, src := 0, dst := 0, len := 0,
        wsr := false, ev := [ev], phase := 0, left := 0, buf := [], page := page, size := levelSize level, leafAt := leafAt,
        leaf := leaf, frame := none }] }

/-- The names that a count request changes, or the line that it reads. -/
def Got.orFail (g : Got) (s : State) (r : Req) (f : State → (Nat → Byte) → State) : State :=
  match g with
  | .fail c e => s.failReq r c e
  | .bytes t b => f t b

/-- The bytes of a request's pieces, as register writes and as the bytes of a copy, job or answer. -/
def Req.deliver (r : Req) (f : Nat → Byte) : List RegWrite × List (Nat × Byte) :=
  (r.pieces.flatMap fun p => r.land.writes p.lane p.first ((List.range p.n).map fun i => f (p.off + i)),
   r.pieces.flatMap fun p => (List.range p.n).map fun i => (p.first + i, f (p.off + i)))

/-- Register writes of one value for every lane of a request: words of the destinations in turn. -/
def Req.values (r : Req) (v : Nat → List Word) : List RegWrite :=
  r.pieces.flatMap fun p => r.land.writes p.lane 0 ((v p.lane).flatMap fun w => bytesOf w 4)

/-- The two words of a 64-bit value, the low word first (R161). -/
def twoWords (v : DWord) : List Word := [v.setWidth 32, v.extractLsb' 32 32]

/-- The bytes of a lane's access. -/
def Land.size : Land → Nat
  | .regs _ _ _ _ _ _ _ size _ => size
  | _ => 0

/-- The lanes of a probe whose access goes on in the next line take there what this line gives them. -/
def State.carryOn (s : State) (r : Req) (c : List (Nat × Option (List Byte))) : State :=
  if c.isEmpty then s else { s with reqs := s.reqs.map fun q => if q.follows r then { q with carry := q.carry ++ c } else q }

/-- What a probe's line gives a lane when its page is near: the bytes of its access so far, none when an earlier part of the
access was far. -/
def Req.soFar (r : Req) (byte : Nat → Byte) (p : Piece) : Option (List Byte) :=
  let here := (List.range p.n).map fun i => byte (p.off + i)
  match r.carry.find? fun c => c.1 == p.lane with
  | some (_, none) => none
  | some (_, some h) => some (h ++ here)
  | none => some here

/-- The line of a probe whose page LDT finds (R90, R209): near data comes back with the predicate set, once the whole access has
been found near; a far page clears the predicate and posts a page-in, once for a lane. -/
def State.probe (s : State) (r : Req) (ev pa tier : Nat) : State :=
  let ends (p : Piece) : Bool := p.first + p.n == r.land.size
  let on := r.pieces.filter fun p => !ends p
  if tier = 0 then
    if r.pieces.any fun p => (List.range p.n).any fun i => s.poisoned (pa + p.off + i) then s.failReq r 4 0
    else
      let got (p : Piece) : Option (List Byte) := r.soFar (fun i => s.seenBy r.ctx (pa + i)) p
      let ws := (r.pieces.filter ends).flatMap fun p => match got p with
        | some bs => r.land.writes p.lane 0 bs ++ r.land.predWrite p.lane true
        | none => []
      ((s.readL2 r.l1Core pa r.policy r.uses).carryOn r (on.map fun p => (p.lane, got p))).finish r ws []
  else
    match s.walk r.ctx r.va with
    | .leaf level at_ e =>
      let open_ := r.pieces.filter fun p => !r.carry.any fun c => c.1 == p.lane && c.2.isNone
      let posted := if open_.isEmpty then s else s.postPageIn r level at_ e ev
      (posted.carryOn r (on.map fun p => (p.lane, none))).finish r (open_.flatMap fun p => r.land.predWrite p.lane false) []
    | .stop c l e => s.setReq { r with st := .failed c l e }

/-- Performs an atomic or CASWAP on the old value, which stands at the lane's bytes of the line (R148, R213, R214). -/
def State.doAtomic (s : State) (r : Req) (size : Nat) (new : DWord → DWord) (after : State → DWord → State) : State :=
  match r.pieces with
  | [p] =>
    (match r.st with
     | .mapped _ 4 _ => s.finish r (r.land.writes p.lane 0 (natBytes 0 size)) []
     | _ =>
       (s.readLine r).orFail s r fun u f =>
         let old : DWord := BitVec.ofNat 64 (ofBytes ((List.range size).map fun i => f (p.off + i)))
         let t := ({ u with l2 := s.l2, cores := s.cores }).arrive (s.arrivalsOf r)
         match t.writeLine r ((bytesOf (new old) size).zipIdx.map fun (b, i) => (p.off + i, b)) with
         | .error c => s.failReq r c 0
         | .ok u => (after u old).finish r (r.land.writes p.lane 0 (bytesOf old size)) [])
  | _ => s.dropReq r.id

/-- One more than the highest lane whose access a request makes at a byte of its line, 0 for none (R203). -/
def Req.topLane (r : Req) (i : Nat) : Nat :=
  (r.pieces.filter fun p => decide (p.off ≤ i) && decide (i < p.off + p.n)).foldl (fun m p => max m (p.lane + 1)) 0

/-- A store without the bytes of its line to which another store of its instruction, made through another address of the line, brings the
value of a higher lane (R100, R203). -/
def Req.without (q r : Req) : Req :=
  match q.kind with
  | .store bs => { q with kind := .store (bs.filter fun e => decide (r.topLane e.1 ≤ q.topLane e.1)) }
  | _ => q

/-- The other stores of an instruction leave the bytes of a line to one that is performed where it has the higher lane (R203). -/
def State.laneOrder (s : State) (r : Req) : State :=
  let sib (q : Req) : Bool := q.id != r.id && q.seq == r.seq && q.party == r.party && q.core == r.core && s.sameLine q r
  { s with reqs := s.reqs.map fun q => if !q.performed && sib q then q.without r else q
           parked := s.parked.map fun p => if sib p.req then { p with req := p.req.without r } else p }

/-- The partition's content store after a change. -/
def State.caStore (s : State) (part : Nat) (f : Part → Part) : State := s.setPart part (f (s.part part))

/-- The state in which a request is performed: a system-scope release has drained the relaxed channels (R18). -/
def State.drained (s : State) (r : Req) : State := if orderRel r.order && r.scope == 3 then s.flushed r.party else s

/-- Performs a request at its execution point (R92, R206, R209, R214, R253 to R256, R286). -/
def State.perform1 (s0 : State) (r : Req) : State :=
  let s := s0.drained r
  match r.kind with
  | .load | .fetch => (s.readLine r).orFail s r fun t f => let (ws, bs) := r.deliver f; t.finish r ws bs
  | .probe ev =>
    (match r.st with
     | .mapped pa _ tier => s.probe r ev pa tier
     | _ => s)
  | .store bs =>
    (match s.writeLine r bs with
     | .error c => s.failReq r c 0
     | .ok t => (t.laneOrder r).finish r [] [])
  | .atom op size v c => s.doAtomic r size (fun m => atomNew op size m v c) fun t _ => t
  | .caswap v c =>
    s.doAtomic r 8 (fun m => if m = v then c else m) fun t old => if old = v then t.caStore r.part (·.dec old) else t
  | .pin =>
    (s.readLine r).orFail s r fun t f =>
      let n : DWord := BitVec.ofNat 64 (ofBytes ((List.range 8).map fun i => f ((r.pieces.headD ⟨0, 0, 0, 0⟩).off + i)))
      ((t.caStore r.part (·.inc n)).arrive (s.arrivalsOf r)).finish r (r.values fun _ => twoWords n) []
  | .caInsert kind line =>
    let (p, name, st) := (s.part r.part).insert s.poisoned kind line
    let a := if st = 0 then (p.entry? name).bind (·.place) else none
    let m := match a with
      | some a => s.mem.writeAll (at_ a ((List.range 128).map (CaLine.byte line)))
      | none => s.mem
    (({ s.setPart r.part p with mem := m }).arrive (s.arrivalsOf r)).finish r (r.values fun _ => twoWords name ++ [BitVec.ofNat 32 st]) []
  | .caGet name =>
    (match (s.part r.part).lineAny s.poisoned name with
     | .poisoned n => s.failReq r 4 n
     | .line l => s.finish r (r.values fun lane => [BitVec.ofNat 32 (ofBytes ((List.range 4).map fun i => l.byte (4 * lane + i)))]) [])
  | .caWalk root depth digits j =>
    (match (s.part r.part).walkName s.poisoned root depth digits j with
     | .poisoned n => s.failReq r 4 n
     | .name n =>
       (s.caStore r.part fun p => p.cacheWalk (p.path j digits depth root)).finish r (r.values fun _ => twoWords n) [])
  | .caInc name => ((s.caStore r.part (·.inc name)).arrive (s.arrivalsOf r)).finish r [] []
  | .caDec name => ((s.caStore r.part (·.dec name)).arrive (s.arrivalsOf r)).finish r [] []

end Sys2Proof.Machine
end

