-- ==== Sys2Proof/Machine/Access.lean ====
section
/-! DEFINITION. How an instruction's lanes reach memory: their targets and the checks at issue (spec/10_isa_memory.md R201
to R205; spec/19 R320, R321, R325), the scratchpad steps (R82, R83), and the requests that leave (R282). -/

namespace Sys2Proof.Machine

/-- The lanes of an access with their targets. -/
abbrev Targets := List (Nat × Tgt)

/-- The targets of the active lanes (R68, R203). -/
def Iss.targets (c : Iss) (r : BufRec) (x : BitVec 7) (e : Bool) (size : Nat) : Targets :=
  (lanesOf c.active).map fun l => (l, c.s.target c.who r (c.at_.lane x l) e size)

/-- The target of a lane. -/
def Targets.of (ts : Targets) (l : Nat) : Tgt := ((ts.find? fun t => t.1 == l).map (·.2)).getD .drop

/-- The lanes whose targets meet a condition. -/
def Targets.mask (ts : Targets) (f : Tgt → Bool) : Mask := maskOf fun l => ts.any fun t => t.1 == l && f t.2

/-- A target in a scratchpad. -/
def Tgt.isScratch : Tgt → Bool
  | .scratch _ _ _ => true
  | _ => false

/-- A target at a line. -/
def Tgt.isLine : Tgt → Bool
  | .line _ _ => true
  | _ => false

/-- A target in a scratchpad, also in one that has left its bank (R60). -/
def Tgt.isPad (t : Tgt) : Bool := t.isScratch || t == .away

/-- The requests of a party that have yet to be performed. -/
def State.owedBy (s : State) (w : Who) : List Req := s.owed.filter fun q => q.party == w.party && q.core == w.core

/-- Whether accesses of an engine class of an issuer that stand before a number have yet to be performed (R104): requests, walks, and
accesses in which other splits of the group wait. -/
def State.clsOwed (s : State) (w : Who) (cls before : Nat) : Bool :=
  ((s.owedBy w).any fun q => q.cls == cls && decide (q.seq < before)) ||
    (cls == 0 && (s.walksOwed w.party before || s.waiterOwed w.party w before fun _ => true))

/-- Whether accesses of an engine class before the instruction in hand have yet to be performed (R104, R108). -/
def Iss.clsOwed (c : Iss) (cls : Nat) : Bool := c.s.clsOwed c.who cls c.since

/-- Whether an earlier acquire of an issuer has yet to be performed (R104). -/
def State.acquireOwed (s : State) (w : Who) : Bool :=
  ((s.owedBy w).any fun q => orderAcq q.order) || s.waiterOwed w.party w s.nextId fun i => orderAcq (orderOf i)

/-- Whether an atomic of an issuer has yet to be performed (R106). -/
def State.atomicOwed (s : State) (w : Who) : Bool := (s.owedBy w).any Req.isAtomic

/-- Whether an acquire before the instruction in hand, which has yet to issue, has yet to be performed (R104). -/
def Iss.acquireOwed (c : Iss) : Bool := c.first && c.s.acquireOwed c.who

/-- Whether an entry is one of the sixteen of R205: the landing of a tile (AFILL) takes none. -/
def SbEntry.counts (e : SbEntry) : Bool := e.dsts.all fun l => match l with
  | .tile _ => false
  | _ => true

/-- Whether the scoreboard of the issuing group is full for an instruction that has yet to issue (R205); a feed thread holds no
entry. -/
def Iss.fullBoard (c : Iss) : Bool :=
  c.first && match c.who with
  | .split g _ => decide (16 ≤ ((c.s.group g).sb.filter (·.counts)).length)
  | _ => false

/-- Whether what a release of an engine class and a scope covers has yet to be performed (R18, R104, R110): the accesses of the class
before it and, at system scope, what the relaxed channels hold. -/
def Iss.releaseOwed (c : Iss) (cls : Nat) (scope : BitVec 2) : Bool :=
  c.clsOwed cls || (scope == 3 && c.s.relaxedOwed c.who.party c.since)

/-- Whether an access to a scratchpad, which is performed as it issues, has to let accesses go before it (R18, R104; assumption log 6):
those that an earlier acquire holds it behind, and those that it releases. It is not ready until they have been performed. -/
def Iss.padsHeld (c : Iss) (rel : Bool) (cls : Nat) (scope : BitVec 2) : Bool := c.acquireOwed || (c.first && rel && c.releaseOwed cls scope)

/-- The checks of an access at issue (R301, R302, R320): the bounds trap in the lanes that take it; the wait for a
scratchpad that has left its bank (R60); and, for scratchpad lanes, the accesses that go before them. -/
def Iss.checked (c : Iss) (s : State) (k : BitVec 5) (rel : Bool) (ts : Targets) (go : Answer) (cls : Nat := 0) (scope : BitVec 2 := 0) :
    Answer :=
  if ts.any fun t => t.2 == .bounds then s.trap 2 (k.setWidth 32) (ts.mask (· == .bounds)) c.pc
  else if ts.any fun t => t.2 == .away then c.unready s .operand
  else if (ts.any fun t => t.2.isScratch) && c.padsHeld rel cls scope then s.await .operand
  else go

/-- How many registers hold an access of a size. -/
def regCount (size : Nat) : Nat := (size + 3) / 4

/-- Writes a run of registers: word `i` of a lane's words goes to register `f + i`. -/
def RegFile.writeRun (r : RegFile) (f : BitVec 7) (n : Nat) (m : Mask) (v : Nat → List Word) : RegFile :=
  (List.range n).foldl (fun r i => r.write (reg f i) m fun l => (v l).getD i 0) r

/-- The words that the bytes of a load give (R202). -/
def loadWords (ty : BitVec 5) (size : Nat) (bs : List Byte) : List Word :=
  let all := if size < 4 then bs ++ extendBytes ty size (bs.getLastD 0) else bs
  (List.range (regCount size)).map fun i => BitVec.ofNat 32 (ofBytes ((all.drop (4 * i)).take 4))

/-- The bytes that a store takes from its registers (R202). -/
def RegFile.storeBytes (r : RegFile) (f : BitVec 7) (size l : Nat) : List Byte :=
  ((List.range (regCount size)).flatMap fun i => bytesOf (r.lane (reg f i) l) 4).take size

/-- The bytes of a scratchpad target; elsewhere zeros (R203). -/
def State.seen (s : State) (t : Tgt) (n : Nat) : List Byte :=
  match t with
  | .scratch core block a => (s.block core block).bytes a n
  | _ => List.replicate n 0

/-- Writes bytes at a scratchpad target; elsewhere nothing. -/
def State.put (s : State) (t : Tgt) (bs : List Byte) : State :=
  match t with
  | .scratch core block a => s.setBlock core block ((s.block core block).store a bs)
  | _ => s

/-- The lanes in which a result is written at once: for a uniform destination, those among them that are the lowest
active lane (R160). -/
def Iss.atOnce (c : Iss) (d : BitVec 7) (m : Mask) : Mask :=
  if 112 ≤ d.toNat then (match lowest c.active with
    | some l => m &&& (1#32 <<< l)
    | none => 0) else m

/-- The places of a run of registers: none for a register beyond the window. -/
def RegFile.dest (r : RegFile) (f : BitVec 7) (n : Nat) : List (Option Loc) :=
  (List.range n).map fun i =>
    let g := reg f i
    if 112 ≤ g.toNat then some (.s (g.toNat - 112)) else (r.rowOf g.toNat).map .row

/-- The slot number of a record of requests: the group slot, or the number of the feed thread (R282). -/
def State.gslotOf (s : State) (w : Who) : Nat :=
  match w with
  | .thread _ _ t => t
  | w => s.slotOf (s.groupOf w)

/-- The prefix of the instruction in hand (R154). -/
def Iss.prefix_ (c : Iss) : Pre := if isPrefixWord c.s.iword then some (Prefix.ofBits c.s.iword) else none

/-- A request of an instruction through a record, of an engine class, as it stands at issue (R201, R282). -/
def Iss.request (c : Iss) (r : BufRec) (order scope : BitVec 2) (cls : Nat) : Req :=
  let bl := c.s.blk c.who
  { id := 0, ctx := bl.ctx, part := bl.part, party := c.who.party, core := c.who.core, gslot := c.s.gslotOf c.who,
    feed := c.who.isThread, grid := bl.grid,
    cls := cls, instr := c.s.issues, held := false, kind := .load, space := recSpace r, va := 0, root := recBase r,
    extent := recExtent r, order := order, scope := scope, st := .needWalk, pieces := [], land := .none, gen := 0,
    policy := recPolicy r, uses := recUses r, op := c.s.iinstr.extractLsb' 24 8, ty := c.prefix_.ty, sub := c.prefix_.sub }

/-- A scoreboard entry is taken (R205). -/
def State.addSb (s : State) (g : GroupAt) (e : SbEntry) : State := s.setGroup g { s.group g with sb := (s.group g).sb ++ [e] }

/-- The landing of results in the registers of the issuing group. -/
def Iss.landing (c : Iss) (sb : Nat) (dst : List (Option Loc)) (pred : Option Nat) (ty : BitVec 5) (size : Nat) : Land :=
  .regs c.g.core c.g.block c.g.ix sb dst pred ty size ((lowest c.active).getD 0)

/-- The lanes of pieces. -/
def piecesMask (ps : List Piece) : Mask := ps.foldl (fun m p => m ||| (1#32 <<< p.lane)) 0

/-- Sends the requests of an instruction whose results land in registers, and takes its scoreboard entry. -/
def Iss.sendLoad (c : Iss) (t : State) (dst : List (Option Loc)) (pred : Option Nat) (ty : BitVec 5) (size : Nat)
    (rs : List Req) : State :=
  if rs.isEmpty then t
  else
    let sb := t.nextId
    let e : SbEntry :=
      { id := sb, dsts := dst.filterMap id ++ pred.toList.map Loc.pred, active := piecesMask (rs.flatMap (·.pieces)),
        returned := 0, left := rs.length }
    let t1 : State := { t with nextId := sb + 1 }
    (t1.addSb c.g e).send (rs.map fun q => { q with land := c.landing sb dst pred ty size })

/-- The line accesses of targets: lane, address and size. -/
def Targets.lines (ts : Targets) (size : Nat) : List (Nat × DWord × Nat) :=
  ts.filterMap fun (l, t) => match t with
    | .line _ va => some (l, va, size)
    | _ => none

/-- The load of each active lane (R206): scratchpad and dropped lanes at once, the others through requests. -/
def Iss.load (c : Iss) (w : MWord) (ty : BitVec 5) (size : Nat) (ts : Targets) (rf : RegFile) : State :=
  let r := c.at_.rcd w.k
  let rf' := rf.under c.at_.wbase fun r => r.writeRun w.d (regCount size) (c.atOnce w.d (ts.mask fun t => !t.isLine)) fun l =>
    loadWords ty size (c.s.seen (ts.of l) size)
  let q := c.request r w.order w.scope 0
  c.sendLoad (c.regs rf') (c.at_.dest w.d (regCount size)) none ty size
    ((gatherLines (ts.lines size)).map fun (va, ps) => { q with va := va, pieces := ps })

/-- The bytes of a line that the pieces of a store write, lane by lane (R203, R282). -/
def storePieces (ps : List Piece) (bytes : Nat → List Byte) : List (Nat × Byte) :=
  ps.flatMap fun p => (List.range p.n).map fun i => (p.off + i, (bytes p.lane).getD (p.first + i) 0)

/-- The store of each active lane (R206): scratchpad lanes at once in lane order, the others through requests. -/
def Iss.store (c : Iss) (w : MWord) (size : Nat) (ts : Targets) (t : State) : State :=
  let r := c.at_.rcd w.k
  let bytes := c.at_.storeBytes w.d size
  let t1 := ts.foldl (fun t (l, g) => t.put g (bytes l)) t
  let q := c.request r w.order w.scope 0
  t1.send ((gatherLines (ts.lines size)).map fun (va, ps) =>
    { q with va := va, pieces := ps, kind := .store (storePieces ps bytes) })

/-- The scratchpads that targets reach, each with its lanes and their addresses, in the order of first occurrence. -/
def Targets.pads (ts : Targets) : List (Nat × Nat × List (Nat × Nat)) :=
  ts.foldl (fun ps (l, t) => match t with
    | .scratch core block a =>
      if ps.any fun p => p.1 == core && p.2.1 == block then ps.map fun p => if p.1 == core && p.2.1 == block then (p.1, p.2.1, p.2.2 ++ [(l, a)]) else p
      else ps ++ [(core, block, [(l, a)])]
    | _ => ps) []

/-- The granules that lanes touch (R208). -/
def padGranules (ls : List (Nat × Nat)) (size : Nat) : List Nat := ls.flatMap fun (_, a) => granules a size

/-- Marks the granules of every target (R82, R208). -/
def State.markAll (s : State) (ts : Targets) (size : Nat) (full : Bool) : State :=
  ts.pads.foldl (fun t (core, block, ls) => t.setBlock core block ((t.block core block).mark (padGranules ls size) full)) s

/-- Whether a record may serve a full/empty instruction (R208, R325). -/
def fePlace (r : BufRec) : Bool := recSpace r == .block || recSpace r == .gang

/-- Whether a full/empty instruction of a feed thread would leave its block (R58, R334). -/
def Iss.strays (c : Iss) (ts : Targets) : Bool :=
  match c.who with
  | .thread _ b _ => ts.pads.any fun p => p.2.1 != b
  | _ => false

end Sys2Proof.Machine
end

