-- ==== Sys2Proof/Machine/Atomics.lean ====
section
/-! DEFINITION. The atomics (spec/10_isa_memory.md R213, R214; spec/03_memory.md R84, R92; spec/18 R301; spec/19 R326). -/

namespace Sys2Proof.Machine

/-- The requests of an atomic or full/empty instruction that are held at the core until its walks end (R301). -/
def State.heldOf (s : State) (id : Nat) : List Req := s.reqs.filter fun q => q.held && q.instr == id

/-- The held requests of an instruction that are given up, with its scoreboard entry. -/
def State.abandon (s : State) (w : Who) (id : Nat) : State :=
  let s1 := { s with reqs := s.reqs.filter fun q => !(q.held && q.instr == id) }
  match w with
  | .split g _ => s1.freeSb g id
  | _ => s1

/-- The held requests of an instruction go, and its wait for walks ends. -/
def State.dropHeld (s : State) (w : Who) (id : Nat) : State :=
  let s1 := s.abandon w id
  s1.setSp w { s1.sp w with walks := none }

/-- Whether a request waits for its walk. -/
def Req.walking (q : Req) : Bool := q.st == .needWalk

/-- Whether a request has come to an MMIO page (R72, R301). -/
def Req.mmio (q : Req) : Bool :=
  match q.st with
  | .mapped _ 4 _ => true
  | _ => false

/-- The requests of lanes leave together (R301). -/
def Iss.leave (c : Iss) (t : State) (id : Nat) : State :=
  c.done { t with reqs := t.reqs.map fun q => if q.held && q.instr == id then { q with held := false } else q }

/-- The requests of an atomic instruction as it issues: held, and one that returns takes its scoreboard entry, whose number is that of
the instruction (R201, R205, R301). -/
def Iss.take (c : Iss) (new : List Req) (dst : List (Option Loc)) (ty : BitVec 5) (size : Nat) (ret : Bool) : State :=
  let n := c.s.nextId
  if ret then
    let e : SbEntry := { id := n, dsts := dst.filterMap fun x => x, active := piecesMask (new.flatMap (·.pieces)), returned := 0, left := new.length }
    ((({ c.s with nextId := n + 1 } : State)).addSb c.g e).send
      (new.map fun q => { q with held := true, instr := n, land := c.landing n dst none ty size })
  else c.s.send (new.map fun q => { q with held := true, instr := n })

/-- The lanes of an atomic instruction at lines (R301): they are held until every walk has ended; a lane at MMIO is
cause 3 and no lane leaves; else they leave together. -/
def Iss.hold (c : Iss) (s : State) (k : BitVec 5) (new : List Req) (dst : List (Option Loc)) (ty : BitVec 5) (size : Nat)
    (ret : Bool) : Answer :=
  let (id, t) : Nat × State := match c.old.wait, c.old.walks with
    | some .walks, some id => (id, c.s)
    | _, _ => (c.s.nextId, c.take new dst ty size ret)
  let qs := t.heldOf id
  if qs.any (·.walking) then .next ({ c with s := t }.block .walks fun p => { p with walks := some id })
  else if qs.any (·.mmio) then
    (s.dropHeld s.cur id).trap 3 (k.setWidth 32) (piecesMask ((qs.filter (·.mmio)).flatMap (·.pieces))) c.pc
  else .next (c.leave t id)

/-- Whether the address that R68 forms for a lane is not a multiple of a size (R203, R326). -/
def odd (r : BufRec) (x : Word) (e : Bool) (size : Nat) : Bool :=
  match accessOf r x e size with
  | .at off => (addrOf r off).toNat % size != 0
  | _ => false

/-- A 64-bit view of a register or pair in a lane (R161, R214). -/
def RegFile.wide (r : RegFile) (f : BitVec 7) (size l : Nat) : DWord :=
  if size = 8 then r.pair f l else (r.lane f l).setWidth 64

/-- The scratchpad lanes of an atomic, in lane order (R84, R93, R214): the state after them, and the old bytes. -/
def State.atomPads (s : State) (size : Nat) (new : Nat → DWord → DWord) (ts : Targets) : State × List (Nat × List Byte) :=
  ts.foldl (fun (t, out) (l, g) =>
    if g.isScratch then
      let old := t.seen g size
      (t.put g (bytesOf (new l (BitVec.ofNat 64 (ofBytes old))) size), out ++ [(l, old)])
    else (t, out)) (s, [])

/-- The registers after the scratchpad lanes of an atomic have returned their old values. -/
def Iss.returned (c : Iss) (d : BitVec 7) (size : Nat) (out : List (Nat × List Byte)) : RegFile :=
  c.rf.under c.at_.wbase fun r => r.writeRun d (regCount size) (c.atOnce d (maskOf fun l => out.any fun e => e.1 == l)) fun l =>
    loadWords 0 size (((out.find? fun e => e.1 == l).map (·.2)).getD [])

/-- An atomic (R214): `ret` says whether it returns the old value. In a scratchpad, where it is performed as it issues, the group's earlier
atomics come first (R106). -/
def atomBody (s : State) (w : MWord) (ty : BitVec 5) (op : AtomOp) (cf : BitVec 7) (ret : Bool) (c : Iss) : Answer :=
  let r := c.at_.rcd w.k
  let size := tySize ty
  if noStores r || (lanesOf c.active).any fun l => odd r (c.at_.lane w.x l) w.e size then c.illegal s
  else if ret && c.fullBoard then s.await .operand
  else
    let ts := c.targets r w.x w.e size
    let v := c.at_.wide w.d size
    let x := c.at_.wide cf size
    c.checked s w.k (orderRel w.order) ts (scope := w.scope)
      (if (ts.any fun t => t.2.isScratch) && c.first && c.s.atomicOwed c.who then s.await .operand
       else if (ts.lines size).isEmpty then
        let (t, out) := c.s.atomPads size (fun l m => atomNew op size m (v l) (x l)) ts
        .next (c.done (t.setRf c.who (if ret then c.returned w.d size out else c.rf)))
       else
        c.hold s w.k ((ts.lines size).map fun (l, va, n) =>
          { c.request r w.order w.scope 0 with
            kind := .atom op size (v l) (x l), va := va - BitVec.ofNat 64 (va.toNat % 128),
            pieces := [{ lane := l, off := va.toNat % 128, n := n, first := 0 }] })
          (c.at_.dest w.d (regCount size)) ty size ret)
where
  /-- Whether a record's space takes no atomic (R325). -/
  noStores (r : BufRec) : Bool := recSpace r == .weight || recSpace r == .tree

/-- Whether a type code is unsigned (R213). -/
def unsignedTy (ty : BitVec 5) : Bool := ty == 6 || ty == 8

/-- ATOM.add (R213, R214). -/
def execAtomAdd (p : Pre) (w : MWord) (s : State) : Answer :=
  s.perform (.atomAdd p w) (atomBody s w p.ty .add 0 true)

/-- ATOM.min (R213, R214). -/
def execAtomMin (p : Pre) (w : MWord) (s : State) : Answer :=
  s.perform (.atomMin p w) (atomBody s w p.ty (if unsignedTy p.ty then .minU else .minS) 0 true)

/-- ATOM.max (R213, R214). -/
def execAtomMax (p : Pre) (w : MWord) (s : State) : Answer :=
  s.perform (.atomMax p w) (atomBody s w p.ty (if unsignedTy p.ty then .maxU else .maxS) 0 true)

/-- ATOM.and (R213, R214). -/
def execAtomAnd (p : Pre) (w : MWord) (s : State) : Answer :=
  s.perform (.atomAnd p w) (atomBody s w p.ty .and 0 true)

/-- ATOM.or (R213, R214). -/
def execAtomOr (p : Pre) (w : MWord) (s : State) : Answer :=
  s.perform (.atomOr p w) (atomBody s w p.ty .or 0 true)

/-- ATOM.xor (R213, R214). -/
def execAtomXor (p : Pre) (w : MWord) (s : State) : Answer :=
  s.perform (.atomXor p w) (atomBody s w p.ty .xor 0 true)

/-- ATOM.xchg (R213, R214). -/
def execAtomXchg (p : Pre) (w : MWord) (s : State) : Answer :=
  s.perform (.atomXchg p w) (atomBody s w p.ty .xchg 0 true)

/-- ATOM.cas (R213, R214). -/
def execAtomCas (p : Pre) (w : MWord) (s : State) : Answer :=
  s.perform (.atomCas p w) (atomBody s w p.ty .cas p.c true)

/-- ATOM.incw (R213, R214). -/
def execAtomIncw (p : Pre) (w : MWord) (s : State) : Answer :=
  s.perform (.atomIncw p w) (atomBody s w p.ty .incw 0 true)

/-- RED.add (R213, R214). -/
def execRedAdd (p : Pre) (w : MWord) (s : State) : Answer :=
  s.perform (.redAdd p w) (atomBody s w p.ty .add 0 false)

/-- RED.min (R213, R214). -/
def execRedMin (p : Pre) (w : MWord) (s : State) : Answer :=
  s.perform (.redMin p w) (atomBody s w p.ty (if unsignedTy p.ty then .minU else .minS) 0 false)

/-- RED.max (R213, R214). -/
def execRedMax (p : Pre) (w : MWord) (s : State) : Answer :=
  s.perform (.redMax p w) (atomBody s w p.ty (if unsignedTy p.ty then .maxU else .maxS) 0 false)

/-- RED.and (R213, R214). -/
def execRedAnd (p : Pre) (w : MWord) (s : State) : Answer :=
  s.perform (.redAnd p w) (atomBody s w p.ty .and 0 false)

/-- RED.or (R213, R214). -/
def execRedOr (p : Pre) (w : MWord) (s : State) : Answer :=
  s.perform (.redOr p w) (atomBody s w p.ty .or 0 false)

/-- RED.xor (R213, R214). -/
def execRedXor (p : Pre) (w : MWord) (s : State) : Answer :=
  s.perform (.redXor p w) (atomBody s w p.ty .xor 0 false)

/-- ATOMF.add (R213, R214). -/
def execAtomfAdd (p : Pre) (w : MWord) (s : State) : Answer :=
  s.perform (.atomfAdd p w) (atomBody s w 9 .fadd 0 true)

/-- ATOMF.min (R213, R214). -/
def execAtomfMin (p : Pre) (w : MWord) (s : State) : Answer :=
  s.perform (.atomfMin p w) (atomBody s w 9 .fmin 0 true)

/-- ATOMF.max (R213, R214). -/
def execAtomfMax (p : Pre) (w : MWord) (s : State) : Answer :=
  s.perform (.atomfMax p w) (atomBody s w 9 .fmax 0 true)

end Sys2Proof.Machine
end

