-- ==== Sys2Proof/Machine/Control.lean ====
section
/-! DEFINITION. The control instructions 0x01 to 0x13 (spec/09_isa_scalar.md R183 to R190; spec/18 R303 to R308; spec/19
R323). -/

namespace Sys2Proof.Machine

/-- NOP (R190). -/
def execNop (s : State) : Answer :=
  match s.begin .nop with
  | .stop o => o
  | .go c => .next (c.done c.s)

/-- A branch to one target in the lanes that take it (R185). -/
def Iss.branch (c : Iss) (s : State) (target : DWord) (t : Nat → Bool) : Answer :=
  c.resolve s c.rf fun l => if c.active.getLsbD l && t l then target else c.fall

/-- BRA (R185). -/
def execBra (p : Pre) (w : CWord) (s : State) : Answer :=
  match s.begin (.bra p w) with
  | .stop o => o
  | .go c => c.branch s (targetC c.pc w) fun _ => true

/-- BRA.r (R185): each active lane goes to the address in its pair. -/
def execBraR (p : Pre) (w : SWord) (s : State) : Answer :=
  match s.begin (.braR p w) with
  | .stop o => o
  | .go c => c.resolve s c.rf fun l => if c.active.getLsbD l then c.rf.pair w.a l else c.fall

/-- Whether some active lane meets a condition (R185). -/
def Iss.some? (c : Iss) (t : Nat → Bool) : Bool := (lanesOf c.active).any t

/-- Whether there is an active lane and every one meets a condition (R185). -/
def Iss.all? (c : Iss) (t : Nat → Bool) : Bool := c.active != 0 && (lanesOf c.active).all t

/-- BRC.any (R185): one decision for all active lanes. -/
def execBrcAny (p : Pre) (w : IWord) (s : State) : Answer :=
  match s.begin (.brcAny p w) with
  | .stop o => o
  | .go c => c.branch s (targetI c.pc p w) fun _ => c.some? fun l => (c.rf.pred (w.d.setWidth 3)).getLsbD l

/-- BRC.all (R185). -/
def execBrcAll (p : Pre) (w : IWord) (s : State) : Answer :=
  match s.begin (.brcAll p w) with
  | .stop o => o
  | .go c => c.branch s (targetI c.pc p w) fun _ => c.all? fun l => (c.rf.pred (w.d.setWidth 3)).getLsbD l

/-- BRC.z (R185). -/
def execBrcZ (p : Pre) (w : IWord) (s : State) : Answer :=
  match s.begin (.brcZ p w) with
  | .stop o => o
  | .go c => c.branch s (targetI c.pc p w) fun _ => c.all? fun l => c.rf.lane w.a l == 0

/-- BRC.nz (R185). -/
def execBrcNz (p : Pre) (w : IWord) (s : State) : Answer :=
  match s.begin (.brcNz p w) with
  | .stop o => o
  | .go c => c.branch s (targetI c.pc p w) fun _ => c.some? fun l => c.rf.lane w.a l != 0

/-- BRD (R185): each active lane decides for itself. -/
def execBrd (p : Pre) (w : IWord) (s : State) : Answer :=
  match s.begin (.brd p w) with
  | .stop o => o
  | .go c => c.branch s (targetI c.pc p w) fun l => (c.rf.pred (w.d.setWidth 3)).getLsbD l

/-- BRD.z (R185). -/
def execBrdZ (p : Pre) (w : IWord) (s : State) : Answer :=
  match s.begin (.brdZ p w) with
  | .stop o => o
  | .go c => c.branch s (targetI c.pc p w) fun l => c.rf.lane w.a l == 0

/-- BRD.nz (R185). -/
def execBrdNz (p : Pre) (w : IWord) (s : State) : Answer :=
  match s.begin (.brdNz p w) with
  | .stop o => o
  | .go c => c.branch s (targetI c.pc p w) fun l => c.rf.lane w.a l != 0

/-- The registers after a call: v110:v111 of each active lane takes the address after the call (R186). -/
def Iss.linked (c : Iss) : RegFile := c.rf.writePair 110 c.active fun _ => c.fall

/-- CALL (R186). -/
def execCall (p : Pre) (w : CWord) (s : State) : Answer :=
  match s.begin (.call p w) with
  | .stop o => o
  | .go c => c.resolve s c.linked fun l => if c.active.getLsbD l then targetC c.pc w else c.fall

/-- CALL.r (R186). -/
def execCallR (p : Pre) (w : SWord) (s : State) : Answer :=
  match s.begin (.callR p w) with
  | .stop o => o
  | .go c => c.resolve s c.linked fun l => if c.active.getLsbD l then c.rf.pair w.a l else c.fall

/-- RET (R186). -/
def execRet (p : Pre) (w : SWord) (s : State) : Answer :=
  match s.begin (.ret p w) with
  | .stop o => o
  | .go c => c.resolve s c.rf fun l => if c.active.getLsbD l then c.rf.pair 110 l else c.fall

/-- A group after its active lanes exit at a split (R187, R306). -/
def Group.exit (g : Group) (sid : Nat) (active : Mask) (fall : DWord) : Group :=
  let sp := g.split sid
  let m := sp.mask &&& ~~~active
  ((g.setSplit sid { sp with mask := m, live := m != 0, pc := if m != 0 then fall else sp.pc }).exitLanes active).retireIfDone

/-- The lanes of a group that have not exited (R27, R30). -/
def Group.lanesLeft (g : Group) : Mask :=
  g.stack.foldl (fun m e => m ||| e.mask) (g.liveSplits.foldl (fun m e => m ||| e.2.mask) 0)

/-- The lanes that wait in a barrier instruction for a phase. -/
def Group.waitingAt (g : Group) (w : Wait) (phase : Nat) : Mask :=
  g.liveSplits.foldl (fun m e => if e.2.wait = some w ∧ e.2.walks = some phase then m ||| e.2.mask else m) 0

/-- The arrival of a group at the block barrier's phase (R32, R217): once every lane that has not exited waits at BAR or
has executed BARA since the group last arrived. `next` is the number of the next object. -/
def Group.arriveB (g : Group) (phase next : Nat) : Group :=
  if g.arrB ≠ some phase ∧ g.lanesLeft &&& ~~~(g.waitingAt .bar phase ||| g.bara) = 0 ∧ g.lanesLeft ≠ 0 then
    { g with arrB := some phase, arrBAt := next, bara := 0 }
  else g

/-- EXIT (R187): the active lanes end; in a feed thread it retires the thread (R57). With no active lane it has no
effect (R323). -/
def execExit (p : Pre) (w : CWord) (s : State) : Answer :=
  match s.begin (.exit p w) with
  | .stop o => o
  | .go c =>
    match c.who with
    | .split g sid =>
      .next (c.s.setGroup g (((c.s.group g).exit sid c.active c.fall).arriveB (c.s.block g.core g.block).phase c.s.nextId))
    | .thread k b t =>
      if c.active == 0 then .next (c.done c.s)
      else .next (c.s.setBlock k b ((c.s.block k b).setThread t { (c.s.block k b).thread t with ended := true }))
    | .nobody => .next c.s

/-- WBASE (R159, R188): with no active lane the base is unchanged. -/
def execWbase (p : Pre) (w : IWord) (s : State) : Answer :=
  match s.begin (.wbase p w) with
  | .stop o => o
  | .go c => .next (c.regs (if c.active == 0 then c.rf else { c.rf with wbase := w.imm.toNat }))

/-- WBASE.r (R188, R323): the base is A of the lowest active lane; a value above 31 is illegal. -/
def execWbaseR (p : Pre) (w : SWord) (s : State) : Answer :=
  match s.begin (.wbaseR p w) with
  | .stop o => o
  | .go c =>
    match lowest c.active with
    | none => .next (c.regs c.rf)
    | some l =>
      if 31 < (c.rf.lane w.a l).toNat then c.illegal s
      else .next (c.regs { c.rf with wbase := (c.rf.lane w.a l).toNat })

/-- The other splits that were ready at the start of the cycle on the issue slot of a group, at its priority (R49, R189). -/
def State.readyPeers (s : State) (g : GroupAt) (sid : Nat) : List Who :=
  let b := s.block g.core g.block
  (s.core g.core).ready.filter fun w => match w with
    | .split h _ =>
      let d := s.block h.core h.block
      w != .split g sid && h.core == g.core && d.prio == b.prio && (d.place.slot + h.ix) % 4 == (b.place.slot + g.ix) % 4
    | _ => false

/-- YIELD (R189): the split is not ready again until every other ready split of its priority on its issue slot has
issued once, or 64 ck have passed. -/
def execYield (p : Pre) (w : CWord) (s : State) : Answer :=
  match s.begin (.yield p w) with
  | .stop o => o
  | .go c =>
    match c.who with
    | .split g sid =>
      if c.active == 0 then .next (c.done c.s)
      else
        let gr := c.s.group g
        .next (c.s.setGroup g
          (gr.setSplit sid { gr.split sid with pc := c.fall, yield := some (s.readyPeers g sid, c.s.issues, s.coreCk g.core + 64) }))
    | _ => .next (c.done c.s)

/-- TRAP n (R190): enters the handler with cause 6 and the code n; the address after it returns. With no active lane it
has no effect. -/
def execTrap (p : Pre) (w : CWord) (s : State) : Answer :=
  match s.begin (.trap p w) with
  | .stop o => o
  | .go c => if c.active == 0 then .next (c.done c.s) else s.trap 6 (w.setWidth 32) c.active c.fall

/-- A group after SPOP (R306): the split takes the address and the lanes of the entry, and its depth falls by one. -/
def Group.leaveTrap (g : Group) (sid : Nat) (e : StackEntry) (rest : List StackEntry) : Group :=
  let sp := g.split sid
  { g.setSplit sid { sp with pc := e.pc, mask := e.mask, depth := sp.depth - 1, got := e.got, walks := e.walks, snap := e.snap } with stack := rest }

/-- SPOP (R190, R306, R323): returns from a handler. With no active lane it has no effect; an empty stack or a
divergence entry on top is illegal; while other splits share its depth it waits. That it is illegal (R323) also while others share its depth
(R306) is the model's choice (assumption log 95). -/
def execSpop (p : Pre) (w : CWord) (s : State) : Answer :=
  match s.begin (.spop p w) with
  | .stop o => o
  | .go c =>
    if c.active == 0 then .next (c.done c.s)
    else match c.who with
      | .split g sid =>
        let gr := c.s.group g
        match gr.stack with
        | [] => c.illegal s
        | e :: rest =>
          if !e.trap then c.illegal s
          else if gr.liveSplits.any fun x => x.1 != sid && x.2.depth == (gr.split sid).depth then s.await .merge
          else .next (c.s.setGroup g (gr.leaveTrap sid e rest))
      | _ => .next c.s

end Sys2Proof.Machine
end

