-- ==== Sys2Proof/Machine/Convert.lean ====
section
/-! DEFINITION. The conversions 0x79 to 0x87 (spec/11_isa_matrix.md R236, R237; spec/05_numbers.md R118, R122). -/

namespace Sys2Proof.Machine

/-- A value on its way through a conversion: a floating-point value or an integer. -/
inductive CvtVal where
  | real (x : Fp)
  | int (v : Int)
  deriving DecidableEq, Repr

/-- The value that a register or pair holds for a source type (R236). -/
def cvtSource (ty : Nat) (x : DWord) : CvtVal :=
  match fmtOf ty with
  | some f => .real (f.decode (x.toNat % 2 ^ (f.fw + f.ew + 1)))
  | none =>
    .int (match ty with
      | 1 => (x.setWidth 8).toInt
      | 2 => (x.setWidth 8).toNat
      | 3 => (x.setWidth 16).toInt
      | 4 => (x.setWidth 16).toNat
      | 5 => (x.setWidth 32).toInt
      | 6 => (x.setWidth 32).toNat
      | 7 => x.toInt
      | 8 => x.toNat
      | _ => (x.setWidth 4).toInt)

/-- The least and the greatest value of an integer type (R118). -/
def intRange (ty : Nat) : Int × Int :=
  match ty with
  | 1 => (-128, 127)
  | 2 => (0, 255)
  | 3 => (-32768, 32767)
  | 4 => (0, 65535)
  | 5 => (-2147483648, 2147483647)
  | 6 => (0, 4294967295)
  | 7 => (-9223372036854775808, 9223372036854775807)
  | 8 => (0, 18446744073709551615)
  | _ => (-8, 7)

/-- A finite value rounded to an integer (R122). -/
def roundInt (rm : Rm) (neg : Bool) (m : Nat) (e : Int) : Int :=
  let num := m * pow2 e
  let den := pow2 (-e)
  let q := roundUnit rm neg (num / den) (num % den) den
  if neg then -(q : Int) else q

/-- The value of a conversion to an integer type (R122, R236). -/
def cvtInt (ty : Nat) (rm : Rm) (v : CvtVal) : DWord :=
  let (lo, hi) := intRange ty
  let clamp (x : Int) : DWord := BitVec.ofInt 64 (max lo (min x hi))
  match v with
  | .int x => clamp x
  | .real .nan => 0
  | .real (.inf neg) => BitVec.ofInt 64 (if neg then lo else hi)
  | .real (.fin neg m e) => clamp (roundInt rm neg m e)

/-- The value of a conversion to a floating-point format (R119 to R122). -/
def cvtReal (f : Fmt) (rm : Rm) (v : CvtVal) : Nat :=
  match v with
  | .int x => f.pack rm (.fin (x < 0) x.natAbs 0)
  | .real x => f.pack rm x

/-- The type that a conversion's ty names: 0 is .f32 (R163). -/
def cvtDst (p : Pre) : Nat := if p.ty = 0 then 9 else p.ty.toNat

/-- The result of a conversion (R236): bits above a narrow result are its sign for signed integers and 0 for the
others. -/
def cvt (src dst : Nat) (rm : Rm) (x : DWord) : DWord :=
  match fmtOf dst with
  | some f => BitVec.ofNat 64 (cvtReal f rm (cvtSource src x))
  | none => cvtInt dst rm (cvtSource src x)

/-- The random word of a lane's next stochastic rounding (R124). -/
def Iss.random (c : Iss) (l : Nat) : Nat := genWord ((c.s.group c.g).gen.lane l)

/-- The instruction in hand after the generators of its active lanes have stepped `n` times, under .sr (R124). -/
def Iss.stepGen (c : Iss) (rm : BitVec 3) (n : Nat) : Iss :=
  if rm = 4 then
    let gr := c.s.group c.g
    { c with s := c.s.setGroup c.g { gr with gen := gr.gen.merge c.active fun l => (List.range n).foldl (fun g _ => genNext g) (gr.gen.lane l) } }
  else c

/-- Ends a conversion of one value in each lane (R236): a 64-bit result goes to a pair. -/
def Iss.convert (c : Iss) (p : Pre) (w : RWord) (src : Nat) (x : Nat → DWord) : State :=
  let v (l : Nat) : DWord := cvt src (cvtDst p) (Rm.ofCode p.rm (c.random l)) (x l)
  let c' := c.stepGen p.rm 1
  if tyRegs p.ty = 2 then c'.result64 w.nw w.d v else c'.result w.nw w.d fun l => (v l).setWidth 32

/-- CVT.f32 (R236). -/
def execCvtFromF32 (p : Pre) (w : RWord) (s : State) : Answer :=
  s.perform (.cvtFromF32 p w) fun c => .next (c.convert p w 9 fun l => (c.opA w l).setWidth 64)

/-- CVT.f16 (R236). -/
def execCvtFromF16 (p : Pre) (w : RWord) (s : State) : Answer :=
  s.perform (.cvtFromF16 p w) fun c => .next (c.convert p w 10 fun l => (c.opA w l).setWidth 64)

/-- CVT.bf16 (R236). -/
def execCvtFromBf16 (p : Pre) (w : RWord) (s : State) : Answer :=
  s.perform (.cvtFromBf16 p w) fun c => .next (c.convert p w 11 fun l => (c.opA w l).setWidth 64)

/-- CVT.e4m3 (R236). -/
def execCvtFromE4m3 (p : Pre) (w : RWord) (s : State) : Answer :=
  s.perform (.cvtFromE4m3 p w) fun c => .next (c.convert p w 12 fun l => (c.opA w l).setWidth 64)

/-- CVT.e5m2 (R236). -/
def execCvtFromE5m2 (p : Pre) (w : RWord) (s : State) : Answer :=
  s.perform (.cvtFromE5m2 p w) fun c => .next (c.convert p w 13 fun l => (c.opA w l).setWidth 64)

/-- CVT.i32 (R236). -/
def execCvtFromI32 (p : Pre) (w : RWord) (s : State) : Answer :=
  s.perform (.cvtFromI32 p w) fun c => .next (c.convert p w 5 fun l => (c.opA w l).setWidth 64)

/-- CVT.n32 (R236). -/
def execCvtFromN32 (p : Pre) (w : RWord) (s : State) : Answer :=
  s.perform (.cvtFromN32 p w) fun c => .next (c.convert p w 6 fun l => (c.opA w l).setWidth 64)

/-- CVT.i64 (R236): the source is a pair. -/
def execCvtFromI64 (p : Pre) (w : RWord) (s : State) : Answer :=
  s.perform (.cvtFromI64 p w) fun c => .next (c.convert p w 7 (c.rf.pair w.a))

/-- CVT.n64 (R236): the source is a pair. -/
def execCvtFromN64 (p : Pre) (w : RWord) (s : State) : Answer :=
  s.perform (.cvtFromN64 p w) fun c => .next (c.convert p w 8 (c.rf.pair w.a))

/-- CVT.i16 (R236). -/
def execCvtFromI16 (p : Pre) (w : RWord) (s : State) : Answer :=
  s.perform (.cvtFromI16 p w) fun c => .next (c.convert p w 3 fun l => (c.opA w l).setWidth 64)

/-- CVT.n16 (R236). -/
def execCvtFromN16 (p : Pre) (w : RWord) (s : State) : Answer :=
  s.perform (.cvtFromN16 p w) fun c => .next (c.convert p w 4 fun l => (c.opA w l).setWidth 64)

/-- CVT.i8 (R236). -/
def execCvtFromI8 (p : Pre) (w : RWord) (s : State) : Answer :=
  s.perform (.cvtFromI8 p w) fun c => .next (c.convert p w 1 fun l => (c.opA w l).setWidth 64)

/-- CVT.n8 (R236). -/
def execCvtFromN8 (p : Pre) (w : RWord) (s : State) : Answer :=
  s.perform (.cvtFromN8 p w) fun c => .next (c.convert p w 2 fun l => (c.opA w l).setWidth 64)

/-- CVT.i4 (R236). -/
def execCvtFromI4 (p : Pre) (w : RWord) (s : State) : Answer :=
  s.perform (.cvtFromI4 p w) fun c => .next (c.convert p w 14 fun l => (c.opA w l).setWidth 64)

/-- The two converted values of CVT.pk in a lane (R237): under .sr, A is converted before B. -/
def Iss.packed (c : Iss) (p : Pre) (w : RWord) (l : Nat) : Nat × Nat :=
  let f := (fmtOf p.ty.toNat).getD fp16
  let g := (c.s.group c.g).gen.lane l
  (f.pack (Rm.ofCode p.rm (genWord g)) (f32 (c.opA w l)), f.pack (Rm.ofCode p.rm (genWord (genNext g))) (f32 (c.opB w l)))

/-- CVT.pk (R237). -/
def execCvtPk (p : Pre) (w : RWord) (s : State) : Answer :=
  s.perform (.cvtPk p w) fun c =>
    .next ((c.stepGen p.rm 2).result w.nw w.d fun l =>
      let (a, b) := c.packed p w l
      if p.ty == 0x0A || p.ty == 0x0B then BitVec.ofNat 16 b ++ BitVec.ofNat 16 a
      else (c.rf.lane w.d l).extractLsb' 16 16 ++ BitVec.ofNat 8 b ++ BitVec.ofNat 8 a)

/-- CVT.pk.hi (R237). -/
def execCvtPkHi (p : Pre) (w : RWord) (s : State) : Answer :=
  s.perform (.cvtPkHi p w) fun c =>
    .next ((c.stepGen p.rm 2).result w.nw w.d fun l =>
      let (a, b) := c.packed p w l
      BitVec.ofNat 8 b ++ BitVec.ofNat 8 a ++ (c.rf.lane w.d l).extractLsb' 0 16)

end Sys2Proof.Machine
end

