-- ==== Sys2Proof/Machine/Memory.lean ====
section
/-! DEFINITION. Loads, stores, full/empty instructions, the tier probe, the prefetch and the record instructions
(spec/10_isa_memory.md R206 to R212; spec/03_memory.md R82, R90). -/

namespace Sys2Proof.Machine

/-- A load (R206). -/
def loadBody (s : State) (w : MWord) (ty : BitVec 5) (size : Nat) (c : Iss) : Answer :=
  if c.fullBoard then s.await .operand
  else
    let ts := c.targets (c.at_.rcd w.k) w.x w.e size
    c.checked s w.k (orderRel w.order) ts (.next (c.load w ty size ts c.rf)) (scope := w.scope)

/-- LD (R206). -/
def execLd (p : Pre) (w : MWord) (s : State) : Answer := s.perform (.ld p w) (loadBody s w p.ty (tySize p.ty))

/-- LD.b128 (R206). -/
def execLdB128 (p : Pre) (w : MWord) (s : State) : Answer := s.perform (.ldB128 p w) (loadBody s w 0 16)

/-- Whether a space takes no store and no atomic (R325). -/
def noWrites (r : BufRec) : Bool := recSpace r == .weight || recSpace r == .tree

/-- A store (R206). -/
def storeBody (s : State) (w : MWord) (size : Nat) (c : Iss) : Answer :=
  if noWrites (c.at_.rcd w.k) then c.illegal s
  else
    let ts := c.targets (c.at_.rcd w.k) w.x w.e size
    c.checked s w.k (orderRel w.order) ts (.next (c.store w size ts (c.regs c.rf))) (scope := w.scope)

/-- ST (R206). -/
def execSt (p : Pre) (w : MWord) (s : State) : Answer := s.perform (.st p w) (storeBody s w (tySize p.ty))

/-- ST.b128 (R206). -/
def execStB128 (p : Pre) (w : MWord) (s : State) : Answer := s.perform (.stB128 p w) (storeBody s w 16)

/-- The steps that an LDFE takes in the scratchpads whose granules are full (R208), each in the lanes there that have taken
none: the registers, the state and the lanes that have taken their step. -/
def Iss.ldfeSteps (c : Iss) (w : MWord) (ty : BitVec 5) (size : Nat) (clr : Bool) (ts : Targets) : RegFile × State × Mask :=
  ts.pads.foldl (fun (rf, t, got) (core, block, all) =>
    let ls := all.filter fun e => !got.getLsbD e.1
    let b := t.block core block
    let gs := padGranules ls size
    if ls.isEmpty || !(gs.all b.full) then (rf, t, got)
    else
      let m := maskOf fun l => ls.any fun e => e.1 == l
      (rf.under c.at_.wbase fun r => r.writeRun w.d (regCount size) (c.atOnce w.d m) fun l => loadWords ty size (t.seen (ts.of l) size),
       if clr then t.setBlock core block (b.mark gs false) else t, got ||| m)) (c.rf, c.s, c.old.got)

/-- The scoreboard entry of an LDFE that waits (R201, R205): it is taken as the LDFE issues, and its number tells what precedes it; a
feed thread holds none. -/
def Iss.ldfeEntry (c : Iss) (t : State) (dst : List (Option Loc)) : Nat × State :=
  if c.first then
    (t.nextId, match c.who with
      | .split g _ => (({ t with nextId := t.nextId + 1 } : State)).addSb g
          { id := t.nextId, dsts := dst.filterMap fun x => x, active := c.active, returned := 0, left := 1 }
      | _ => { t with nextId := t.nextId + 1 })
  else (c.old.walks.getD 0, t)

/-- The end of an LDFE, or a trap that takes it from its wait (R204): the entry that it has taken is freed. -/
def Iss.ldfeEnd (c : Iss) (t : State) : State :=
  match c.who, c.old.wait, c.old.walks with
  | .split g _, some .ldfe, some id => t.freeSb g id
  | _, _, _ => t

/-- The lanes whose addresses lie in a scratchpad, also in one that has left its bank (R60, R208). -/
def Targets.padded (ts : Targets) : Mask := ts.mask Tgt.isPad

/-- The checks of a full/empty instruction at issue: those of an access, but that each step waits for its own scratchpad alone (R208). -/
def Iss.feChecked (c : Iss) (s t : State) (k : BitVec 5) (rel : Bool) (scope : BitVec 2) (ts : Targets) (go : Answer) : Answer :=
  if ts.any fun t => t.2 == .bounds then t.trap 2 (k.setWidth 32) (ts.mask (· == .bounds)) c.pc
  else if ts.padded != 0 && c.padsHeld rel 0 scope then s.await .operand
  else go

/-- LDFE (R208): each scratchpad's step is taken as soon as its granules are full; the instruction ends with the last
of them, and dropped lanes then receive 0. -/
def ldfeBody (s : State) (w : MWord) (ty : BitVec 5) (clr : Bool) (c : Iss) : Answer :=
  if !fePlace (c.at_.rcd w.k) then c.illegal s
  else if c.fullBoard then s.await .operand
  else
    let size := tySize ty
    let ts := c.targets (c.at_.rcd w.k) w.x w.e size
    if c.strays ts then .next (s.haltCur 1)
    else c.feChecked s (c.ldfeEnd s) w.k (orderRel w.order) w.scope ts
      (let (rf, t, got) := c.ldfeSteps w ty size clr ts
       if ts.padded &&& ~~~got = 0 then
         let zero := rf.under c.at_.wbase fun r =>
           r.writeRun w.d (regCount size) (c.atOnce w.d (ts.mask fun t => !t.isPad)) fun _ => []
         .next (c.done (c.ldfeEnd (t.setRf c.who zero)))
       else
         let (id, u) := c.ldfeEntry (t.setRf c.who rf) (c.at_.dest w.d (regCount size))
         .next ({ c with s := u }.block .ldfe fun p => { p with got := got, walks := some id }))

/-- LDFE.keep (R208). -/
def execLdfeKeep (p : Pre) (w : MWord) (s : State) : Answer := s.perform (.ldfeKeep p w) (ldfeBody s w p.ty false)

/-- LDFE.clr (R208). -/
def execLdfeClr (p : Pre) (w : MWord) (s : State) : Answer := s.perform (.ldfeClr p w) (ldfeBody s w p.ty true)

/-- The targets among some whose lanes have yet to take their step. -/
def Targets.without (ts : Targets) (got : Mask) : Targets := ts.filter fun t => !got.getLsbD t.1

/-- STFE, FESET and FECLR (R208): the data, then the granules, in each scratchpad that is there; the instruction waits for a block
that has left its bank (R60), with its place in group order. STFE and FESET release (R108). -/
def feBody (s : State) (w : MWord) (size : Nat) (full rel : Bool) (data : Bool) (c : Iss) : Answer :=
  if !fePlace (c.at_.rcd w.k) then c.illegal s
  else
    let ts := c.targets (c.at_.rcd w.k) w.x w.e size
    if c.strays ts then .next (s.haltCur 1)
    else c.feChecked s s w.k (rel || orderRel w.order) (if orderRel w.order then w.scope else 0) ts
      (let now := ts.without c.old.got
       let step (t : State) : State := (if data then c.store w size now t else t).markAll now size full
       if ts.any fun t => t.2 == .away then
         let n := if c.first then c.s.nextId else c.old.walks.getD 0
         let t := step c.s
         .next ({ c with s := { t with nextId := max t.nextId (n + 1) } }.block .away fun p =>
           { p with got := c.old.got ||| now.mask Tgt.isScratch, walks := some n })
       else .next (step (c.regs c.rf)))

/-- STFE (R208). -/
def execStfe (p : Pre) (w : MWord) (s : State) : Answer := s.perform (.stfe p w) (feBody s w (tySize p.ty) true true true)

/-- The bytes of n granules: field d holds n - 1 (R208). -/
def feBytes (w : MWord) : Nat := 16 * (w.d.toNat + 1)

/-- FESET (R208). -/
def execFeset (p : Pre) (w : MWord) (s : State) : Answer := s.perform (.feset p w) (feBody s w (feBytes w) true true false)

/-- FECLR (R208). -/
def execFeclr (p : Pre) (w : MWord) (s : State) : Answer := s.perform (.feclr p w) (feBody s w (feBytes w) false false false)

/-- Lines by ascending address, so that the line in which a lane's access begins comes before the one in which it goes on, at the top of
the address space too (R90, R209). -/
def inLine {α : Type} (ls : List (DWord × α)) : List (DWord × α) :=
  sortBy (fun x y => decide ((x.1 + 0x8000000000000000).toNat ≤ (y.1 + 0x8000000000000000).toNat)) ls

/-- LDT in the global space (R90, R209): a probe for each line; dropped lanes keep their destination and predicate. -/
def Iss.probeAll (c : Iss) (w : MWord) (ty : BitVec 5) (size : Nat) (pd : BitVec 3) (ts : Targets) : State :=
  let r := c.at_.rcd w.k
  let q := c.request r w.order w.scope 0
  c.sendLoad (c.regs c.rf) (c.at_.dest w.d (regCount size)) (some pd.toNat) ty size
    ((inLine (gatherLines (ts.lines size))).map fun (va, ps) => { q with va := va, kind := .probe (recEvent r), pieces := ps })

/-- LDT (R90, R209): in another space it acts as LD and sets the predicate in the active lanes. -/
def execLdt (p : Pre) (w : MWord) (s : State) : Answer :=
  s.perform (.ldt p w) fun c =>
    if c.fullBoard then s.await .operand
    else
      let size := tySize p.ty
      let pd : BitVec 3 := p.c.setWidth 3
      let ts := c.targets (c.at_.rcd w.k) w.x w.e size
      c.checked s w.k (orderRel w.order) ts (scope := w.scope)
        (.next (if recSpace (c.at_.rcd w.k) = .global then c.probeAll w p.ty size pd ts
          else c.load w p.ty size ts (c.rf.writePred pd c.active c.active)))

/-- The prefetch of one address (R210): a translation for reading that a TLB or a walk gives places the line; else
nothing happens. -/
def State.prefetch (s : State) (core ctx : Nat) (va : DWord) (r : BufRec) : State :=
  match s.tlb? core ctx va fun t => t.rd && t.cls == 0 with
  | some (pa, _) => s.readL2 (some core) pa (recPolicy r) (recUses r)
  | none =>
    if s.markers.contains (ctx, granuleOf va) then s
    else match s.translate ctx va .read false false with
      | .ok pa _ _ level at_ e => (s.fillWalk (some core) ctx va .read level at_ e).readL2 (some core) pa (recPolicy r) (recUses r)
      | .fail _ _ _ => s

/-- PREF (R210): a lane outside the extent does nothing, whatever the mode; so does any other space. -/
def execPref (p : Pre) (w : MWord) (s : State) : Answer :=
  s.perform (.pref p w) fun c =>
    let r := c.at_.rcd w.k
    let ctx := (c.s.blk c.who).ctx
    .next ((lanesOf c.active).foldl (fun t l =>
      let off := laneOffset r (c.at_.lane w.x l) w.e
      if recSpace r = .global ∧ 0 ≤ off ∧ off + 1 ≤ recExtent r then t.prefetch c.who.core ctx (addrOf r off) r else t)
      (c.regs c.rf))

/-- Whether an address of RLD is not a multiple of 32 (R212, R325): the address that R68 forms from the base and the offset,
in every space; the offset alone is not tested. -/
def rldOdd (r : BufRec) (x : Word) (e : Bool) : Bool :=
  match accessOf r x e 32 with
  | .at off => (addrOf r off).toNat % 32 != 0
  | _ => false

/-- RLD (R211, R212): the lowest active lane's 32 bytes go to a record slot; a dropped lane gives a record of 0. -/
def execRld (p : Pre) (w : MWord) (s : State) : Answer :=
  s.perform (.rld p w) fun c =>
    match lowest c.active with
    | none => .next (c.regs c.rf)
    | some l =>
      let r := c.at_.rcd w.k
      let kd : BitVec 5 := w.d.setWidth 5
      if rldOdd r (c.at_.lane w.x l) w.e then c.illegal s
      else if c.fullBoard then s.await .operand
      else
        let t := c.s.target c.who r (c.at_.lane w.x l) w.e 32
        let ts : Targets := [(l, t)]
        c.checked s w.k (orderRel w.order) ts (scope := w.scope)
          (.next (match t with
            | .line _ va =>
              let q := c.request r w.order w.scope 0
              c.sendLoad (c.regs c.rf) [some (.slot kd.toNat)] none 0 32
                ((gatherLines [(l, va, 32)]).map fun (va, ps) => { q with va := va, pieces := ps })
            | t => c.regs (c.rf.writeRec kd (BitVec.ofNat 256 (ofBytes (c.s.seen t 32))))))

/-- A record with one of its eight words replaced (R211). -/
def setRecWord (r : BufRec) (n : Nat) (v : Word) : BufRec :=
  (r &&& ~~~(0xFFFFFFFF#256 <<< (32 * n))) ||| (v.setWidth 256 <<< (32 * n))

/-- RSET (R211, R212). -/
def execRset (p : Pre) (w : IWord) (s : State) : Answer :=
  s.perform (.rset p w) fun c =>
    match lowest c.active with
    | none => .next (c.regs c.rf)
    | some l =>
      let k : BitVec 5 := w.d.setWidth 5
      .next (c.regs (c.rf.writeRec k (setRecWord (c.at_.rcd k) (w.imm.toNat % 8) (c.at_.lane w.a l))))

/-- RGET (R211, R212). -/
def execRget (p : Pre) (w : IWord) (s : State) : Answer :=
  s.perform (.rget p w) fun c =>
    let v := (c.at_.rcd (w.a.setWidth 5)).extractLsb' (32 * (w.imm.toNat % 8)) 32
    .next (c.regs (c.rf.write w.d c.active fun _ => v))

/-- RMOV (R211, R212). -/
def execRmov (p : Pre) (w : SWord) (s : State) : Answer :=
  s.perform (.rmov p w) fun c =>
    match lowest c.active with
    | none => .next (c.regs c.rf)
    | some _ => .next (c.regs (c.rf.writeRec (w.d.setWidth 5) (c.at_.rcd (w.a.setWidth 5))))

end Sys2Proof.Machine
end

