-- ==== Sys2Proof/Machine/Matrix.lean ====
section
/-! DEFINITION. The matrix, accumulator and bound instructions 0xE0 to 0xEE (spec/11_isa_matrix.md R222 to R240; spec/19
R327). -/

namespace Sys2Proof.Machine

/-- The tiles and FIFOs that the issuing group and its block have (R34). -/
def Iss.tileCount (c : Iss) : Nat := (c.s.blk c.who).t

/-- The FIFOs of the issuing block (R34). -/
def Iss.fifoCount (c : Iss) : Nat := (c.s.blk c.who).g * (c.s.blk c.who).f

/-- MMA, MMA.W and CMMA (R224, R226): each quarter with an active lane becomes a quarter op. That an op takes one of the 64 places of
the queue until it is promoted is the model's choice (assumption log 83). -/
def mmaBody (s : State) (w : SWord) (kind : MatKind) (ty : BitVec 5) (c : Iss) : Answer :=
  let top := w.d.toNat + (if kind = .mmaW then 7 else 3)
  if c.tileCount ≤ top ∨ c.fifoCount ≤ w.a.toNat + 3 ∨ c.fifoCount ≤ w.b.toNat then c.illegal s
  else
    let qs := (List.range 4).filter fun q => c.active.extractLsb' (8 * q) 8 != 0
    let co := c.s.core c.g.core
    if 64 < co.mq.length + qs.length then s.await .matrixFull
    else
      let ops := qs.zipIdx.map fun (q, i) =>
        ({ id := c.s.nextId + i, block := c.g.block, group := c.g.ix, q := q, kind := kind, ty := ty, tile := w.d.toNat + q,
           fa := w.a.toNat + q, fb := w.b.toNat, a := none, b := none, tb := 0, begun := false } : QOp)
      let t := c.s.setCore c.g.core { co with mq := co.mq ++ ops }
      .next (c.done { t with nextId := t.nextId + qs.length })

/-- MMA (R224): the default type is .e4m3. -/
def execMma (p : Pre) (w : SWord) (s : State) : Answer := s.perform (.mma p w) (mmaBody s w .mma (if p.ty = 0 then 0x0C else p.ty))

/-- MMA.W (R224). -/
def execMmaW (p : Pre) (w : SWord) (s : State) : Answer := s.perform (.mmaW p w) (mmaBody s w .mmaW (if p.ty = 0 then 0x0C else p.ty))

/-- CMMA (R224): the default type is .ci8. -/
def execCmma (p : Pre) (w : SWord) (s : State) : Answer := s.perform (.cmma p w) (mmaBody s w .cmma (if p.ty = 0 then 0x0F else p.ty))

/-- Whether earlier quarter ops of a group that name a tile have yet to be promoted; while the group is frozen, only
those of passes that have begun count (R223, R311). -/
def State.tileOwed (s : State) (g : GroupAt) (ns : List Nat) : Bool :=
  (s.core g.core).mq.any fun o =>
    o.block == g.block && o.group == g.ix && (o.begun || !(s.group g).freeze) && o.tiles.any ns.contains

/-- An instruction on tiles (R222, R223, R327): a tile beyond the group's is illegal; with no active lane nothing
happens; as it issues it waits for the quarter ops and the landings before it. -/
def Iss.onTiles (c : Iss) (s : State) (ns : List Nat) (go : Group → Answer) : Answer :=
  if ns.any fun n => c.tileCount ≤ n then c.illegal s
  else if c.active = 0 then .next (c.done c.s)
  else if c.first && s.tileOwed c.g ns then s.await .tile
  else if c.first && ns.any fun n => (s.group c.g).pending.contains (.tile n) then s.await .operand
  else go (c.s.group c.g)

/-- Ends an instruction that changes the issuing group. -/
def Iss.endGroup (c : Iss) (g : Group) : Answer := .next (c.done (c.s.setGroup c.g g))

/-- ACLR (R229). -/
def execAclr (p : Pre) (w : SWord) (s : State) : Answer :=
  s.perform (.aclr p w) fun c =>
    let ns := (List.range (w.a.toNat + 1)).map (· + w.d.toNat)
    c.onTiles s ns fun g => c.endGroup (ns.foldl (fun g n => (g.setTile n []).setBnd n 0) g)

/-- AMOV (R230): the tile and its bound register; the threshold stays. -/
def execAmov (p : Pre) (w : SWord) (s : State) : Answer :=
  s.perform (.amov p w) fun c =>
    c.onTiles s [w.d.toNat, w.a.toNat] fun g =>
      c.endGroup ((g.setTile w.d.toNat (g.tile w.a.toNat)).setBnd w.d.toNat (g.bnd w.a.toNat))

/-- The element of a lane that a selector names (R230): row in bits 3:0, column group in bits 5:4. -/
def selected (v : Word) (l : Nat) : Nat := 128 * (v.toNat % 16) + 32 * (v.toNat / 16 % 4) + l

/-- The selector of AMOV.get and AMOV.put: B of the lowest active lane. -/
def Iss.selector (c : Iss) (b : BitVec 7) : Word := c.at_.lane b ((lowest c.active).getD 0)

/-- AMOV.get (R230). -/
def execAmovGet (p : Pre) (w : SWord) (s : State) : Answer :=
  s.perform (.amovGet p w) fun c =>
    c.onTiles s [w.a.toNat] fun g =>
      .next (c.regs (c.rf.write w.d c.active fun l => (g.tile w.a.toNat).elem (selected (c.selector w.b) l)))

/-- AMOV.put (R230): the bound register stays. -/
def execAmovPut (p : Pre) (w : SWord) (s : State) : Answer :=
  s.perform (.amovPut p w) fun c =>
    c.onTiles s [w.d.toNat] fun g =>
      c.endGroup (g.setTile w.d.toNat ((lanesOf c.active).foldl (fun t l =>
        FMap.set 0 t (selected (c.selector w.b) l) (c.at_.lane w.a l)) (g.tile w.d.toNat)))

/-- BNDRD (R232). -/
def execBndrd (p : Pre) (w : SWord) (s : State) : Answer :=
  s.perform (.bndrd p w) fun c =>
    c.onTiles s [w.a.toNat] fun g => .next (c.regs (c.rf.writePair w.d c.active fun _ => g.bnd w.a.toNat))

/-- BNDRD.k (R232). -/
def execBndrdK (p : Pre) (w : SWord) (s : State) : Answer :=
  s.perform (.bndrdK p w) fun c =>
    c.onTiles s [w.a.toNat] fun g => .next (c.regs (c.rf.write w.d c.active fun _ => (g.threshold w.a.toNat).setWidth 32))

/-- BNDWR (R232). -/
def execBndwr (p : Pre) (w : SWord) (s : State) : Answer :=
  s.perform (.bndwr p w) fun c =>
    c.onTiles s [w.d.toNat] fun g => c.endGroup (g.setBnd w.d.toNat (c.at_.pair w.a ((lowest c.active).getD 0)))

/-- BNDTHR (R232). -/
def execBndthr (p : Pre) (w : IWord) (s : State) : Answer :=
  s.perform (.bndthr p w) fun c =>
    c.onTiles s [w.d.toNat] fun g => c.endGroup (g.setThr w.d.toNat (w.imm.setWidth 8))

/-- The over-threshold trap of an instruction that observes a tile whose ovf is set (R133, R301). -/
def Iss.observe (c : Iss) (s : State) (g : Group) (n : Nat) (go : Answer) : Answer :=
  if bndOvf (g.bnd n) then s.trap 4 (BitVec.ofNat 32 n) c.active c.pc else go

/-- BNDCHK (R232). -/
def execBndchk (p : Pre) (w : SWord) (s : State) : Answer :=
  s.perform (.bndchk p w) fun c =>
    c.onTiles s [w.d.toNat] fun g => c.observe s g w.d.toNat (.next (c.done c.s))

/-- Byte `i` of a tile's image (R231). -/
def Group.imageByte (g : Group) (n i : Nat) : Byte :=
  if i < 8192 then byteOf ((g.tile n).elem (i / 4)) (i % 4)
  else if i < 8200 then byteOf (g.bnd n) (i - 8192)
  else if i = 8200 then g.threshold n &&& 0x3F
  else 0

/-- The bytes of a tile's image (R231). -/
def imageSize : Nat := 8208

/-- The writes of a matrix instruction: lists of a target and its bytes, in order. -/
abbrev MatWrites := List (Tgt × List Byte)

/-- Performs the writes of a matrix instruction (R114, R231, R235): scratchpad bytes at once, the others through
requests of class .mat, one for each line. -/
def Iss.matStore (c : Iss) (w : MWord) (l0 : Nat) (ws : MatWrites) (t : State) : State :=
  let t1 := ws.foldl (fun t (g, bs) => t.put g bs) t
  let q := c.request (c.at_.rcd w.k) w.order w.scope 2
  let xs := ws.zipIdx.filterMap fun ((g, bs), i) => match g with
    | .line _ va => some (i, va, bs.length)
    | _ => none
  t1.send ((gatherLines xs).map fun (va, ps) =>
    { q with va := va, kind := .store (storePieces ps fun i => (ws.getD i (.drop, [])).2)
             pieces := ps.map fun p => { p with lane := l0 } })

/-- Whether a record's space takes no matrix store (R325). -/
def matIllegal (r : BufRec) : Bool := recSpace r == .weight || recSpace r == .tree

/-- ADRAIN (R231). -/
def execAdrain (p : Pre) (w : MWord) (s : State) : Answer :=
  s.perform (.adrain p w) fun c =>
    if matIllegal (c.at_.rcd w.k) then c.illegal s
    else c.onTiles s [w.d.toNat] fun g =>
      let l := (lowest c.active).getD 0
      let t := c.s.target c.who (c.at_.rcd w.k) (c.at_.lane w.x l) w.e imageSize
      c.checked s w.k (orderRel w.order) [(l, t)]
        (c.observe s g w.d.toNat
          (.next (c.matStore w l [(t, (List.range imageSize).map (g.imageByte w.d.toNat))] (c.done c.s)))) 2 w.scope

/-- The group after an image is put into a tile at once (R231). -/
def Group.fillTile (g : Group) (n : Nat) (bs : List Byte) : Group :=
  ((g.setTile n (tileOf fun k => BitVec.ofNat 32 (ofBytes ((bs.drop (4 * k)).take 4)))).setBnd n
    (BitVec.ofNat 64 (ofBytes ((bs.drop 8192).take 8)))).setThr n (bs.getD 8200 0)

/-- AFILL (R231): a dropped access loads zeros (R68). -/
def execAfill (p : Pre) (w : MWord) (s : State) : Answer :=
  s.perform (.afill p w) fun c =>
    c.onTiles s [w.d.toNat] fun g =>
      let l := (lowest c.active).getD 0
      let t := c.s.target c.who (c.at_.rcd w.k) (c.at_.lane w.x l) w.e imageSize
      c.checked s w.k (orderRel w.order) [(l, t)]
        (match t with
          | .line _ va =>
            let q := c.request (c.at_.rcd w.k) w.order w.scope 2
            .next (c.sendLoad (c.done c.s) [some (.tile w.d.toNat)] none 0 imageSize
              ((gatherLines [(l, va, imageSize)]).map fun (va, ps) => { q with va := va, pieces := ps }))
          | t => c.endGroup (g.fillTile w.d.toNat (c.s.seen t imageSize))) 2 w.scope

/-- The conversions of the rows of AST (R124, R235): for each row the scale's exponent, the encodings and conv, with
element n in lane n mod 32 and rows ascending. -/
def astRows (f : Fmt) (rm : BitVec 3) (gen : Row) (x : Nat → Fp) : List (Int × List Nat × Fp) :=
  (List.range 16).map fun i =>
    convertVec f rm ((List.range 128).map fun n =>
      (x (128 * i + n), genWord ((List.range (4 * i + n / 32)).foldl (fun g _ => genNext g) (gen.lane (n % 32)))))

/-- The spots of the sixteen rows of AST (R68, R235). -/
def astSpots (r : BufRec) (x : Word) (e : Bool) (vb : Nat) : List Spot :=
  let pitch : Int := if recStride1 r = 0 then vb else recStride1 r
  (List.range 16).map fun i => checkBounds r (laneOffset r x e + i * pitch) vb

/-- The bytes of a vector of encodings. -/
def vecBytes (n : Nat) (ys : List Nat) : List Byte := ys.flatMap fun y => natBytes y n

/-- The writes of AST (R235): each row, and with a row written at an offset that is a multiple of its size its scale and
its sidecar bound. -/
def State.astWrites (s : State) (w : Who) (r : BufRec) (n : Nat) (scaled : Bool) (pre : Fp) (spots : List Spot)
    (rows : List (Int × List Nat × Fp)) : MatWrites :=
  let vb := 128 * n
  (spots.zip rows).flatMap fun (sp, e, ys, conv) =>
    let t := s.spotTarget w r vb sp
    (t, vecBytes n ys) ::
      (match sp with
       | .at off =>
         if scaled && t.reached && off % vb == 0 then
           (if recScales r = 0 then []
            else [(s.targetAt w r (16 * recScales r + 4 * (off / vb)) 4, bytesOf (toF32 .rn (.fin false 1 e)) 4)]) ++
           (if recSidecar r = 0 then []
            else [(s.targetAt w r (16 * recSidecar r + 2 * (off / vb)) 2,
                   natBytes (bf16.pack .ru (ru (Fp.add false pre conv))) 2)])
         else []
       | _ => [])

/-- The store of a tile by AST (R233, R235): `x` gives the elements. -/
def Iss.astStore (c : Iss) (s : State) (p : Pre) (w : MWord) (n : Nat) (scaled : Bool) (g : Group)
    (rows : List (Int × List Nat × Fp)) : Answer :=
  let r := c.at_.rcd w.k
  let l := (lowest c.active).getD 0
  let pre := ru (Fp.add false (bndArith (g.bnd w.d.toNat)) (bndInh (g.bnd w.d.toNat)))
  let ws := c.s.astWrites c.who r n scaled pre (astSpots r (c.at_.lane w.x l) w.e (128 * n)) rows
  c.checked s w.k (orderRel w.order) (ws.map fun x => (l, x.1))
    (c.observe s g w.d.toNat
      (let gen := if p.rm = 4 then Row.make fun j => (List.range 64).foldl (fun g _ => genNext g) (g.gen.lane j) else g.gen
       .next (c.matStore w l ws (c.done (c.s.setGroup c.g { g with gen := gen }))))) 2 w.scope

/-- The format of a record that AST and AST.W accept with a rounding (R233, R327). -/
def astFormat (r : BufRec) (rm : BitVec 3) : Option Fmt :=
  if rm = 4 ∧ recFormat r = 9 then none else fmtOf (recFormat r)

/-- AST (R233). -/
def execAst (p : Pre) (w : MWord) (s : State) : Answer :=
  s.perform (.ast p w) fun c =>
    let r := c.at_.rcd w.k
    match astFormat r p.rm with
    | none => c.illegal s
    | some f =>
      if matIllegal r then c.illegal s
      else c.onTiles s [w.d.toNat] fun g =>
        c.astStore s p w ((f.fw + f.ew + 1) / 8) true g (astRows f p.rm g.gen fun k => f32 ((g.tile w.d.toNat).elem k))

/-- AST.W (R233): the pair's value is hi + lo, exact. -/
def execAstW (p : Pre) (w : MWord) (s : State) : Answer :=
  s.perform (.astW p w) fun c =>
    let r := c.at_.rcd w.k
    match astFormat r p.rm with
    | none => c.illegal s
    | some f =>
      if matIllegal r then c.illegal s
      else c.onTiles s [w.d.toNat, w.d.toNat + 4] fun g =>
        c.astStore s p w ((f.fw + f.ew + 1) / 8) true g (astRows f p.rm g.gen fun k =>
          Fp.add false (f32 ((g.tile w.d.toNat).elem k)) (f32 ((g.tile (w.d.toNat + 4)).elem k)))

/-- The bytes of an element of an integer format that AST.I accepts (R233). -/
def astInt (r : BufRec) : Option Nat :=
  match recFormat r with
  | 1 => some 1
  | 3 => some 2
  | 5 => some 4
  | _ => none

/-- An element saturated to n bytes (R235). -/
def saturate (n : Nat) (v : Int) : Nat :=
  let lim : Int := (2 ^ (8 * n - 1) : Nat)
  ((max (-lim) (min v (lim - 1))) % ((2 ^ (8 * n) : Nat) : Int)).toNat

/-- AST.I (R233, R235): elements saturate; neither scale nor sidecar is written. -/
def execAstI (p : Pre) (w : MWord) (s : State) : Answer :=
  s.perform (.astI p w) fun c =>
    let r := c.at_.rcd w.k
    match astInt r with
    | none => c.illegal s
    | some n =>
      if matIllegal r then c.illegal s
      else c.onTiles s [w.d.toNat] fun g =>
        c.astStore s p w n false g ((List.range 16).map fun i =>
          (0, (List.range 128).map fun j => saturate n ((g.tile w.d.toNat).elem (128 * i + j)).toInt, .fin false 0 0))

/-- The lanes' elements of CVTQ: element n of the vector for each active lane n mod 32, ascending (R238). -/
def Iss.cvtqElems (c : Iss) (a : BitVec 7) : List (Nat × Fp × Nat) :=
  ((List.range 128).filter fun n => c.active.getLsbD (n % 32)).map fun n =>
    (n, f32 (c.at_.lane (reg a (n / 32)) (n % 32)),
     genWord ((List.range (n / 32)).foldl (fun g _ => genNext g) ((c.s.group c.g).gen.lane (n % 32))))

/-- CVTQ (R238). -/
def execCvtq (p : Pre) (w : SWord) (s : State) : Answer :=
  s.perform (.cvtq p w) fun c =>
    match lowest c.active with
    | none => .next (c.done c.s)
    | some l0 =>
      let f := if p.ty = 0x0D then e5m2 else e4m3
      let ein := match f32 (c.at_.lane (reg w.b 1) l0) with
        | .nan => Fp.inf false
        | x => x.abs
      let xs := c.cvtqElems w.a
      let (e, ys, conv) := convertVec f p.rm (xs.map (·.2))
      let y (i l : Nat) : Word := match ((xs.map (·.1)).zip ys).find? fun z => z.1 == 32 * i + l with
        | some z => BitVec.ofNat 32 z.2
        | none => 0
      let rf1 := (List.range 4).foldl (fun r i => r.write (reg w.d i) c.active (y i)) c.rf
      let rf2 := rf1.write w.b c.active fun _ => toF32 .rn (.fin false 1 e)
      let rf3 := rf2.write (reg w.b 1) c.active fun _ => toF32 .ru (Fp.add false ein conv)
      .next ((c.stepGen p.rm 4).regs rf3)

/-- SRSEED (R124, R239). -/
def execSrseed (p : Pre) (w : SWord) (s : State) : Answer :=
  s.perform (.srseed p w) fun c =>
    let g := c.s.group c.g
    c.endGroup { g with gen := g.gen.merge c.active fun l => genSeed l (c.at_.lane w.a l) }

/-- Whether two values are equal numbers. -/
def Fp.same (a b : Fp) : Bool := !a.isNan && !b.isNan && Fp.cmp a b == .eq

/-- The six words of the merged softmax state of R240: the first state stands at d, the second at a. -/
def smerge (x y : Nat → Word) : List Word :=
  let m := Fp.max (f32 (x 0)) (f32 (y 0))
  let factor (v : Fp) : Fp := if Fp.same v m then .fin false 1 0 else fp32.round .rn (fp32.exp2 (fp32.round .rn (Fp.add false v m.neg)))
  let c1 := factor (f32 (x 0))
  let c2 := factor (f32 (y 0))
  toF32 .rn m :: (List.range 5).map fun i =>
    toF32 .rn (Fp.add false (Fp.mul (f32 (x (i + 1))) c1) (Fp.mul (f32 (y (i + 1))) c2))

/-- SMERGE (R240). -/
def execSmerge (p : Pre) (w : SWord) (s : State) : Answer :=
  s.perform (.smerge p w) fun c =>
    .next (c.regs (c.rf.writeRun w.d 6 c.active fun l =>
      smerge (fun i => c.at_.lane (reg w.d i) l) (fun i => c.at_.lane (reg w.a i) l)))

end Sys2Proof.Machine
end

