-- ==== Sys2Proof/Machine/Engines.lean ====
section
/-! DEFINITION. Feed threads, asynchronous copies and multicast fills (spec/12_isa_engines.md R243 to R250; spec/05_numbers.md
R125; spec/19 R330). -/

namespace Sys2Proof.Machine

/-- The feed-thread numbers in use on a core (R57, R243). -/
def Core.threadsUsed (c : Core) : List Nat := c.act.flatMap fun (_, b) => (b.threads.filter fun t => t.2.live).map (·.1)

/-- The registers of a feed thread at FORK (R244). -/
def forkRegs (r : RegFile) (l : Nat) : RegFile :=
  { rows := (List.range 8).foldl (fun m i =>
      FMap.set Row.zero m (i + 1) (Row.make fun j => if j = 0 then r.lane (BitVec.ofNat 7 (i + 1)) l else 0)) []
    s := r.s, p := Vector.replicate 8 0, k := r.k, wbase := 0, units := 2 }

/-- FORK (R243): `out` says where the handle goes. -/
def forkBody (s : State) (w : CWord) (out : Option (BitVec 7)) (c : Iss) : Answer :=
  match lowest c.active with
  | none => .next (c.done c.s)
  | some l =>
    let co := c.s.core c.g.core
    match (List.range 8).find? fun t => !co.threadsUsed.contains t with
    | none => s.await .fork
    | some t =>
      let handle : Word := co.forks ++ BitVec.ofNat 3 t
      let th : Thread :=
        { live := true, ended := false, handle := handle, forker := c.g.ix, rf := forkRegs c.at_ l,
          sp := { Split.empty with live := true, pc := targetC c.pc w, mask := 1, tried := true } }
      let rf := match out with
        | some f => c.rf.write f c.active fun _ => handle
        | none => c.rf
      let t1 := c.s.setCore c.g.core { co with forks := co.forks + 1 }
      let t2 := t1.setBlock c.g.core c.g.block ((t1.block c.g.core c.g.block).setThread t th)
      let t3 := t2.setGroup c.g { t2.group c.g with forks := (t2.group c.g).forks ++ [handle], rf := rf }
      .next (c.done t3)

/-- FORK (R243). -/
def execFork (p : Pre) (w : CWord) (s : State) : Answer := s.perform (.fork p w) (forkBody s w none)

/-- FORK with a handle register (R243). -/
def execForkHandle (p : Pre) (w : CWord) (s : State) : Answer := s.perform (.forkHandle p w) (forkBody s w (some p.c))

/-- The thread of a block that a handle names, while its fork lasts (R245). -/
def Block.threadOf (b : Block) (h : Word) : Option Nat :=
  (b.threads.find? fun t => t.2.live && t.2.handle == h).map (·.1)

/-- Whether the wait for a handle has ended (R58, R245). -/
def State.joined (s : State) (core block : Nat) (h : Word) : Bool :=
  match (s.block core block).threadOf h with
  | none => true
  | some t => ((s.block core block).thread t).ended && !(s.copies.any fun x => x.party == .thread core block t)

/-- The slots of the threads that handles name are freed (R245). -/
def Block.freeThreads (b : Block) (hs : List Word) : Block :=
  { b with threads := b.threads.filter fun t => !(t.2.live && hs.contains t.2.handle) }

/-- RDV (R245) on handles: the slot of each thread is free as the wait on it ends; when every wait has ended, the threads leave the
fork set. -/
def Iss.rendezvous (c : Iss) (s : State) (hs : List Word) : Answer :=
  let done := hs.filter fun h => s.joined c.g.core c.g.block h
  let t := c.s.setBlock c.g.core c.g.block ((c.s.block c.g.core c.g.block).freeThreads done)
  if hs.all fun h => s.joined c.g.core c.g.block h then
    .next (c.done (t.setGroup c.g { t.group c.g with forks := (t.group c.g).forks.filter fun h => !hs.contains h }))
  else { c with s := t }.await .rdv

/-- RDV (R245). -/
def execRdv (p : Pre) (w : SWord) (s : State) : Answer :=
  s.perform (.rdv p w) fun c =>
    match lowest c.active with
    | none => .next (c.done c.s)
    | some l => c.rendezvous s [c.at_.lane w.a l]

/-- RDV.all (R245). -/
def execRdvAll (p : Pre) (w : SWord) (s : State) : Answer :=
  s.perform (.rdvAll p w) fun c =>
    if c.active = 0 then .next (c.done c.s) else c.rendezvous s (c.s.group c.g).forks

/-- Whether a record's format code is reserved (R69). -/
def reservedFormat (r : BufRec) : Bool := 0x12 ≤ recFormat r

/-- Whether a number of copies fits on the issuing core, which holds 256 (R248). -/
def Iss.copiesFit (c : Iss) (n : Nat) : Bool :=
  decide ((c.s.copies.filter fun x => !x.isWalk && x.core == c.who.core).length + n ≤ 256)

/-- A copy and the requests that fill it (R248, R282): `xs` lists, for each run of bytes of the buffer, where it begins,
where its bytes come from and how many they are. Bytes of a scratchpad, and zeros, are there at once. -/
def Iss.startCopy (c : Iss) (t : State) (r : BufRec) (scope : BitVec 2) (kind : CopyKind) (size : Nat) (buf : FMap Byte)
    (xs : List (Nat × Tgt × Nat)) (lane : Nat) : State :=
  let id := t.nextId
  let lines := gatherLines (xs.filterMap fun (i, g, n) => match g with
    | .line _ va => some (i, va, n)
    | _ => none)
  let b := xs.foldl (fun m (i, g, n) => match g with
    | .line _ _ => m
    | g => (t.seen g n).zipIdx.foldl (fun m (v, k) => FMap.set 0 m (i + k) v) m) buf
  let q : Req := { c.request r 0 scope 1 with party := .job id, land := .copy id }
  let copy : Copy :=
    { id := id, ctx := (c.s.blk c.who).ctx, party := c.who.party, core := c.who.core, block := c.who.block, kind := kind,
      size := size, left := lines.length, buf := b, like := q, lane := lane }
  let t1 : State := { t with nextId := id + 1, copies := t.copies ++ [copy] }
  t1.send (lines.map fun (va, ps) =>
    { q with va := va, pieces := ps.map fun p => { p with lane := lane, first := p.lane + p.first } })

/-- The size of a scratchpad ACOPY (R246). -/
def acopySize (sub : BitVec 4) : Nat := 16 * 2 ^ (sub.extractLsb' 2 2).toNat

/-- Whether a lane's destination breaks the limits of ACOPY (R246, R330). -/
def Iss.badDest (c : Iss) (d : BitVec 7) (n l : Nat) : Bool :=
  let a := (c.at_.lane d l).toNat
  a % 16 != 0 || decide ((c.s.blk c.who).alloc < a + n)

/-- ACOPY into the scratchpad (R246): a copy for each active lane. -/
def execAcopy (p : Pre) (w : MWord) (s : State) : Answer :=
  s.perform (.acopy p w) fun c =>
    let r := c.at_.rcd w.k
    let z := acopySize p.sub
    if reservedFormat r || (lanesOf c.active).any (c.badDest w.d z) then c.illegal s
    else
      let ts := c.targets r w.x w.e z
      c.checked s w.k false ts
        (if c.active = 0 then .next (c.done c.s)
         else if c.acquireOwed then s.await .operand
         else if !c.copiesFit ts.length then s.await .copy
         else .next (ts.foldl (fun t (l, g) =>
           c.startCopy t r w.scope (.scratch (c.at_.lane w.d l).toNat (p.sub.getLsbD 0) [(c.who.core, c.who.block)]) z []
             [(0, g, z)] l) (c.done c.s)))

/-- The bytes of the FIFO pool that a partition's entries hold on a core (R247). -/
def Core.poolUsed (c : Core) (part : Nat) : Nat :=
  ((c.act ++ c.sha).flatMap fun (_, b) =>
    if b.live && b.part == part then b.fifos.flatMap fun f => f.2.map (·.size) else []).sum

/-- Whether an entry of a size fits in a FIFO (R247). -/
def Iss.entryFits (c : Iss) (f size : Nat) : Bool :=
  let b := c.s.blk c.who
  decide ((b.stream f).length < 4) &&
    decide ((c.s.core c.who.core).poolUsed b.part + size ≤ 8192 * (c.s.part b.part).ranges.fifos)

/-- The spots of an entry's rows (R68, R247). -/
def entrySpots (r : BufRec) (x : Word) (e : Bool) (rows rowbytes : Nat) : List Spot :=
  let pitch : Int := if recStride1 r = 0 then rowbytes else recStride1 r
  (List.range rows).map fun i => checkBounds r (laneOffset r x e + i * pitch) rowbytes

/-- Where the scale and the bound of vector j of a record stand (R125): offsets from the base, none when the record
has no such array or the format has none. -/
def vectorPlaces (r : BufRec) (j : Int) : Option Int × Option Int :=
  let ty := recFormat r
  (if (ty = 0x0C ∨ ty = 0x0D) ∧ recScales r ≠ 0 then some (16 * recScales r + 4 * j) else none,
   if (fmtOf ty).isSome ∧ recSidecar r ≠ 0 then some (16 * recSidecar r + 2 * j) else none)

/-- The parts of an entry's copy (R247): its rows, and after them eight bytes for each triple, the scale in the first
four and the bound in the next two. -/
def State.entryParts (s : State) (w : Who) (r : BufRec) (isB : Bool) (off0 : Int) (spots : List Spot) : List (Nat × Tgt × Nat) :=
  let ty := recFormat r
  let rb := rowBytesOf isB ty
  let pitch : Int := if recStride1 r = 0 then rb else recStride1 r
  let size := spots.length * rb
  let tgts := spots.map fun sp => s.spotTarget w r rb sp
  let vec (i : Nat) (j : Int) : List (Nat × Tgt × Nat) :=
    let (sc, sd) := vectorPlaces r j
    (sc.toList.map fun o => (size + 8 * i, s.targetAt w r o 4, 4)) ++
      (sd.toList.map fun o => (size + 8 * i + 4, s.targetAt w r o 2, 2))
  (tgts.zipIdx.map fun (t, i) => (i * rb, t, rb)) ++
    (if isB then vec 0 (off0 / ((spots.length * rb : Nat) : Int))
     else tgts.zipIdx.flatMap fun (t, i) => if t.reached then vec i ((off0 + i * pitch) / (rb : Int)) else [])

/-- The buffer of an entry before its parts arrive: each triple has scale 1 and bound 0 (R125). -/
def entryBuf (size triples : Nat) : FMap Byte :=
  (List.range triples).foldl (fun m i => (bytesOf (0x3F800000 : Word) 4).zipIdx.foldl (fun m (b, k) => FMap.set 0 m (size + 8 * i + k) b) m) []

/-- The largest magnitude among the elements of a row or tile (R125): NaNs are left out. -/
def FifoEntry.measure (e : FifoEntry) (rows : List Nat) : DWord :=
  match fmtOf e.ty.toNat with
  | some f =>
    toF64 (amaxOf (rows.flatMap fun i => (List.range (entryShape e.isB e.ty.toNat).2).map fun n => f.decode (e.raw i n)))
  | none => 0

/-- m of R125 for a format, a scale and the elements of an entry: of the FP8 formats 448 or 57,344 times |s|, of .bf16 and .f16 as
measured, of the others not used. -/
def FifoEntry.magnitude (e : FifoEntry) (s : Word) (rows : List Nat) : DWord :=
  if e.ty = 0x0C then toF64 (Fp.mul (.fin false 448 0) (f32 s).abs)
  else if e.ty = 0x0D then toF64 (Fp.mul (.fin false 57344 0) (f32 s).abs)
  else if e.ty = 0x0A ∨ e.ty = 0x0B then e.measure rows
  else 0

/-- An entry whose copy has landed (R125, R226, R247). -/
def FifoEntry.fill (e : FifoEntry) (buf : FMap Byte) : FifoEntry :=
  let e1 := { e with data := buf.filter fun x => x.1 < e.size, present := true }
  let byte (i : Nat) : Nat := (FMap.get (0 : Byte) buf i).toNat
  let word (i : Nat) : Word := BitVec.ofNat 32 (ofBytes ((List.range 4).map fun k => FMap.get 0 buf (i + k)))
  let rows := (entryShape e.isB e.ty.toNat).1
  let triple (i : Nat) (over_ : List Nat) : Triple :=
    { s := word (e.size + 8 * i), e := BitVec.ofNat 32 (65536 * (byte (e.size + 8 * i + 4) + 256 * byte (e.size + 8 * i + 5))),
      m := e1.magnitude (word (e.size + 8 * i)) over_ }
  { e1 with trips :=
      if e.isB then [(0, triple 0 (List.range rows))] else (List.range rows).map fun i => (i, triple i [i]) }

/-- ACOPY into a FIFO (R247, R248, R330): the entry takes its place in the stream at issue. -/
def fifoBody (s : State) (p : Pre) (w : MWord) (isB : Bool) (c : Iss) : Answer :=
  let r := c.at_.rcd w.k
  let f := (w.d.setWidth 5).toNat
  if c.fifoCount ≤ f || (matK (recFormat r)).isNone then c.illegal s
  else match lowest c.active with
    | none => .next (c.done c.s)
    | some l =>
        let ty := recFormat r
        let rb := rowBytesOf isB ty
        let rows := (entryShape isB ty).1
        let spots := entrySpots r (c.at_.lane w.x l) w.e rows rb
        let parts := c.s.entryParts c.who r isB (laneOffset r (c.at_.lane w.x l) w.e) spots
        c.checked s w.k false (parts.map fun x => (l, x.2.1))
          (if c.acquireOwed || s.fifosAway c.who.core (c.s.blk c.who).part then s.await .operand
           else if !c.copiesFit 1 || !c.entryFits f (rows * rb) then s.await .copy
           else
             let n := (c.at_.lane p.c l).toNat % 256
             let e : FifoEntry :=
               { id := c.s.nextId, isB := isB, ty := BitVec.ofNat 8 ty, size := rows * rb, data := [], trips := [],
                 count := if isB && n != 0 then n else 1, present := false, taken := false, bound := 0, spent := false }
             let b := c.s.blk c.who
             let t := (c.done c.s).setBlk c.who (((c.done c.s).blk c.who).setStream f (b.stream f ++ [e]))
             .next (c.startCopy { t with nextId := t.nextId + 1 } r w.scope (.fifo f e.id) (rows * rb)
               (entryBuf (rows * rb) (if isB then 1 else rows)) parts l))

/-- ACOPY.a (R247). -/
def execAcopyA (p : Pre) (w : MWord) (s : State) : Answer := s.perform (.acopyA p w) (fifoBody s p w false)

/-- ACOPY.b (R247). -/
def execAcopyB (p : Pre) (w : MWord) (s : State) : Answer := s.perform (.acopyB p w) (fifoBody s p w true)

/-- The blocks that an MFILL names (R85, R250): those of the issuing gang on the cores of the mask. -/
def Iss.fillTargets (c : Iss) (p : Pre) (l0 : Nat) : List (Nat × Nat) :=
  let m : Nat := if p.sub.getLsbD 1 then (c.at_.lane p.c l0).toNat % 16 else 2 ^ (c.who.core % 4)
  (c.s.gang (c.s.blk c.who).gang).blocks.filter fun t => t.1 / 4 == c.who.core / 4 && m.testBit (t.1 % 4)

/-- MFILL (R85, R250, R330). -/
def execMfill (p : Pre) (w : MWord) (s : State) : Answer :=
  s.perform (.mfill p w) fun c =>
    let r := c.at_.rcd w.k
    if recSpace r != .global || reservedFormat r ||
        (lanesOf c.active).any (fun l => laneOffset r (c.at_.lane w.x l) w.e % 128 != 0 || c.badDest w.d 128 l) then c.illegal s
    else match lowest c.active with
      | none => .next (c.done c.s)
      | some l0 =>
        let ts := c.targets r w.x w.e 128
        c.checked s w.k false ts
          (if c.acquireOwed then s.await .operand
           else if !c.copiesFit ts.length then s.await .copy
           else .next (ts.foldl (fun t (l, g) =>
             if (c.fillTargets p l0).isEmpty && !g.isLine then t
             else c.startCopy t r w.scope (.scratch (c.at_.lane w.d l).toNat (p.sub.getLsbD 0) (c.fillTargets p l0)) 128 []
               [(0, g, 128)] l) (c.done c.s)))

/-- ACWAIT (R249). -/
def execAcwait (p : Pre) (w : SWord) (s : State) : Answer :=
  s.perform (.acwait p w) fun c =>
    match lowest c.active with
    | none => .next (c.done c.s)
    | some l =>
      if (c.at_.lane w.a l).toNat < (c.s.copies.filter fun x => !x.isWalk && x.party == c.who.party).length then c.await .acwait
      else .next (c.done c.s)

/-- Whether the bytes of a record's base that a job reads or writes lie in segments of the partition (R86). -/
def State.jobSegs (s : State) (part : Nat) (r : BufRec) (n : Nat) : Bool := n == 0 || s.segsOk part ((recBase r).toNat % 2 ^ 32) n

/-- The length of a job of `n` bytes by the modes of its records (R251): least over the extents when one clamps or
drops. -/
def jobLength (n : Nat) (rs : List BufRec) : Nat :=
  if rs.any fun r => recMode r == .clamp || recMode r == .zero then (rs.map recExtent).foldl min n else n

/-- Whether a record of mode trap refuses a job of `n` bytes (R251). -/
def jobTraps (n : Nat) (r : BufRec) : Bool := recMode r == .trap && decide (recExtent r < n)

/-- The unfinished jobs of a context that instructions have started (R251). -/
def State.openJobs (s : State) (ctx : Nat) : Nat := (s.jobs.filter fun j => j.ctx == ctx && j.kind != .pageIn).length

/-- Starts a job (R251): it takes the group's next number, which every active lane receives; a job of no bytes completes
at once. A tree copy raises its root's count, and lowers it at its end, where the root is a usable name as it starts (R139, R150). -/
def Iss.startJob (c : Iss) (p : Pre) (w : SWord) (kind : JobKind) (dst src : BufRec) (len : Nat) : State :=
  let g := c.s.group c.g
  let bl := c.s.blk c.who
  let rf := c.rf.write w.d c.active fun _ => BitVec.ofNat 32 (g.jobs + 1)
  let t := c.done (c.s.setGroup c.g { g with jobs := g.jobs + 1, rf := rf })
  let ev := if p.sub.getLsbD 0 then [recEvent dst] else []
  if len = 0 then ev.foldl (fun t n => t.setEvent bl.ctx n) t
  else
    let t1 : State := { t with nextId := t.nextId + 1, jobs := t.jobs ++ [{
      id := t.nextId, kind := kind, ctx := bl.ctx, part := bl.part, party := c.who.party, also := [], handle := g.jobs + 1,
      src := src, dst := dst, len := len, wsr := bl.wsr, holds := kind = .tree && ((t.part bl.part).entry? (recBase src)).isSome, ev := ev, phase := 0, left := 0, buf := [], page := 0, size := 0,
      leafAt := 0, leaf := 0, frame := none }] }
    if kind = .tree then
      let a := atDigest bl.part (nameDigest (recBase src)) enginePlace
      let t2 := t1.arriving a
      (t2.setPart bl.part ((t2.part bl.part).inc (recBase src))).arrive [a]
    else t1

/-- Whether the records of a job take it at issue, with or without an active lane (R321, R330). -/
def jobRecords (dst src : BufRec) : Bool :=
  !reservedFormat dst && !reservedFormat src && (recSpace dst == .global || recSpace dst == .weight)

/-- Issues a job (R251, R330): `n` bytes, checked against the records of `rs`, slot by slot. That CACOPY may write the weight store as
BCOPY may follows R251 and R330, where R86 and R150 name BCOPY alone and ordinary memory: the model's choice (assumption log 77). -/
def Iss.bulk (c : Iss) (s : State) (p : Pre) (w : SWord) (kind : JobKind) (l0 n : Nat) (rs : List (Nat × BufRec)) (src : BufRec) : Answer :=
  let dst := c.at_.rcd (w.a.setWidth 5)
  let bl := c.s.blk c.who
  let len := jobLength n (rs.map (·.2))
  if recSpace dst == .weight && !c.s.jobSegs bl.part dst len then c.illegal s
  else match rs.find? fun r => jobTraps n r.2 with
    | some (k, _) => s.trap 2 (BitVec.ofNat 32 k) (1#32 <<< l0) c.pc
    | none =>
      if recSpace src = .reserved ∧ recMode src = .trap then s.trap 2 ((w.b.setWidth 5).setWidth 32) (1#32 <<< l0) c.pc
      else if c.acquireOwed then s.await .operand
      else if 64 ≤ c.s.openJobs bl.ctx then s.await .job
      else .next (c.startJob p w kind dst src (if recSpace src = .reserved then 0 else len))

/-- BCOPY (R251, R330). -/
def execBcopy (p : Pre) (w : SWord) (s : State) : Answer :=
  s.perform (.bcopy p w) fun c =>
    let dst := c.at_.rcd (w.a.setWidth 5)
    let src := c.at_.rcd (w.b.setWidth 5)
    let bl := c.s.blk c.who
    if !jobRecords dst src || recSpace src == .block || recSpace src == .gang || (recSpace src == .weight && !bl.wsr) then c.illegal s
    else match lowest c.active with
    | none => .next (c.done c.s)
    | some l =>
      let n := (c.at_.lane p.c l).toNat
      if recSpace src == .weight && !c.s.jobSegs bl.part src (jobLength n [dst, src]) then c.illegal s
      else c.bulk s p w .bulk l n [((w.a.setWidth 5).toNat, dst), ((w.b.setWidth 5).toNat, src)] src

/-- CACOPY (R150, R251, R330). -/
def execCacopy (p : Pre) (w : SWord) (s : State) : Answer :=
  s.perform (.cacopy p w) fun c =>
    let dst := c.at_.rcd (w.a.setWidth 5)
    let src := c.at_.rcd (w.b.setWidth 5)
    if !jobRecords dst src || recSpace src != .tree then c.illegal s
    else match lowest c.active with
    | none => .next (c.done c.s)
    | some l => c.bulk s p w .tree l (128 * treeLines (recExtent src)) [((w.a.setWidth 5).toNat, dst)] src

/-- BCWAIT (R252). -/
def execBcwait (p : Pre) (w : SWord) (s : State) : Answer :=
  s.perform (.bcwait p w) fun c =>
    match lowest c.active with
    | none => .next (c.done c.s)
    | some l =>
      if c.s.jobs.any fun j => j.kind != .pageIn && j.party == c.who.party && decide (j.handle ≤ (c.at_.lane w.a l).toNat) then
        c.await .bcwait
      else .next (c.done c.s)

end Sys2Proof.Machine
end

