-- ==== Sys2Proof/Machine/Names.lean ====
section
/-! DEFINITION. The instructions on content names (spec/12_isa_engines.md R253 to R256; spec/06_content_addressed.md; spec/19
R330, R331). Their home slices act on the requests that leave here. -/

namespace Sys2Proof.Machine

/-- A request to the home slice of a name, of class .ca (R114, R282). -/
def Iss.caRequest (c : Iss) (name : DWord) (kind : ReqKind) (pieces : List Piece) : Req :=
  { c.request 0 0 2 4 with space := .tree, va := name, kind := kind, pieces := pieces }

/-- A piece of `n` result bytes for each active lane. -/
def Iss.resultPieces (c : Iss) (n : Nat) : List Piece := (lanesOf c.active).map fun l => { lane := l, off := 0, n := n, first := 0 }

/-- The line that a register gives (R253): bytes 4l + 3 to 4l from lane l, zeros from a lane that is not active. -/
def Iss.lineFrom (c : Iss) (a : BitVec 7) : CaLine :=
  caLineOf fun i => if c.active.getLsbD (i / 4) then byteOf (c.at_.lane a (i / 4)) (i % 4) else 0

/-- CAINS and CAINS.N (R253): the name goes to pair d and the status to register b of every active lane. -/
def cainsBody (s : State) (w : SWord) (kind : Nat) (c : Iss) : Answer :=
  if c.active = 0 then .next (c.done c.s)
  else if c.fullBoard then s.await .operand
  else
    let line := c.lineFrom w.a
    .next (c.sendLoad (c.done c.s) (c.at_.dest w.d 2 ++ c.at_.dest w.b 1) none 0 12
      [c.caRequest (caDigest (c.s.part (c.s.blk c.who).part).cakey kind line ++ (0 : BitVec 12)) (.caInsert kind line) (c.resultPieces 12)])

/-- CAINS (R253). -/
def execCains (p : Pre) (w : SWord) (s : State) : Answer := s.perform (.cains p w) (cainsBody s w 1)

/-- CAINS.N (R253). -/
def execCainsN (p : Pre) (w : SWord) (s : State) : Answer := s.perform (.cainsN p w) (cainsBody s w 2)

/-- CAGET (R254): the line under the name of the lowest active lane. -/
def execCaget (p : Pre) (w : SWord) (s : State) : Answer :=
  s.perform (.caget p w) fun c =>
    match lowest c.active with
    | none => .next (c.done c.s)
    | some l =>
      if c.fullBoard then s.await .operand
      else
        let name := c.at_.pair w.a l
        .next (c.sendLoad (c.done c.s) (c.at_.dest w.d 1) none 0 4 [c.caRequest name (.caGet name) (c.resultPieces 4)])

/-- The requests of CAREF.inc and CAREF.dec, in lane order (R255): the empty name is left alone. -/
def Iss.countAll (c : Iss) (a : BitVec 7) (kind : DWord → ReqKind) : State :=
  (c.done c.s).send (((lanesOf c.active).map fun l => (l, c.at_.pair a l)).filter (·.2 != 0) |>.map fun (l, n) =>
    c.caRequest n (kind n) [{ lane := l, off := 0, n := 0, first := 0 }])

/-- CAREF.inc (R255). -/
def execCarefInc (p : Pre) (w : SWord) (s : State) : Answer :=
  s.perform (.carefInc p w) fun c => .next (c.countAll w.a .caInc)

/-- CAREF.dec (R255). -/
def execCarefDec (p : Pre) (w : SWord) (s : State) : Answer :=
  s.perform (.carefDec p w) fun c => .next (c.countAll w.a .caDec)

/-- CAREF.pin (R255): reads the root slot at the address of the lowest active lane as LD.i64.acq.dev. -/
def execCarefPin (p : Pre) (w : SWord) (s : State) : Answer :=
  s.perform (.carefPin p w) fun c =>
    match lowest c.active with
    | none => .next (c.done c.s)
    | some l =>
      let a := c.at_.pair w.a l
      if a.toNat % 8 ≠ 0 then c.illegal s
      else if c.fullBoard then s.await .operand
      else
        let ps : List Piece := (lanesOf c.active).map fun l => { lane := l, off := a.toNat % 128, n := 8, first := 0 }
        .next (c.sendLoad (c.done c.s) (c.at_.dest w.d 2) none 0 8
          [{ c.request 0 1 2 4 with kind := .pin, va := a - BitVec.ofNat 64 (a.toNat % 128), pieces := ps }])

/-- CASWAP (R148, R256, R326, R330). -/
def execCaswap (p : Pre) (w : MWord) (s : State) : Answer :=
  s.perform (.caswap p w) fun c =>
    let r := c.at_.rcd w.k
    if recSpace r != .global || (lanesOf c.active).any fun l => odd r (c.at_.lane w.x l) w.e 8 then c.illegal s
    else if c.active = 0 then .next (c.done c.s)
    else if c.fullBoard then s.await .operand
    else
      let ts := c.targets r w.x w.e 8
      c.checked s w.k (orderRel w.order) ts (scope := w.scope)
        (if (ts.lines 8).isEmpty then .next (c.done c.s)
         else
          c.hold s w.k ((ts.lines 8).map fun (l, va, n) =>
            { c.request r w.order w.scope 0 with
              kind := .caswap (c.at_.pair w.d l) (c.at_.pair p.c l), va := va - BitVec.ofNat 64 (va.toNat % 128),
              pieces := [{ lane := l, off := va.toNat % 128, n := n, first := 0 }] })
            (c.at_.dest w.d 2) 0 8 true)

end Sys2Proof.Machine
end

