-- ==== Sys2Proof/Machine/Walks.lean ====
section
/-! DEFINITION. Key-value walks and content walks (spec/12_isa_engines.md R254, R257, R258), and the landing of a copy, a
walk's line or a launch's block (spec/03_memory.md R82, R83, R85; spec/02_execution.md R63). -/

namespace Sys2Proof.Machine

/-- What a key-value walk does next (R258): a load, or the end of the walk with the bytes of its result and the first of
them in the lane's four registers. -/
inductive KvNext where
  | load (off : Int) (n : Nat) (depth : Nat) (page : Option Nat)
  | stop (first : Nat) (bytes : List Byte)
  deriving DecidableEq, Repr

/-- The end of a walk in miss (R258). -/
def KvNext.miss : KvNext := .stop 12 (bytesOf (0xFFFFFFFF : Word) 4)

/-- The first load of a walk: the root. -/
def KvNext.root : KvNext := .load 0 128 0 none

/-- A field of a node: `n` bytes from byte `i` (R257). -/
def kvField (f : Nat → Byte) (i n : Nat) : Nat := ofBytes ((List.range n).map fun k => f (i + k))

/-- The step of a walk at a node (R257, R258): its bytes, the route, the position and the depth. -/
def kvNode (f : Nat → Byte) (route : DWord) (p depth : Nat) : KvNext :=
  let start := kvField f 8 4
  let len := kvField f 12 4
  let first := kvField f 16 2
  let ptok := kvField f 18 1 % 16
  let nchild := min 16 (kvField f 19 1 % 32)
  let digit := route.toNat / 16 ^ depth % 16
  let child := kvField f (64 + 4 * digit) 4
  if p < start then .stop 12 (bytesOf (0xFFFFFFFE : Word) 4)
  else if p - start < len then
    let t := first + (p - start)
    .load ((kvField f 0 8 + 8 * (t / 2 ^ ptok) : Nat) : Int) 8 depth (some (t % 2 ^ ptok))
  else if nchild ≤ digit ∨ child = 0 ∨ depth = 15 then .miss
  else .load ((128 * child : Nat) : Int) 128 (depth + 1) none

/-- The step of a walk when a load has come back: of a node, or of the page array (R258). -/
def kvAfter (f : Nat → Byte) (route : DWord) (p depth : Nat) (page : Option Nat) : KvNext :=
  match page with
  | none => kvNode f route p depth
  | some t => .stop 0 ((List.range 8).map f ++ natBytes t 4 ++ natBytes depth 4)

/-- Whether a load of a walk lies inside its record's extent (R258): mode none checks nothing. -/
def kvInside (r : BufRec) (off : Int) (n : Nat) : Bool := recMode r == .none || (decide (0 ≤ off) && decide (off + n ≤ recExtent r))

/-- The target of a load of a walk as the issuer sees it. A load that R86 refuses, in a mode of trap too, and one through a reserved
space end the walk in miss (assumption log 44). -/
def State.kvTarget (s : State) (w : Who) (r : BufRec) (off : Int) (n : Nat) : Tgt :=
  if kvInside r off n && recSpace r != .reserved then s.targetAt w r off n else .drop

/-- A walk through a record of a scratchpad, whole: none while a scratchpad is away (R60). -/
def State.kvPads (s : State) (w : Who) (r : BufRec) (route : DWord) (p : Nat) : Nat → KvNext → Option (Nat × List Byte)
  | _, .stop first bs => some (first, bs)
  | 0, _ => none
  | fuel + 1, .load off n depth page =>
    match s.kvTarget w r off n with
    | .scratch core block a =>
      s.kvPads w r route p fuel (kvAfter (fun i => FMap.get 0 (s.block core block).scratch (a + i)) route p depth page)
    | .away => none
    | _ => some (12, bytesOf (0xFFFFFFFF : Word) 4)

/-- Writes the result of a lane's walk at once. -/
def Iss.kvWrite (c : Iss) (d : BitVec 7) (rf : RegFile) (l : Nat) (out : Nat × List Byte) : RegFile :=
  (List.range (out.2.length / 4)).foldl (fun r i =>
    r.write (reg d (out.1 / 4 + i)) (c.atOnce d (1#32 <<< l)) fun _ => BitVec.ofNat 32 (ofBytes ((out.2.drop (4 * i)).take 4))) rf

/-- Sends the requests of a load of a walk. -/
def State.kvSend (s : State) (x : Copy) (va : DWord) (n : Nat) : State :=
  let lines := gatherLines [(0, va, n)]
  let t : State := { s with copies := s.copies.map fun y => if y.id = x.id then { x with size := n, left := lines.length, buf := [] } else y }
  t.send (lines.map fun (line, ps) => { x.like with va := line, pieces := ps.map fun p => { p with lane := x.lane } })

/-- Starts the walk of a lane whose nodes stand behind requests (R258). -/
def Iss.kvStart (c : Iss) (t : State) (r : BufRec) (route : DWord) (p : Nat) (land : Land) (l : Nat) (va : DWord) : State :=
  let id := t.nextId
  let q : Req := { c.request r 0 0 0 with land := .copy id, seq := id }
  let x : Copy :=
    { id := id, ctx := q.ctx, party := c.who.party, core := c.who.core, block := c.who.block,
      kind := .kv l r route p 0 land none, size := 128, left := 0, buf := [], like := q, lane := l }
  State.kvSend { t with nextId := id + 1, copies := t.copies ++ [x] } x va 128

/-- KVWALK (R258, R330). -/
def execKvwalk (p : Pre) (w : SWord) (s : State) : Answer :=
  s.perform (.kvwalk p w) fun c =>
    let k : BitVec 5 := w.a.setWidth 5
    let r := c.at_.rcd k
    let pos (l : Nat) : Nat := (c.at_.lane w.b l).toNat
    let route (l : Nat) : DWord := c.at_.pair p.c l
    if c.active = 0 then .next (c.done c.s)
    else if recSpace r = .reserved ∧ recMode r = .trap then s.trap 2 (k.setWidth 32) c.active c.pc
    else if c.fullBoard || c.acquireOwed then s.await .operand
    else
      let ls := lanesOf c.active
      let first (l : Nat) : Tgt := if l < 32 then c.s.kvTarget c.who r 0 128 else .drop
      let go := ls.filter fun l => (first l).isLine
      let outs := (ls.filter fun l => !(first l).isLine).map fun l => (l, c.s.kvPads c.who r (route l) (pos l) 18 .root)
      if outs.any fun o => o.2.isNone then s.await .operand
      else
        let rf := outs.foldl (fun rf o => match o.2 with
          | some out => c.kvWrite w.d rf o.1 out
          | none => rf) c.rf
        let t := c.regs rf
        if go.isEmpty then .next t
        else
          let sb := t.nextId
          let dst := c.at_.dest w.d 4
          let e : SbEntry := { id := sb, dsts := dst.filterMap id, active := maskOf go.contains, returned := 0, left := go.length }
          let t1 : State := { t with nextId := sb + 1 }
          .next (go.foldl (fun t l => match first l with
            | .line _ va => c.kvStart t r (route l) (pos l) (c.landing sb dst none 0 16) l va
            | _ => t) (t1.addSb c.g e))

/-- CAWALK (R254, R330): `sub` is the height h. -/
def execCawalk (p : Pre) (w : SWord) (s : State) : Answer :=
  s.perform (.cawalk p w) fun c =>
    let r := c.at_.rcd (w.a.setWidth 5)
    if recSpace r != .tree then c.illegal s
    else if c.active = 0 then .next (c.done c.s)
    else if c.fullBoard then s.await .operand
    else
      let d := treeDepth (treeLines (recExtent r))
      let (inn, out) := (lanesOf c.active).partition fun l => decide ((c.at_.lane w.b l).toNat < 16 ^ d)
      let rf := c.rf.writePair w.d (c.atOnce w.d (maskOf out.contains)) fun _ => 0
      .next (c.sendLoad (c.regs rf) (c.at_.dest w.d 2) none 0 8 (inn.map fun l =>
        c.caRequest (recBase r) (.caWalk (recBase r) d (d - p.sub.toNat) (c.at_.lane w.b l).toNat)
          [{ lane := l, off := 0, n := 8, first := 0 }]))

/-- Takes a copy off. -/
def State.dropCopy (s : State) (id : Nat) : State := { s with copies := s.copies.filter fun x => x.id != id }

/-- The bytes of a copy. -/
def Copy.byte (x : Copy) (i : Nat) : Byte := FMap.get 0 x.buf i

/-- The address of a load of a walk, as the engine that walks sees it: none where it is outside the extent or the
partition's segments (R86, R258). -/
def State.kvAddr (s : State) (ctx : Nat) (r : BufRec) (off : Int) (n : Nat) : Option DWord :=
  if !kvInside r off n then none
  else match recSpace r with
    | .weight => if s.segsOk (s.ctx ctx).part (addrOf r off).toNat n then some (addrOf r off) else none
    | .tree => some (BitVec.ofInt 64 off)
    | _ => some (addrOf r off)

/-- Lands the end of a walk in the registers of its group. -/
def State.kvLand (s : State) (x : Copy) (l : Nat) (land : Land) (first : Nat) (bs : List Byte) : Option State :=
  match land with
  | .regs core block ix sb _ _ _ _ _ =>
    (s.atHome x.ctx core block fun b => b.setGroup ix ((b.group ix).landAll sb (1#32 <<< l) (land.writes l first bs))).map (·.dropCopy x.id)
  | _ => some (s.dropCopy x.id)

/-- A step of a walk whose load has come back: a further load, or its end. -/
def State.kvStep (s : State) (x : Copy) (l : Nat) (r : BufRec) (route : DWord) (p depth : Nat) (land : Land) (page : Option Nat) : Option State :=
  match kvAfter x.byte route p depth page with
  | .stop first bs => s.kvLand x l land first bs
  | .load off n depth' page' =>
    match s.kvAddr x.ctx r off n with
    | some va => some (s.kvSend { x with kind := .kv l r route p depth' land page' } va n)
    | none => s.kvLand x l land 12 (bytesOf (0xFFFFFFFF : Word) 4)

/-- A landing of a copy in a scratchpad, and the places where it has yet to land (R82, R83, R85). -/
def State.landScratch (s : State) (x : Copy) (dst : Nat) (full : Bool) (targets : List (Nat × Nat)) (i : Nat) : Option State :=
  match targets[i]? with
  | none => none
  | some (core, block) =>
    let bs := (List.range x.size).map x.byte
    (s.atHome x.ctx core block fun b =>
      let b1 := b.store dst bs
      if full then b1.mark (granules dst x.size) true else b1).map fun t =>
        let rest := targets.eraseIdx i
        if rest.isEmpty then t.dropCopy x.id
        else { t with copies := t.copies.map fun y => if y.id = x.id then { x with kind := .scratch dst full rest } else y }

/-- The landing of a launch parameter block in the split that waits for it (R259). -/
def State.landLpb (s : State) (x : Copy) (w : Who) : State :=
  let sp := s.sp w
  let t := s.dropCopy x.id
  if sp.walks = some x.id then
    t.setSp w { sp with lpb := some (BitVec.ofNat 1024 (ofBytes ((List.range 128).map x.byte))) }
  else t

/-- A landing of a copy whose bytes are all there (R63): none while its context's banks are between states. -/
def State.landCopy (s : State) (x : Copy) (i : Nat) : Option State :=
  match x.kind with
  | .scratch dst full targets => s.landScratch x dst full targets i
  | .fifo f e => (s.atHome x.ctx x.core x.block fun b => b.onEntry f e fun y => y.fill x.buf).map (·.dropCopy x.id)
  | .kv l r route p depth land page => s.kvStep x l r route p depth land page
  | .lpb w => some (s.landLpb x w)

/-- COPY_LANDING (R63, R82, R83, R85): a copy lands at one of its places. -/
def execCopyLanding (s : State) : Answer :=
  match s.arg with
  | .num2 id i =>
    match s.copies.find? fun x => x.id == id && x.left == 0 with
    | some x => .next ((s.landCopy x i).getD s)
    | none => .next s
  | _ => .next s

end Sys2Proof.Machine
end

