-- ==== Sys2Proof/Machine/Launch.lean ====
section
/-! DEFINITION. Launches: the launch parameter block and its checks, LAUNCH and the launch queues, and the dispatcher's
taking of launches (spec/02_execution.md R40, R41, R44, R45, R48; spec/12_isa_engines.md R259; spec/19 R332). -/

namespace Sys2Proof.Machine

/-- A launch parameter block (R40). -/
abbrev Lpb := BitVec 1024

/-- A field of a launch parameter block. -/
def lpbField (b : Lpb) (lo n : Nat) : Nat := (b.extractLsb' lo n).toNat

/-- setmask (R40). -/
def lpbSet (b : Lpb) : BitVec 256 := b.extractLsb' 512 256

/-- waitmask (R40). -/
def lpbWait (b : Lpb) : BitVec 256 := b.extractLsb' 256 256

/-- The priority of a launch (R40). -/
def lpbPrio (b : Lpb) : Nat := lpbField b 244 2

/-- Whether the kernel declares the weight store (R40). -/
def lpbWsr (b : Lpb) : Bool := b.getLsbD 243

/-- FIFOs per group (R40). -/
def lpbFifos (b : Lpb) : Nat := lpbField b 234 6

/-- Tiles per group (R40). -/
def lpbTiles (b : Lpb) : Nat := lpbField b 228 6

/-- Scratchpad rows per group (R40). -/
def lpbSprows (b : Lpb) : Nat := lpbField b 216 12

/-- Register units per group (R40). -/
def lpbUnits (b : Lpb) : Nat := lpbField b 210 6

/-- Groups per block (R40). -/
def lpbGroups (b : Lpb) : Nat := lpbField b 205 5 + 1

/-- Blocks per gang (R40). -/
def lpbBlocks (b : Lpb) : Nat := lpbField b 203 2 + 1

/-- Grid sizes (R40). -/
def lpbX (b : Lpb) : Nat := lpbField b 128 16 + 1

/-- Grid size in y. -/
def lpbY (b : Lpb) : Nat := lpbField b 144 16 + 1

/-- Grid size in z. -/
def lpbZ (b : Lpb) : Nat := lpbField b 160 16 + 1

/-- The number of gangs of a grid (R36). -/
def lpbGangs (b : Lpb) : Nat := lpbX b * lpbY b * lpbZ b

/-- The argument pointer (R40). -/
def lpbArg (b : Lpb) : DWord := b.extractLsb' 64 64

/-- The entry PC (R40). -/
def lpbEntry (b : Lpb) : DWord := b.extractLsb' 0 64

/-- Whether every reserved bit of a launch parameter block is 0 (R40). -/
def lpbClean (b : Lpb) : Bool :=
  lpbField b 768 256 == 0 && lpbField b 252 4 == 0 && lpbField b 240 3 == 0 && lpbField b 176 27 == 0

/-- Whether every field lies in its range and regunits is not 0 (R40, R332). -/
def lpbRanges (b : Lpb) : Bool :=
  decide (lpbFifos b ≤ 32) && decide (lpbTiles b ≤ 32) && decide (lpbSprows b ≤ 2048) && decide (lpbUnits b ≤ 32) && lpbUnits b != 0

/-- Whether the partition's ranges hold one block (R41). -/
def lpbFits (r : Ranges) (b : Lpb) : Bool :=
  let g := lpbGroups b
  decide (g * lpbFifos b ≤ 32) && decide (g * lpbSprows b ≤ 2048) && decide (g ≤ r.slots) && decide (g * 16 * lpbUnits b ≤ r.rows) &&
    decide (g * lpbSprows b ≤ r.sprows) && decide (g * lpbTiles b ≤ r.tiles) && decide (g * lpbFifos b ≤ r.fifos)

/-- The first reason of R332 for which a launch parameter block that has been read is refused. -/
def lpbRefused (r : Ranges) (b : Lpb) : Option Nat :=
  if !lpbClean b then some 2
  else if !lpbRanges b then some 3
  else if !instrAddr (lpbEntry b) then some 5
  else if !lpbFits r b then some 4
  else none

/-- LREFUSE after a refusal (R332): the count saturates and the reason is the latest. -/
def refusedReg (v : Word) (why : Nat) : Word :=
  let n := (v.extractLsb' 16 16).toNat
  BitVec.ofNat 16 (satAdd n 0xFFFF) ++ BitVec.ofNat 16 why

/-- A refused launch (R332). -/
def State.refuse (s : State) (ctx why : Nat) : State := s.setCtx ctx { s.ctx ctx with lrefuse := refusedReg (s.ctx ctx).lrefuse why }

/-- A launch queue of a context (R44). -/
def Ctx.queue (x : Ctx) (p : Nat) : List Lpb := FMap.get [] x.lq p

/-- Replaces a launch queue. -/
def Ctx.setQueue (x : Ctx) (p : Nat) (l : List Lpb) : Ctx := { x with lq := FMap.set [] x.lq p l }

/-- A launch parameter block that has passed its checks enters its queue (R44): none while that holds 64 entries. -/
def State.enqueue (s : State) (ctx : Nat) (b : Lpb) : Option State :=
  let x := s.ctx ctx
  if 64 ≤ (x.queue (lpbPrio b)).length then none else some (s.setCtx ctx (x.setQueue (lpbPrio b) (x.queue (lpbPrio b) ++ [b])))

/-- What offering a launch parameter block that has been read to a context's queue does (R44, R332): it is refused, it is
queued, or it waits for room. -/
def State.offer (s : State) (ctx : Nat) (b : Lpb) : Option State :=
  match lpbRefused (s.part (s.ctx ctx).part).ranges b with
  | some why => some (s.refuse ctx why)
  | none => s.enqueue ctx b

/-- The check and the queueing of a LAUNCH whose block has been read (R259, R332): first that its offset is a multiple of 128. A LAUNCH
that waits for room has been checked. -/
def Iss.offer (c : Iss) (aligned : Bool) (b : Lpb) : Answer :=
  let ctx := (c.s.blk c.who).ctx
  match if c.old.wait = some .launch then c.s.enqueue ctx b else if aligned then c.s.offer ctx b else some (c.s.refuse ctx 1) with
  | some t => .next (c.done t)
  | none => .next (c.block .launch fun p => { p with lpb := some b })

/-- The number of a LAUNCH in group order (R102): the one that it took when it came to wait for the accesses that it releases. -/
def Iss.launchId (c : Iss) : Nat := if c.old.wait = some .release then c.since else c.s.nextId

/-- LAUNCH (R259, R332). A record base that is not a multiple of 128, under an aligned offset, names the 128 bytes from there: R332 refuses by
the offset alone, and what R40's alignment then asks is the model's choice (assumption log 90). -/
def execLaunch (p : Pre) (w : SWord) (s : State) : Answer :=
  s.perform (.launch p w) fun c =>
    match lowest c.active with
    | none => .next (c.done c.s)
    | some l =>
      let k : BitVec 5 := w.a.setWidth 5
      let r := c.at_.rcd k
      let x := c.at_.lane w.b l
      let aligned := laneOffset r x false % 128 == 0
      match c.old.lpb with
      | some b => c.offer aligned b
      | none =>
        if c.old.wait = some .lpb then c.await .lpb
        else
          let id := c.launchId
          let u : State := { c.s with nextId := max c.s.nextId (id + 1) }
          if c.clsOwed 0 then .next ({ c with s := u }.block .release fun p => { p with walks := some id })
          else
            let g := c.s.target c.who r x false 128
            c.checked s k true [(l, g)]
              (match g with
                | .line _ va =>
                  let q : Req := { c.request r 0 2 0 with land := .copy id, seq := id }
                  let y : Copy :=
                    { id := id, ctx := q.ctx, party := c.who.party, core := c.who.core, block := c.who.block, kind := .lpb c.who,
                      size := 128, left := 0, buf := [], like := q, lane := l }
                  let t := State.kvSend { u with copies := c.s.copies ++ [y] } y va 128
                  .next ({ c with s := t }.block .lpb fun p => { p with walks := some id })
                | g => c.offer aligned (BitVec.ofNat 1024 (ofBytes (c.s.seen g 128))))

/-- The launch parameter block that a write of LAUNCHQ names as it arrives, as the context reads it (R25, R262). The read is accounted at no home
slice: the model's choice (assumption log 27). -/
def State.namedLpb (s : State) (ctx : Nat) (v : Word) : Lpb :=
  BitVec.ofNat 1024 (ofBytes (s.seenBytes ctx ((s.ctx ctx).launchqhi.toNat * 2 ^ 32 + v.toNat) 128))

/-- A write of LAUNCHQ (R262, R318, R332): none while the queue that the block names is full; one that has waited keeps the block `held` that it
named as it arrived. That a write through the window of a number that holds no context is dropped, as R318 has it for a killed one, is
the model's choice (assumption log 91). -/
def State.launchq (s : State) (ctx : Nat) (v : Word) (held : Option Lpb) : Option State :=
  let x := s.ctx ctx
  if x.killed || !x.created then some s
  else match held with
    | some b => s.enqueue ctx b
    | none => if v.toNat % 128 ≠ 0 then some (s.refuse ctx 1) else s.offer ctx (s.namedLpb ctx v)

/-- LAUNCHQ (R262): a write that waits changes nothing. -/
def execLaunchq (s : State) : Answer :=
  match s.arg with
  | .write ctx v => .next ((s.launchq ctx v none).getD s)
  | _ => .next s

/-- The taken launches of a context that have not retired (R45). -/
def State.takenOf (s : State) (ctx : Nat) : Nat := (s.grids.filter fun g => g.2.live && g.2.ctx == ctx).length

/-- Whether a bulk copy that writes the weight store of a partition is pending or running (R88). -/
def State.weightWrite (s : State) (part : Nat) : Bool :=
  s.jobs.any fun j => j.kind != .pageIn && j.part == part && recSpace j.dst == .weight

/-- Whether the head of a launch queue can be taken (R45, R88, R318). -/
def State.canTake (s : State) (ctx p : Nat) : Bool :=
  let x := s.ctx ctx
  match x.queue p with
  | [] => false
  | b :: _ =>
    x.created && !x.killed && lpbWait b &&& ~~~x.ev == 0 && decide (s.takenOf ctx < 8) && !(lpbWsr b && s.weightWrite x.part)

/-- LAUNCH_TAKE (R45): the head leaves its queue and becomes a grid; the event vector is unchanged. -/
def execLaunchTake (s : State) : Answer :=
  match s.arg with
  | .num2 ctx p =>
    let x := s.ctx ctx
    match x.queue p with
    | b :: rest =>
      if s.canTake ctx p then
        let t := s.setCtx ctx (x.setQueue p rest)
        .next { t.setGrid t.nextId { live := true, ctx := ctx, lpb := b, next := 0, retired := 0 } with nextId := t.nextId + 1 }
      else .next s
    | [] => .next s
  | _ => .next s

/-- The least `m` up to `fuel` with 2^m at least `n` (R43). -/
def log2Up (n fuel : Nat) : Nat := ((List.range fuel).find? fun m => n ≤ 2 ^ m).getD fuel

/-- A point of the Morton curve (R43). -/
def mortonPoint (d : Nat) : Nat → Nat × Nat
  | 0 => (0, 0)
  | m + 1 =>
    let (x, y) := mortonPoint d m
    (x + 2 ^ m * (d / 2 ^ (2 * m) % 2), y + 2 ^ m * (d / 2 ^ (2 * m + 1) % 2))

/-- The Hilbert curve of R43: `m` doublings remain, the side so far is `s`, and `t` holds the digits to come. -/
def hilbertPoint : Nat → Nat → Nat → Nat → Nat → Nat × Nat
  | 0, _, _, x, y => (x, y)
  | m + 1, s, t, x, y =>
    let rx := t / 2 % 2
    let ry := (t % 2 + rx) % 2
    let (x1, y1) := if ry = 0 then (if rx = 1 then (s - 1 - y, s - 1 - x) else (y, x)) else (x, y)
    hilbertPoint m (2 * s) (t / 4) (x1 + s * rx) (y1 + s * ry)

/-- The point of a curve that is the `j`-th inside the plane (R43): `d` counts along the curve. -/
def curveFind (point : Nat → Nat × Nat) (gx gy : Nat) : Nat → Nat → Nat → Nat × Nat
  | 0, _, _ => (0, 0)
  | fuel + 1, d, j =>
    let (x, y) := point d
    if x < gx ∧ y < gy then (if j = 0 then (x, y) else curveFind point gx gy fuel (d + 1) (j - 1))
    else curveFind point gx gy fuel (d + 1) j

/-- A point of a band order (R43): the place along the banded side and the place along the other side. -/
def bandPoint (w side other j : Nat) : Nat × Nat :=
  let band := j / (w * other)
  let bw := if band = side / w then side - band * w else w
  let k := j - band * w * other
  (band * w + k % bw, k / bw)

/-- plane_point of R43. -/
def planePoint (b : Lpb) (j : Nat) : Nat × Nat :=
  let gx := lpbX b
  let gy := lpbY b
  let swz := lpbField b 248 4
  let m := log2Up (max gx gy) 17
  match lpbField b 246 2 with
  | 0 => bandPoint (if swz ≠ 0 then 2 ^ swz else gx) gx gy j
  | 1 => let (y, x) := bandPoint (if swz ≠ 0 then 2 ^ swz else gy) gy gx j
         (x, y)
  | 2 => curveFind (fun d => mortonPoint d m) gx gy (4 ^ m) 0 j
  | _ => curveFind (fun d => hilbertPoint m 1 d 0 0) gx gy (4 ^ m) 0 j

/-- index_of of R43. -/
def gangIndex (b : Lpb) (n : Nat) : Nat × Nat × Nat :=
  let plane := lpbX b * lpbY b
  let (x, y) := planePoint b (n % plane)
  (x, y, n / plane)

end Sys2Proof.Machine
end

