-- ==== Sys2Proof/Machine/Ready.lean ====
section
/-! DEFINITION. Which split or feed thread an issue slot would issue (spec/02_execution.md R49, R57, R59; spec/09 R189;
spec/18 R304; spec/21 R357). -/

namespace Sys2Proof.Machine

/-- A split on an issue slot: its place, its group slot, its priority and itself. -/
structure Cand where
  g : GroupAt
  sid : Nat
  slot : Nat
  prio : Nat
  sp : Split
  deriving DecidableEq, Repr

/-- The live splits of an issue slot, by group slot and split position (R26, R49). -/
def State.onSlot (s : State) (core slot : Nat) : List Cand :=
  sortBy (fun x y => decide (4 * x.slot + x.sp.pos ≤ 4 * y.slot + y.sp.pos)) ((s.core core).act.flatMap fun (b, bl) =>
    if bl.live then
      bl.groups.flatMap fun (i, g) =>
        if g.live && (bl.place.slot + i) % 4 == slot then
          g.liveSplits.map fun (k, sp) => { g := ⟨core, b, i⟩, sid := k, slot := bl.place.slot + i, prio := bl.prio, sp := sp }
        else []
    else [])

/-- The greatest trap depth among the splits of a group. -/
def Group.topDepth (g : Group) : Nat := g.liveSplits.foldl (fun m e => max m e.2.depth) 0

/-- Whether the depth rule lets a split of a group issue (R304). -/
def Group.depthOk (g : Group) (sp : Split) : Bool := sp.depth == 0 || sp.depth == g.topDepth

/-- Whether another split of the group stands inside a chain span, which alone may then issue (R52). -/
def State.spanOther (s : State) (g : GroupAt) (sid : Nat) : Bool :=
  let gr := s.group g
  match gr.last with
  | some k => k != sid && (gr.split k).live && s.inSpan g.core (s.block g.core g.block).ctx (gr.split k)
  | none => false

/-- Whether the instruction in which a split waits has completed, so that the split leaves it at its next turn (R217, R221). -/
def State.leaving (s : State) (g : GroupAt) (sp : Split) : Bool :=
  match sp.wait with
  | some .bar | some .barw => sp.walks.any (· != (s.block g.core g.block).phase)
  | some .gbar => sp.walks.any (· != (s.gang (s.block g.core g.block).gang).phase)
  | some .event => sp.walks == some 256
  | _ => false

/-- Whether two splits merge (R28, R31, R304): at the start of a cycle and before a pop; equal PCs and depths, and neither in a
span. A split whose instruction has completed while it waited leaves it first (assumption log 67). -/
def State.canMerge (s : State) (g : GroupAt) (i j : Nat) : Bool :=
  let gr := s.group g
  let x := gr.split i
  let y := gr.split j
  let ctx := (s.block g.core g.block).ctx
  i != j && gr.live && x.live && y.live && x.pc == y.pc && x.depth == y.depth && !s.leaving g x && !s.leaving g y &&
    !s.lined && !(s.core g.core).sits && !gr.popped && !(gr.last == some i && s.inSpan g.core ctx x) && !(gr.last == some j && s.inSpan g.core ctx y)

/-- The pairs of different elements of a list, each pair once. -/
def pairsOf : List Nat → List (Nat × Nat)
  | [] => []
  | x :: xs => xs.map (fun y => (x, y)) ++ pairsOf xs

/-- The pairs of splits of a group that merge now. -/
def State.merges (s : State) (g : GroupAt) : List (Nat × Nat) :=
  (pairsOf ((s.group g).liveSplits.map (·.1))).filter fun (i, j) => s.canMerge g i j

/-- The divergence entry that a group pops now (R31): at the start of a cycle, after merging, and one in a cycle. -/
def State.popsNow (s : State) (g : GroupAt) : Option StackEntry :=
  let gr := s.group g
  if gr.live ∧ gr.popped = false ∧ gr.liveSplits.length < 4 ∧ s.lined = false ∧ (s.core g.core).sits = false ∧ s.merges g = [] then (match gr.stack with
    | e :: _ => if e.trap then none else some e
    | [] => none) else none

/-- Whether a group has splits to merge or an entry to pop before a split of it issues (R28, R31). -/
def State.unsettled (s : State) (g : GroupAt) : Bool := !(s.merges g).isEmpty || (s.popsNow g).isSome

/-- Whether a split inside a chain span issues next (R49, R52). -/
def State.spanning (s : State) (c : Cand) : Bool :=
  (s.group c.g).last == some c.sid && s.inSpan c.g.core (s.block c.g.core c.g.block).ctx c.sp

/-- Whether the wait of a YIELD has ended: every split that it waits for has issued or is gone (R189). -/
def State.yieldOver (s : State) (sp : Split) : Bool :=
  match sp.yield with
  | none => true
  | some (peers, n, _) => peers.all fun w => !s.lives w || decide (n < (s.sp w).stamp)

/-- Whether a context may issue on a core: no swap brings it in just now (R59). -/
def Core.mayIssue (c : Core) (ctx : Nat) : Bool := !(c.swaps.any fun w => w.coming == some ctx)

/-- Whether a split may be given its turn in this cycle (R28, R31, R49, R52, R59, R189, R304). Once the pre-emption of its context is
requested on the core, a split issues only inside a chain span, as the request phase of R59 says; R35 and R60 have the groups issue
as usual until the core's own Tb, and taking R59 here is the model's choice (assumption log 71). -/
def State.canTurn (s : State) (c : Cand) : Bool :=
  let co := s.core c.g.core
  let ctx := (s.block c.g.core c.g.block).ctx
  s.lives (.split c.g c.sid) && !c.sp.tried && co.mayIssue ctx && !s.spanOther c.g c.sid && (s.group c.g).depthOk c.sp && s.yieldOver c.sp &&
    !s.unsettled c.g && (!(co.preempt.contains ctx || (s.ctx ctx).killed) || s.spanning c)

/-- The order of R49 on an issue slot: the split in a span first; then the highest priority; within it the smallest
stamp greater than the one last issued, wrapping. -/
def State.slotOrder (s : State) (core slot : Nat) (cs : List Cand) : List Cand :=
  let last (p : Nat) : Option Nat := (s.core core).last.find? (fun e => e.1 == 4 * p + slot) |>.map (·.2)
  let after (c : Cand) : Bool := match last c.prio with
    | some a => decide (a < c.sp.age)
    | none => true
  let before (x y : Cand) : Bool :=
    if s.spanning x != s.spanning y then s.spanning x
    else if x.prio ≠ y.prio then decide (x.prio < y.prio)
    else if after x != after y then after x
    else decide (x.sp.age ≤ y.sp.age)
  sortBy before cs

/-- The splits of an issue slot that may be given a turn, in their order. -/
def State.turns (s : State) (core slot : Nat) : List Cand := s.slotOrder core slot ((s.onSlot core slot).filter s.canTurn)

/-- The feed threads of a core that may be given a turn, in round-robin order (R57, R245). -/
def State.feedTurns (s : State) (core : Nat) : List Who :=
  let co := s.core core
  let all := co.act.flatMap fun (b, bl) =>
    if bl.live && co.mayIssue bl.ctx && !co.preempt.contains bl.ctx && !(s.ctx bl.ctx).killed then
      (bl.threads.filter fun t => s.lives (.thread core b t.1) && !t.2.sp.tried).map fun t => (b, t.1)
    else []
  let o := sortBy (fun x y => decide (x.2 ≤ y.2)) all
  ((o.filter fun t => co.feedLast < t.2) ++ o.filter fun t => !(co.feedLast < t.2)).map fun t => .thread core t.1 t.2

/-- The resident groups of a context: core, block, index and group. -/
def State.groupsOf (s : State) (ctx : Nat) : List (Nat × Nat × Nat × Group) :=
  s.cores.flatMap fun (c, co) => co.act.flatMap fun (b, bl) =>
    if bl.live && bl.ctx == ctx then (bl.groups.filter fun g => g.2.live).map fun g => (c, b, g.1, g.2) else []

/-- Whether a context has a gang that is not placed or a launch that is not taken (R65). -/
def State.undispatched (s : State) (ctx : Nat) : Bool :=
  (s.grids.any fun g => g.2.live && g.2.ctx == ctx && decide (g.2.next < lpbGangs g.2.lpb)) ||
    ((s.ctx ctx).lq.any fun q => !q.2.isEmpty)

end Sys2Proof.Machine
end

