-- ==== Sys2Proof/Machine/Sync.lean ====
section
/-! DEFINITION. Fences, barriers, named queues and events (spec/10_isa_memory.md R215 to R221; spec/02_execution.md R32, R46,
R54 to R56; spec/04_ordering.md R108, R114). -/

namespace Sys2Proof.Machine

/-- Whether a read or write of an issuer before a number, which a fence orders, has yet to be performed (R104, R215): an
acquire fence covers the reads, a release fence the reads and writes, those in which other splits wait too. -/
def State.fenceOwed (s : State) (w : Who) (rel : Bool) (before : Nat) : Bool :=
  ((s.owedBy w).any fun q => q.cls == 0 && decide (q.seq < before) && (rel || q.need != .write)) || s.walksOwed w.party before ||
    s.waiterOwed w.party w before fun i => rel || !writesOnly i

/-- FENCE (R104, R113, R215): it completes once the requests that it covers have been performed, parked ones included, and no request
before it is parked, so that none after it passes that; at system scope the relaxed channels drain too (R18). FENCE.rlx completes at
issue (R326). -/
def execFence (p : Pre) (w : MWord) (s : State) : Answer :=
  s.perform (.fence p w) fun c =>
    let acq := orderAcq w.order
    let rel := orderRel w.order
    if (acq || rel) && (c.s.fenceOwed c.who rel c.since || c.s.parkedBefore c.who.party c.since || (w.scope == 3 && c.s.relaxedOwed c.who.party c.since)) then c.awaitSince (.fence acq rel)
    else .next (c.done (if (acq || rel) && w.scope == 3 then c.s.flushed c.who.party else c.s))

/-- Whether a job counts as one that an issuer has started before a number (R112, R114): a page-in does by the probe that posted
or joined it. -/
def Job.startedBy (j : Job) (w : Who) (before : Nat) : Bool :=
  if j.kind = .pageIn then (j.party == w.party && decide (j.handle < before)) || j.also.any fun e => e.1 == w.party && decide (e.2 < before)
  else j.party == w.party && decide (j.id < before)

/-- Whether accesses of an engine class that an issuer has started before a number have yet to be performed (R114,
R215): requests, copies, and jobs with the probes that may post one. -/
def State.classOwed (s : State) (w : Who) (cls before : Nat) : Bool :=
  ((s.owedBy w).any fun q => decide (q.seq < before) && (q.cls == cls || (cls == 3 && (match q.kind with
    | .probe _ => true
    | _ => false)))) ||
  (cls == 1 && s.copies.any fun x => !x.isWalk && x.party == w.party && x.core == w.core && decide (x.id < before)) ||
  (cls == 0 && (s.walksOwed w.party before || s.waiterOwed w.party w before fun _ => true)) ||
  (cls == 3 && s.jobs.any fun j => j.startedBy w before)

/-- XFENCE (R113, R114, R215). -/
def execXfence (p : Pre) (w : MWord) (s : State) : Answer :=
  s.perform (.xfence p w) fun c =>
    let src := (w.d.extractLsb' 0 3).toNat
    let dst := (w.d.extractLsb' 3 3).toNat
    if c.s.classOwed c.who src c.since || c.s.parkedBefore c.who.party c.since || (w.scope == 3 && c.s.relaxedOwed c.who.party c.since) then c.awaitSince (.xfence dst)
    else .next (c.done (if w.scope == 3 then c.s.flushed c.who.party else c.s))

/-- A barrier wait of the issuing split, with the phase that it waits for (R217). -/
def Iss.awaitPhase (c : Iss) (w : Wait) (phase : Nat) : State := c.block w fun p => { p with walks := some phase }

/-- Whether the phase for which the issuing split waits has completed (R217). -/
def Iss.phasePassed (c : Iss) (phase : Nat) : Bool := c.old.walks.any (· != phase)

/-- BAR (R32, R217): the split waits; the group arrives when all its lanes wait; the split leaves when the phase has
completed. -/
def execBar (s : State) : Answer :=
  s.perform .bar fun c =>
    let phase := (s.block c.g.core c.g.block).phase
    if c.phasePassed phase then .next (c.done c.s)
    else
      let t := c.awaitPhase .bar phase
      .next (t.setGroup c.g ((t.group c.g).arriveB phase t.nextId))

/-- BARA (R217): the split goes on; when its group has already arrived at the phase, it first waits as BARW. -/
def execBara (s : State) : Answer :=
  s.perform .bara fun c =>
    let phase := (s.block c.g.core c.g.block).phase
    if (s.group c.g).arrB = some phase then .next (c.awaitPhase .barw phase)
    else
      let t := c.done c.s
      let g := t.group c.g
      .next (t.setGroup c.g (Group.arriveB { g with bara := g.bara ||| c.mask } phase t.nextId))

/-- BARW (R217): the split waits while its group has arrived at a phase that has not completed. -/
def execBarw (s : State) : Answer :=
  s.perform .barw fun c =>
    let phase := (s.block c.g.core c.g.block).phase
    if (s.group c.g).arrB = some phase ∧ c.phasePassed phase = false then .next (c.awaitPhase .barw phase)
    else .next (c.done c.s)

/-- The arrival of a group at the gang barrier's phase (R32). -/
def Group.arriveG (g : Group) (phase next : Nat) : Group :=
  if g.arrG ≠ some phase ∧ g.lanesLeft &&& ~~~(g.waitingAt .gbar phase) = 0 ∧ g.lanesLeft ≠ 0 then { g with arrG := some phase, arrGAt := next }
  else g

/-- GBAR (R32, R217): as BAR, at the gang's barrier. -/
def execGbar (s : State) : Answer :=
  s.perform .gbar fun c =>
    let phase := (s.gang (s.block c.g.core c.g.block).gang).phase
    if c.phasePassed phase then .next (c.done c.s)
    else
      let t := c.awaitPhase .gbar phase
      .next (t.setGroup c.g ((t.group c.g).arriveG phase t.nextId))

/-- A queue of a block (R54). -/
def Block.queue (b : Block) (n : Nat) : Queue := FMap.get Queue.empty b.q n

/-- Replaces a queue of a block. -/
def Block.setQueue (b : Block) (n : Nat) (q : Queue) : Block := { b with q := FMap.set Queue.empty b.q n q }

/-- The scratchpad address of handle `i` of a ring (R54). -/
def Queue.slot (q : Queue) (i : Nat) : Nat := 128 * (q.base + i / 32) + 4 * (i % 32)

/-- The queue that a field names: its low four bits (R218). -/
def queueOf (f : BitVec 7) : Nat := f.toNat % 16

/-- push of R55, when the allowance is not 0. -/
def Block.push (b : Block) (n : Nat) (h : Word) : Block :=
  let q := b.queue n
  (b.store (q.slot q.tail) (bytesOf h 4)).setQueue n
    { q with tail := (q.tail + 1) % q.cap, count := q.count + 1, allow := q.allow - 1 }

/-- The handle that pop of R55 takes, when the count is not 0. -/
def Block.headOf (b : Block) (n : Nat) : Word :=
  let q := b.queue n
  BitVec.ofNat 32 (ofBytes (b.bytes (q.slot q.head) 4))

/-- pop of R55, when the count is not 0. -/
def Block.pop (b : Block) (n : Nat) : Block :=
  let q := b.queue n
  b.setQueue n { q with head := (q.head + 1) % q.cap, count := q.count - 1 }

/-- allow of R55. -/
def Queue.grant (q : Queue) (n : Nat) : Queue := { q with allow := min (q.allow + n) (q.cap - q.count) }

/-- The issuer waits at a queue, whose number it notes. -/
def Iss.awaitQueue (c : Iss) (w : Wait) (n : Nat) : Answer := .next (c.block w fun p => { p with walks := some n })

/-- QPUSH (R219): the lowest active lane's handle; a release of the earlier accesses of the issuer (R108), before which it is not ready. -/
def execQpush (p : Pre) (w : SWord) (s : State) : Answer :=
  s.perform (.qpush p w) fun c =>
    match lowest c.active with
    | none => .next (c.done c.s)
    | some l =>
      let b := c.s.blk c.who
      let n := queueOf w.d
      if c.acquireOwed || (c.first && c.clsOwed 0) then s.await .operand
      else if (b.queue n).allow = 0 then c.awaitQueue .qpush n
      else .next (c.done (c.s.setBlk c.who (b.push n (c.at_.lane w.a l))))

/-- QPOP (R219). -/
def execQpop (p : Pre) (w : SWord) (s : State) : Answer :=
  s.perform (.qpop p w) fun c =>
    if c.active = 0 then .next (c.done c.s)
    else
      let b := c.s.blk c.who
      let n := queueOf w.a
      if c.acquireOwed then s.await .operand
      else if (b.queue n).count = 0 then c.awaitQueue .qpop n
      else .next (c.done ((c.s.setBlk c.who (b.pop n)).setRf c.who (c.rf.under c.at_.wbase fun r => r.write w.d c.active fun _ => b.headOf n)))

/-- QTRY (R219). -/
def execQtry (p : Pre) (w : SWord) (s : State) : Answer :=
  s.perform (.qtry p w) fun c =>
    let b := c.s.blk c.who
    let n := queueOf w.a
    let pd : BitVec 3 := w.b.setWidth 3
    if c.active = 0 then .next (c.done c.s)
    else if c.acquireOwed then s.await .operand
    else if (b.queue n).count = 0 then .next (c.regs (c.rf.writePred pd c.active 0))
    else
      let rf := (c.rf.write w.d c.active fun _ => b.headOf n).writePred pd c.active c.active
      .next (c.done ((c.s.setBlk c.who (b.pop n)).setRf c.who rf))

/-- QALLOW (R219). -/
def execQallow (p : Pre) (w : IWord) (s : State) : Answer :=
  s.perform (.qallow p w) fun c =>
    let b := c.s.blk c.who
    let n := queueOf w.d
    .next (c.done (if c.active = 0 then c.s else c.s.setBlk c.who (b.setQueue n ((b.queue n).grant (uimm p w).toNat))))

/-- A split or feed thread whose turn in this cycle passes when it waits at a queue. -/
def Split.skip (p : Split) (n : Nat) : Split :=
  if (p.wait = some .qpush ∨ p.wait = some .qpop) ∧ p.walks = some n then { p with tried := true } else p

/-- A block whose splits and feed threads that wait at a queue try again from the next cycle on (R219). -/
def Block.nextCycle (b : Block) (n : Nat) : Block :=
  { b with
    groups := b.groups.map fun e => (e.1, { e.2 with splits := e.2.splits.map fun p => (p.1, p.2.skip n) })
    threads := b.threads.map fun e => (e.1, { e.2 with sp := e.2.sp.skip n }) }

/-- QINIT (R219): the queue's waiting instructions test the new state from the next cycle on; the ring's rows must lie inside the block's allocation (R326). -/
def execQinit (p : Pre) (w : IWord) (s : State) : Answer :=
  s.perform (.qinit p w) fun c =>
    match lowest c.active with
    | none => .next (c.done c.s)
    | some l =>
      let b := c.s.blk c.who
      let cap := w.imm.toNat + 1
      let base := (c.at_.lane w.a l).toNat
      if b.g * b.sp < base + (cap + 31) / 32 then c.illegal s
      else .next (c.done (c.s.setBlk c.who ((b.setQueue (queueOf w.d)
        { cap := cap, base := base, head := 0, tail := 0, count := 0, allow := cap }).nextCycle (queueOf w.d))))

/-- The event bit that an event instruction names (R220). -/
def Iss.eventBit (c : Iss) (w : IWord) (l : Nat) : Nat :=
  let n := (w.imm.extractLsb' 0 8).toNat
  if w.imm.getLsbD 9 then ((c.at_.lane w.a l).toNat + n) % 256 else n

/-- EVWAIT (R46, R221): the bit must be set in the vector as it stands at the end of some cycle after issue, which the
end of a cycle notes in the waiting split. -/
def execEvwait (p : Pre) (w : IWord) (s : State) : Answer :=
  s.perform (.evwait p w) fun c =>
    match lowest c.active with
    | none => .next (c.done c.s)
    | some l =>
      match c.old.walks with
      | some 256 => .next (c.done c.s)
      | some _ => c.await .event
      | none => .next (c.block .event fun p => { p with walks := some (c.eventBit w l) })

/-- EVSET (R221): a release at device scope, then the set of R46. -/
def execEvset (p : Pre) (w : IWord) (s : State) : Answer :=
  s.perform (.evset p w) fun c =>
    match lowest c.active with
    | none => .next (c.done c.s)
    | some l =>
      if c.clsOwed 0 then c.awaitSince .release
      else .next (c.done (c.s.setEvent (c.s.blk c.who).ctx (c.eventBit w l)))

/-- Clears a bit of a context's event vector in this cycle (R46). -/
def State.clearEvent (s : State) (c n : Nat) : State :=
  s.setCtx c { s.ctx c with evClear := (s.ctx c).evClear ||| (1#256 <<< (n % 256)) }

/-- EVCLR (R221). -/
def execEvclr (p : Pre) (w : IWord) (s : State) : Answer :=
  s.perform (.evclr p w) fun c =>
    match lowest c.active with
    | none => .next (c.done c.s)
    | some l => .next (c.done (c.s.clearEvent (c.s.blk c.who).ctx (c.eventBit w l)))

/-- EVTEST (R221): the bit as it stands at the end of the previous cycle. -/
def execEvtest (p : Pre) (w : IWord) (s : State) : Answer :=
  s.perform (.evtest p w) fun c =>
    match lowest c.active with
    | none => .next (c.done c.s)
    | some l =>
      let v := (c.s.ctx (c.s.blk c.who).ctx).ev.getLsbD (c.eventBit w l)
      .next (c.regs (c.rf.writePred (w.d.setWidth 3) c.active (if v then c.active else 0)))

end Sys2Proof.Machine
end

