-- ==== Sys2Proof/Machine/Dispatcher.lean ====
section
/-! DEFINITION. The dispatcher and the cycle's own work on groups: merging and popping of splits, placement, retirement,
barrier phases, retries and user interrupts (spec/02_execution.md R28 to R48, R56; spec/09 R189; spec/10 R216, R217; spec/18
R309). An event whose condition does not hold leaves the state as it is (assumption log 2). -/

namespace Sys2Proof.Machine

/-- Whether two splits wait in one instruction in the same way, and go on waiting together. -/
def Split.waitsWith (x y : Split) : Bool := x.wait.any Wait.blocking && x.wait == y.wait && x.walks == y.walks && x.lpb == y.lpb && x.snap == y.snap

/-- Registers with the lanes of a mask taken from another register state. -/
def RegFile.mix (x y : RegFile) (m : Mask) : RegFile :=
  { x with rows := y.rows.foldl (fun rs e => FMap.set Row.zero rs e.1 (Row.make fun l =>
             if m.getLsbD l then e.2.lane l else (FMap.get Row.zero x.rows e.1).lane l))
             (x.rows.foldl (fun rs e => FMap.set Row.zero rs e.1 (Row.make fun l =>
               if m.getLsbD l then (FMap.get Row.zero y.rows e.1).lane l else e.2.lane l)) [])
           p := Vector.ofFn fun i => (x.p[i.val] &&& ~~~m) ||| (y.p[i.val] &&& m) }

/-- The registers from which the lanes of two merged splits go on in an LDFE that has taken steps (R208), in a group with registers
`r`: each lane's as its own split has kept them (assumption log 67). -/
def keptBoth (r : RegFile) (x y : Split) : Option RegFile :=
  if x.got ||| y.got = 0 then none else some ((x.kept.getD r).mix (y.kept.getD r) y.mask)

/-- The split that two splits of a group with registers `r` become (R28): both masks and the smaller age stamp. Where they do not
wait alike, the merged split issues the instruction again (R204; assumption log 67). That a wait after YIELD ends with the merge is the
model's choice too (assumption log 67). -/
def Split.merged (r : RegFile) (x y : Split) : Split :=
  let z := { x with mask := x.mask ||| y.mask, age := min x.age y.age, run := 0, got := x.got ||| y.got, yield := none }
  if x.waitsWith y then z
  else { z with wait := none, lpb := none, walks := none, snap := keptBoth r x y, words := (if x.wait = some .fetch then x.words else []) ++ (if y.wait = some .fetch then y.words else []) }

/-- The group after two of its splits merge (R28). -/
def Group.mergeSplits (g : Group) (i j : Nat) : Group :=
  { g with splits := (g.splits.erase j).put i ((g.split i).merged g.rf (g.split j)), last := if g.last = some j then some i else g.last }

/-- What an atomic or LDFE that a split leaves while it waits has taken goes: its held requests and its scoreboard entry (R204, R205,
R301). -/
def State.letGo (s : State) (g : GroupAt) (sid : Nat) : State :=
  let p := (s.group g).split sid
  match p.wait, p.walks with
  | some .walks, some id | some .ldfe, some id => s.abandon (.split g sid) id
  | _, _ => s

/-- SPLIT_MERGE (R28). -/
def execSplitMerge (s : State) : Answer :=
  match s.arg with
  | .splits g i j =>
    if s.canMerge g i j then
      let t := (s.letGo g i).letGo g j
      .next (t.setGroup g ((t.group g).mergeSplits i j))
    else .next s
  | _ => .next s

/-- STACK_POP (R31, R304): the top divergence entry becomes a split with a new age stamp and the depth of the trap
entries below it. -/
def execStackPop (s : State) : Answer :=
  match s.arg with
  | .group g =>
    let gr := s.group g
    match s.popsNow g with
    | some e =>
      let co := s.core g.core
      let gr1 := { gr with stack := gr.stack.tail, popped := true }
      let sp := { Split.empty with live := true, pc := e.pc, mask := e.mask, age := co.age, depth := trapDepth gr1.stack, got := e.got, walks := e.walks, snap := e.snap }
      let t := s.setGroup g (gr1.addSplit sp)
      .next (t.setCore g.core { t.core g.core with age := co.age + 1 })
    | none => .next s
  | _ => .next s

/-- YIELD_TIMEOUT (R189): after 64 ck the wait of a YIELD ends. -/
def execYieldTimeout (s : State) : Answer :=
  match s.arg with
  | .split g i =>
    let sp := (s.group g).split i
    match sp.yield with
    | some (_, _, stop) => if stop ≤ s.coreCk g.core then .next (s.setSp (.split g i) { sp with yield := none }) else .next s
    | none => .next s
  | _ => .next s

/-- The first place of `need` in a row in a range, between the places in use. -/
def firstFit (lo n need : Nat) (used : List (Nat × Nat)) : Option Nat :=
  (lo :: used.map fun u => u.1 + u.2).find? fun a =>
    decide (lo ≤ a) && decide (a + need ≤ lo + n) && used.all fun u => u.2 == 0 || decide (a + need ≤ u.1) || decide (u.1 + u.2 ≤ a)

/-- Whether `need` places from `a` on lie in a range and are not in use. -/
def fitsAt (lo n need a : Nat) (used : List (Nat × Nat)) : Bool :=
  need == 0 || (decide (lo ≤ a) && decide (a + need ≤ lo + n) &&
    used.all fun u => u.2 == 0 || decide (a + need ≤ u.1) || decide (u.1 + u.2 ≤ a))

/-- The runs of each resource that the live blocks of a bank hold (R33, R39): slots, rows, scratchpad rows, tiles, FIFOs. -/
def bankUse (bank : FMap Block) : List (List (Nat × Nat)) :=
  let bs := (bank.filter fun e => e.2.live).map (·.2)
  [bs.map fun b => (b.place.slot, b.g), bs.map fun b => (b.place.row, b.g * 16 * b.u), bs.map fun b => (b.place.sprow, b.g * b.sp),
   bs.map fun b => (b.place.tile, b.g * b.t), bs.map fun b => (b.place.fifo, b.g * b.f)]

/-- What one block of a launch needs of each resource (R41). -/
def blockNeed (b : Lpb) : List Nat :=
  let g := lpbGroups b
  [g, g * 16 * lpbUnits b, g * lpbSprows b, g * lpbTiles b, g * lpbFifos b]

/-- The ranges of a partition as pairs of first and count (R39). -/
def rangePairs (r : Ranges) : List (Nat × Nat) :=
  [(r.slot0, r.slots), (r.row0, r.rows), (r.sprow0, r.sprows), (r.tile0, r.tiles), (r.fifo0, r.fifos)]

/-- Whether a swap of a partition runs on a core: its ranges are then not free (R59). -/
def State.swapping (s : State) (core part : Nat) : Bool :=
  (s.core core).swaps.any fun w => (w.leaving.toList ++ w.coming.toList).any fun c => (s.ctx c).part == part

/-- A place for one block of a launch on a core, if its free resources hold it (R47). -/
def State.placeOn (s : State) (part core : Nat) (b : Lpb) : Option Place :=
  if s.swapping core part then none
  else
    let use := bankUse (s.core core).act
    let found := (((rangePairs (s.part part).ranges).zip (blockNeed b)).zip use).map fun ((r, need), u) =>
      if need = 0 then some r.1 else firstFit r.1 r.2 need u
    match found with
    | [some a, some r, some p, some t, some f] => some { core := core, slot := a, row := r, sprow := p, tile := t, fifo := f }
    | _ => none

/-- Places for all the blocks of a launch's next gang on the first cluster that holds them (R35, R47). -/
def State.findPlaces (s : State) (part : Nat) (b : Lpb) : Option (List Place) :=
  (List.range 128).findSome? fun k =>
    let ps := (List.range 4).filterMap fun j => s.placeOn part (4 * k + j) b
    if lpbBlocks b ≤ ps.length then some (ps.take (lpbBlocks b)) else none

/-- Whether given places can hold the blocks of a launch's next gang (R35, R47): distinct cores of one cluster, free places
inside the partition's ranges. -/
def State.placesOk (s : State) (part : Nat) (b : Lpb) (ps : List Place) : Bool :=
  ps.length == lpbBlocks b && (ps.map (·.core)).Nodup && ps.all fun p =>
    decide (p.core < 512) && p.core / 4 == (ps.head?.map (·.core)).getD 0 / 4 && !s.swapping p.core part &&
      (((((rangePairs (s.part part).ranges).zip (blockNeed b)).zip (bankUse (s.core p.core).act)).zip [p.slot, p.row, p.sprow, p.tile, p.fifo]).all
        fun (((r, need), u), a) => fitsAt r.1 r.2 need a u)

/-- Whether the dispatcher places gangs of a context (R47, R59, R318): it is resident and neither its pre-emption nor its
kill is under way. -/
def State.places (s : State) (ctx : Nat) : Bool :=
  let x := s.ctx ctx
  x.created && !x.killed && decide (x.res = .resident) && !(s.cores.any fun e => e.2.preempt.contains ctx)

/-- The launches of a partition with gangs to place, in the order in which resources are offered to them (R47). -/
def State.offers (s : State) (part : Nat) : List (Nat × Grid) :=
  let turn (g : Grid) : Nat := (g.ctx + 4096 - (FMap.get 4095 (s.part part).turn (lpbPrio g.lpb) + 1)) % 4096
  let before (x y : Nat × Grid) : Bool :=
    if lpbPrio x.2.lpb ≠ lpbPrio y.2.lpb then decide (lpbPrio x.2.lpb < lpbPrio y.2.lpb)
    else if turn x.2 ≠ turn y.2 then decide (turn x.2 < turn y.2) else decide (x.1 ≤ y.1)
  sortBy before (s.grids.filter fun g => g.2.live && (s.ctx g.2.ctx).part == part && s.places g.2.ctx && decide (g.2.next < lpbGangs g.2.lpb))

/-- The launch of a partition whose gang is placed next, with places for it (R47): the first whose next gang fits. -/
def State.nextPlacement (s : State) (part : Nat) : Option (Nat × List Place) :=
  (s.offers part).findSome? fun (n, g) => (s.findPlaces part g.lpb).map fun ps => (n, ps)

/-- The registers of a group of a newly placed gang (R42). -/
def newRegs (b : Lpb) (idx : Nat × Nat × Nat) (ix gi : Nat) : RegFile :=
  let lane : Row := Row.make fun l => BitVec.ofNat 32 l
  { rows := FMap.set Row.zero [] 0 lane
    s := Vector.ofFn fun i => match i.val with
      | 0 => (lpbArg b).setWidth 32
      | 1 => (lpbArg b).extractLsb' 32 32
      | 2 => BitVec.ofNat 32 idx.1
      | 3 => BitVec.ofNat 32 idx.2.1
      | 4 => BitVec.ofNat 32 idx.2.2
      | 5 => BitVec.ofNat 32 ix
      | 6 => BitVec.ofNat 32 gi
      | _ => 0
    p := Vector.replicate 8 0, k := [], wbase := 0, units := lpbUnits b }

/-- A group of a newly placed gang (R27, R42, R124). -/
def newGroup (b : Lpb) (idx : Nat × Nat × Nat) (ix gi age : Nat) : Group :=
  { Group.empty with live := true, rf := newRegs b idx ix gi, gen := Row.make genInit, nextSplit := 1,
                     splits := [(0, { Split.empty with live := true, pc := lpbEntry b, mask := 0xFFFFFFFF, age := age })] }

/-- A block of a newly placed gang (R33, R42). -/
def newBlock (b : Lpb) (ctx part grid gang ix age : Nat) (idx : Nat × Nat × Nat) (p : Place) : Block :=
  { Block.empty with live := true, ctx := ctx, part := part, grid := grid, gang := gang, ix := ix, place := p, g := lpbGroups b,
                     u := lpbUnits b, sp := lpbSprows b, t := lpbTiles b, f := lpbFifos b, prio := lpbPrio b, wsr := lpbWsr b,
                     groups := (List.range (lpbGroups b)).map fun gi => (gi, newGroup b idx ix gi (age + gi)) }

/-- Places the blocks of a gang one by one. -/
def State.placeBlocks (s : State) (b : Lpb) (ctx part grid gang : Nat) (idx : Nat × Nat × Nat) : Nat → List Place → State × List (Nat × Nat)
  | _, [] => (s, [])
  | ix, p :: ps =>
    let co := s.core p.core
    let id := s.nextId
    let t := s.setCore p.core { co with act := co.act.put id (newBlock b ctx part grid gang ix co.age idx p), age := co.age + lpbGroups b }
    let (u, l) := State.placeBlocks { t with nextId := id + 1 } b ctx part grid gang idx (ix + 1) ps
    (u, (p.core, id) :: l)

/-- The placement of the next gang of a launch (R35, R42, R47). -/
def State.placeGang (s : State) (n : Nat) (ps : List Place) : State :=
  let g := s.grid n
  let part := (s.ctx g.ctx).part
  let idx := gangIndex g.lpb g.next
  let id := s.nextId
  let (t, bs) := State.placeBlocks { s with nextId := id + 1 } g.lpb g.ctx part n id idx 0 ps
  let gang : Gang :=
    { live := true, grid := n, x := idx.1, y := idx.2.1, z := idx.2.2, cluster := (ps.head?.map (·.core)).getD 0 / 4, blocks := bs,
      left := bs.length, phase := 0 }
  let t1 := (t.setGang id gang).setGrid n { g with next := g.next + 1 }
  t1.setPart part { t1.part part with turn := (t1.part part).turn.put (lpbPrio g.lpb) g.ctx }

/-- GANG_PLACE (R35, R47): the launch must be the first in the order whose next gang fits. -/
def execGangPlace (s : State) : Answer :=
  match s.arg with
  | .places n ps =>
    let g := s.grid n
    let part := (s.ctx g.ctx).part
    if s.placesOk part g.lpb ps && (match s.nextPlacement part with
      | some (m, _) => m == n
      | none => false) then .next (s.placeGang n ps) else .next s
  | _ => .next s

/-- Whether a block retires (R29, R245). -/
def State.canRetire (s : State) (core b : Nat) : Bool :=
  let bl := s.block core b
  bl.live && !(bl.groups.any fun g => g.2.live) && (bl.threads.all fun t => !t.2.live || (t.2.ended &&
    !(s.copies.any fun x => x.party == .thread core b t.1)))

/-- The blocks of a context in a bank. -/
def blocksOf (bank : FMap Block) (ctx : Nat) : FMap Block := bank.filter fun e => e.2.live && e.2.ctx == ctx

/-- Whether a context holds a block in some bank. -/
def State.banked (s : State) (ctx : Nat) : Bool :=
  s.cores.any fun e => !(blocksOf e.2.act ctx).isEmpty || !(blocksOf e.2.sha ctx).isEmpty

/-- Spilling ends once no bank holds a block of the context (R62): Chervil has written its last state, or its last block has
retired. -/
def State.spilledIfDone (s : State) (ctx : Nat) : State :=
  if (s.ctx ctx).res = .spilling ∧ s.banked ctx = false then s.setCtx ctx { s.ctx ctx with res := .spilled } else s

/-- The retirement of a block (R29): its places are free, its gang retires with its last block, and its pending quarter
ops go. With the last block of a context on a core, a pre-emption of the context ends there (R61), and with its last in any bank its
spilling does (R62). -/
def State.retireBlock (s : State) (core b : Nat) : State :=
  let bl := s.block core b
  let co := s.core core
  let c1 := { co with act := FMap.erase co.act b, mq := co.mq.filter fun o => !(o.block == b && !o.begun) }
  let c2 := if c1.holds bl.ctx then c1
    else { c1 with preempt := c1.preempt.filter (· != bl.ctx), pairs := c1.pairs.filter fun p => p.1 != bl.ctx }
  let s1 := (s.setCore core c2).spilledIfDone bl.ctx
  let gg := s1.gang bl.gang
  if gg.left ≤ 1 then
    let gr := s1.grid bl.grid
    ({ s1 with gangs := FMap.erase s1.gangs bl.gang }).setGrid bl.grid { gr with retired := gr.retired + 1 }
  else s1.setGang bl.gang { gg with left := gg.left - 1 }

/-- BLOCK_RETIRE (R29). -/
def execBlockRetire (s : State) : Answer :=
  match s.arg with
  | .num2 core b => if s.canRetire core b then .next (s.retireBlock core b) else .next s
  | _ => .next s

/-- Whether accesses of a grid's groups have yet to be performed (R187, R289). -/
def State.gridOwes (s : State) (n : Nat) : Bool :=
  (s.owed.any fun q => q.grid == n) || (s.copies.any fun x => x.like.grid == n && (x.isWalk || x.left != 0))

/-- Whether a grid retires (R29, R187). -/
def State.gridDone (s : State) (n : Nat) : Bool :=
  let g := s.grid n
  g.live && g.next == lpbGangs g.lpb && g.retired == lpbGangs g.lpb && !s.gridOwes n

/-- The retirement of a grid (R48, R318): its setmask is applied once, unless its context has been killed. -/
def State.retireGrid (s : State) (n : Nat) : State :=
  let g := s.grid n
  let x := s.ctx g.ctx
  let s1 := { s with grids := FMap.erase s.grids n }
  if x.killed then s1 else s1.setCtx g.ctx { x with evSet := x.evSet ||| lpbSet g.lpb }

/-- GRID_RETIRE (R29, R48). -/
def execGridRetire (s : State) : Answer :=
  match s.arg with
  | .num n => if s.gridDone n then .next (s.retireGrid n) else .next s
  | _ => .next s

/-- Whether a live group has arrived at a phase and what the arrival releases has been performed (R108, R217). -/
def State.hasArrived (s : State) (core b : Nat) (e : Nat × Group) (at_ : Option Nat) (before phase : Nat) : Bool :=
  !e.2.live || (at_ == some phase &&
    !(s.owed.any fun q => q.cls == 0 && q.party == .group core b e.1 && decide (q.seq < before)) &&
    !s.walksOwed (.group core b e.1) before && !(s.waiterOwed (.group core b e.1) .nobody before fun _ => true))

/-- Whether the phase of a barrier completes (R216, R217). -/
def State.phaseDone (s : State) (b : BarrierAt) : Bool :=
  match b with
  | .block core n =>
    let bl := s.block core n
    bl.live && (bl.groups.any fun e => e.2.live) && bl.groups.all fun e => s.hasArrived core n e e.2.arrB e.2.arrBAt bl.phase
  | .gang n =>
    let gg := s.gang n
    let ctx := (s.grid gg.grid).ctx
    let bs := gg.blocks.map fun (c, k) => (c, k, s.anywhere ctx c k)
    gg.live && (bs.any fun (_, _, bl) => bl.groups.any fun e => e.2.live) &&
      bs.all fun (c, k, bl) => bl.groups.all fun e => s.hasArrived c k e e.2.arrG e.2.arrGAt gg.phase

/-- BARRIER_PHASE_COMPLETE (R49, R216): the phase number advances, and the splits that wait for it leave at their next turn. -/
def execBarrierPhaseComplete (s : State) : Answer :=
  match s.arg with
  | .barrier b =>
    if s.phaseDone b then
      (match b with
       | .block core n => .next (s.setBlock core n { s.block core n with phase := (s.block core n).phase + 1 })
       | .gang n => .next ((s.setGang n { s.gang n with phase := (s.gang n).phase + 1 }).noteGang n))
    else .next s
  | _ => .next s

/-- Takes an instruction of an issuer in hand. -/
def State.hand (s : State) (w : Who) (i : Instr) (first : Word) (len : Nat) : State :=
  { s with cur := w, iword := first, iinstr := (encodeWords i).getLastD 0, ilen := len }

/-- Whether an issuer may try again now: in its turn (R56, R83). -/
def State.mayRetry (s : State) (w : Who) : Bool := s.lined && s.lives w && !(s.sp w).tried

/-- QUEUE_RETRY (R56): a waiting QPUSH or QPOP tries again. -/
def execQueueRetry (s : State) : Answer :=
  match s.arg with
  | .who w =>
    if s.mayRetry w then
      match (s.sp w).wait, s.fetched w with
      | some .qpush, .ok (.qpush p x) v n => execQpush p x (s.hand w (.qpush p x) v n)
      | some .qpop, .ok (.qpop p x) v n => execQpop p x (s.hand w (.qpop p x) v n)
      | _, _ => .next s
    else .next s
  | _ => .next s

/-- LDFE_RETRY (R83): a waiting LDFE tries again. -/
def execLdfeRetry (s : State) : Answer :=
  match s.arg with
  | .who w =>
    if s.mayRetry w then
      match (s.sp w).wait, s.fetched w with
      | some .ldfe, .ok (.ldfeKeep p x) v n => execLdfeKeep p x (s.hand w (.ldfeKeep p x) v n)
      | some .ldfe, .ok (.ldfeClr p x) v n => execLdfeClr p x (s.hand w (.ldfeClr p x) v n)
      | _, _ => .next s
    else .next s
  | _ => .next s

/-- The user-interrupt lines of a group that are pending and enabled (R309). -/
def Group.lines (g : Group) : BitVec 8 := g.uipend &&& g.uien

/-- The split of a group to which a user interrupt goes (R309): the next that its slot would issue, none while a split is in
a handler or inside a span. Which splits are ready is what `State.noted` has noted as the step was chosen; one that waits after YIELD is
not (R189). Where none is ready, the interrupt goes at once to the first of them in the order of R49: the model's choice (assumption
log 93). -/
def State.interruptee (s : State) (g : GroupAt) : Option Nat :=
  let gr := s.group g
  let bl := s.block g.core g.block
  if !gr.live || gr.lines == 0 || s.lined || (s.ctx bl.ctx).killed || (s.core g.core).preempt.contains bl.ctx || !(s.core g.core).mayIssue bl.ctx || (gr.liveSplits.any fun e => e.2.depth != 0) || s.unsettled g then none
  else
    let slot := (bl.place.slot + g.ix) % 4
    let cs := (s.onSlot g.core slot).filter fun c => c.g == g
    if cs.any s.spanning then none
    else
      let o := s.slotOrder g.core slot cs
      ((o.find? fun c => c.sp.wait.isNone && s.yieldOver c.sp).or o.head?).map (·.sid)

/-- The lowest line of a set. -/
def lowestLine (v : BitVec 8) : Nat := ((List.range 8).find? v.getLsbD).getD 0

/-- USER_INTERRUPT_DELIVERY (R303, R309): the lowest enabled pending line is delivered as cause 7. -/
def execUserInterruptDelivery (s : State) : Answer :=
  match s.arg with
  | .split g sid =>
    if s.interruptee g = some sid then
      let t := s.letGo g sid
      let gr := t.group g
      let sp := gr.split sid
      let n := lowestLine gr.lines
      let bl := s.block g.core g.block
      let h := (s.ctx bl.ctx).handler
      if 16 ≤ gr.stack.length ∨ h = 0 then .next (s.halt bl.ctx g.core (bl.place.slot + g.ix) 7)
      else
        .next (t.setGroup g { gr.enterTrap sid 7 (BitVec.ofNat 32 n) sp.mask sp.pc h with
          uipend := gr.uipend &&& ~~~(1#8 <<< n) })
    else .next s
  | _ => .next s

end Sys2Proof.Machine
end

