-- ==== Sys2Proof/Machine/Preempt.lean ====
section
/-! DEFINITION. Pre-emption, spilling, restoring and killing of contexts, and their reports (spec/02_execution.md R59 to R65;
spec/12_isa_engines.md R265; spec/18_traps.md R307, R313 to R319). -/

namespace Sys2Proof.Machine

/-- Whether every group of a context on a core is at a chain boundary and no pass on its tiles runs (R51, R59). -/
def State.atBoundary (s : State) (core ctx : Nat) : Bool :=
  let co := s.core core
  (co.act.all fun e => !(e.2.live && e.2.ctx == ctx) || e.2.groups.all fun g => !g.2.live || (match g.2.last with
    | some k => !((g.2.split k).live && s.inSpan core ctx (g.2.split k))
    | none => true)) &&
    !(co.mq.any fun o => o.begun && (co.block o.block).live && (co.block o.block).ctx == ctx)

/-- A split as it is saved (R60, R204): before its waiting instruction, whose effects stay: the phase at which it waits at
a barrier, an event that has released it, and the steps of an LDFE with the operands from which it goes on. -/
def Split.saved (p : Split) : Split :=
  { p with wait := none, tried := false, yield := none, run := 0, lpb := none, walks := p.held, words := [], snap := p.kept }

/-- Whether a scoreboard entry is that of an instruction in which a split waits, which issues again after restore (R60, R205, R301). -/
def Group.waitingEntry (g : Group) (e : SbEntry) : Bool :=
  g.liveSplits.any fun p => (p.2.wait == some .walks || p.2.wait == some .ldfe) && p.2.walks == some e.id

/-- A group as it leaves the active bank: the latches clear (R53). -/
def Group.saved (g : Group) : Group :=
  { g with b := noLatches, last := none, splits := g.liveSplits.map fun e => (e.1, e.2.saved), sb := g.sb.filter fun e => !g.waitingEntry e }

/-- A block as it leaves the active bank. -/
def Block.saved (b : Block) : Block :=
  { b with groups := b.groups.map fun e => (e.1, e.2.saved), threads := b.threads.map fun e => (e.1, { e.2 with sp := e.2.sp.saved }) }

/-- A bank without the blocks of a context. -/
def bankLess (bank : FMap Block) (ctx : Nat) : FMap Block := bank.filter fun e => !(e.2.live && e.2.ctx == ctx)

/-- Puts blocks into a bank. -/
def bankPut (bank : FMap Block) (bs : FMap Block) : FMap Block := bs.foldl (fun m e => FMap.put m e.1 e.2) bank

/-- The places of one block, as runs of each resource. -/
def Block.runs (b : Block) : List (Nat × Nat) :=
  [(b.place.slot, b.g), (b.place.row, b.g * 16 * b.u), (b.place.sprow, b.g * b.sp), (b.place.tile, b.g * b.t), (b.place.fifo, b.g * b.f)]

/-- Whether the places of a block are free in a bank. -/
def Block.freeIn (b : Block) (bank : FMap Block) : Bool :=
  (b.runs.zip (bankUse bank)).all fun ((a, n), use) =>
    n == 0 || use.all fun u => u.2 == 0 || decide (a + n ≤ u.1) || decide (u.1 + u.2 ≤ a)

/-- Whether the feed-thread numbers of blocks are free on a core's active bank (R57). -/
def threadsFree (bs bank : FMap Block) : Bool :=
  let used := bank.flatMap fun e => (e.2.threads.filter fun t => t.2.live).map (·.1)
  bs.all fun e => e.2.threads.all fun t => !t.2.live || !used.contains t.1

/-- Whether a context's blocks, loaded into the shadow bank of a core, can come into an active bank. -/
def Core.canCome (c : Core) (ctx : Nat) (bank : FMap Block) : Bool :=
  let bs := blocksOf c.sha ctx
  !bs.isEmpty && (bs.all fun e => e.2.freeIn bank) && threadsFree bs bank

/-- The contexts that have blocks in a bank. -/
def bankContexts (bank : FMap Block) : List Nat := distinct ((bank.filter fun e => e.2.live).map fun e => e.2.ctx)

/-- The contexts that could come in with the pre-emption of another on a core (R59, R265): the one that CTXSW paired with it, then
any other context of its partition that is staged in the shadow bank. -/
def State.comers (s : State) (core ctx : Nat) : List Nat :=
  let c := s.core core
  ((c.pairs.find? fun p => p.1 == ctx).map (·.2)).toList ++ (bankContexts c.sha).filter fun b =>
    b != ctx && decide ((s.ctx b).part = (s.ctx ctx).part) && decide ((s.ctx b).res = .restoring) && !(s.ctx b).killed

/-- The context that comes in with the pre-emption of another on a core, when its blocks are loaded (R59, R265). Where the swap
comes before that loading has ended, nothing comes in with it, and STAGED_SWAP brings the staged context later: the model's choice
(assumption log 72). -/
def State.comer (s : State) (core ctx : Nat) : Option Nat :=
  let c := s.core core
  (s.comers core ctx).find? fun b => c.canCome b (bankLess c.act ctx)

/-- Whether the pre-emption of a context takes effect on a core now (R59, R60): a block that retires does so first (R61), and a kill
takes over (R319). The flip puts the outgoing state into the shadow bank at once, also where another context's state stands there at its places
(assumption log 72). -/
def State.canSwap (s : State) (core ctx : Nat) : Bool :=
  let c := s.core core
  c.preempt.contains ctx && c.holds ctx && !(s.ctx ctx).killed && s.atBoundary core ctx && !s.swapping core (s.ctx ctx).part &&
    !((blocksOf c.act ctx).any fun e => s.canRetire core e.1)

/-- The requests of a context's waiting atomics that have not left a core go (R60, R301). -/
def State.dropWalks (s : State) (core ctx : Nat) : State :=
  { s with reqs := s.reqs.filter fun q => !(q.held && q.core == core && q.ctx == ctx) }

/-- The swap of a pre-emption (R59 to R62): the active and the shadow bank flip, for 96 ck. -/
def State.swapOut (s : State) (core ctx : Nat) : State :=
  let c := s.core core
  let x := s.ctx ctx
  let come := s.comer core ctx
  let out : FMap Block := (blocksOf c.act ctx).map fun e => (e.1, e.2.saved)
  let inn := match come with
    | some b => blocksOf c.sha b
    | none => []
  let sha1 := match come with
    | some b => bankLess c.sha b
    | none => c.sha
  let c1 := { c with
    act := bankPut (bankLess c.act ctx) inn
    sha := bankPut sha1 out
    preempt := c.preempt.filter (· != ctx)
    pairs := c.pairs.filter fun p => p.1 != ctx
    swaps := c.swaps ++ [{ stop := s.coreCk core + 96, leaving := some ctx, coming := come }] }
  ((s.dropWalks core ctx).setCore core c1).setCtx ctx { x with res := .spilling, idle := 0 }

/-- PREEMPT_SWAP (R59). -/
def execPreemptSwap (s : State) : Answer :=
  match s.arg with
  | .num2 core ctx => if s.canSwap core ctx then .next (s.swapOut core ctx) else .next s
  | _ => .next s

/-- Whether Chervil can write the state of a context on a core (R59, R62): of a killed context it writes nothing more (R319). -/
def State.canSpill (s : State) (core ctx : Nat) : Bool :=
  let c := s.core core
  !(s.ctx ctx).killed && decide ((s.ctx ctx).res = .spilling) && !(blocksOf c.sha ctx).isEmpty && !(c.swaps.any fun w => w.leaving == some ctx)

/-- A save image after the state of one core is put into it: at the frame of that core, or as a further frame. -/
def putSaved (im : List SavedCore) (sc : SavedCore) : List SavedCore :=
  if im.any fun x => x.core == sc.core then im.map fun x => if x.core = sc.core then sc else x else im ++ [sc]

/-- Chervil writes the outgoing state of a context on a core to its save area (R59, R313 to R316); with its last state the
context is spilled (R62). -/
def State.spill (s : State) (core ctx : Nat) : State :=
  let c := s.core core
  let x := s.ctx ctx
  let r := (s.part x.part).ranges
  let bs := blocksOf c.sha ctx
  let sc : SavedCore :=
    { core := core, blocks := bs, ops := c.mq.filter fun o => bs.any fun e => e.1 == o.block, written := true }
  let im := putSaved (x.image.getD []) sc
  let i := (im.findIdx? fun y => y.core == core).getD 0
  let c1 := { c with sha := bankLess c.sha ctx, mq := c.mq.filter fun o => !(bs.any fun e => e.1 == o.block) }
  let s1 := s.setCore core c1
  let s2 := (s1.writeFor ctx (s.saveFrame r (frameBase x.save r i) sc)).writeFor ctx (saveHeader ctx r x.save (im.map (·.core)))
  let s3 := s2.setCtx ctx { x with image := some im, ranges := some r }
  (bs.map fun e => e.2.gang).foldl State.noteGang (s3.spilledIfDone ctx)

/-- SPILL (R59). -/
def execSpill (s : State) : Answer :=
  match s.arg with
  | .num2 core ctx => if s.canSpill core ctx then .next (s.spill core ctx) else .next s
  | _ => .next s

/-- The ranges that the header of a save area holds (R313). -/
def headerRanges (m : Memory) (save : Nat) : List Nat :=
  [ofBytes (m.readN (save + 12) 1), ofBytes (m.readN (save + 13) 2), ofBytes (m.readN (save + 15) 2), ofBytes (m.readN (save + 17) 1),
   ofBytes (m.readN (save + 18) 1)]

/-- The saved state of a context for a core that has yet to be loaded. -/
def Ctx.savedOn (x : Ctx) (core : Nat) : Option (Nat × SavedCore) :=
  ((x.image.getD []).zipIdx.find? fun e => e.1.core == core && e.1.written && !e.1.blocks.isEmpty).map fun e => (e.2, e.1)

/-- Whether Chervil can load a staged context's state for a core into its shadow bank (R265). -/
def State.canLoad (s : State) (core ctx : Nat) : Bool :=
  let x := s.ctx ctx
  x.created && !x.killed && x.staged && (decide (x.res = .spilled) || decide (x.res = .restoring)) && !s.swapping core x.part &&
    (match x.savedOn core with
     | some (_, sc) => sc.blocks.all fun e => e.2.freeIn (s.core core).sha
     | none => false)

/-- Chervil loads a staged context's state for a core (R265, R313 to R316); an image made under other ranges is not
restored and halts the context with cause 0 (R39). -/
def State.loadSaved (s : State) (core ctx : Nat) : State :=
  let x := s.ctx ctx
  let r := (s.part x.part).ranges
  let m := s.memFor ctx
  if headerRanges m x.save ≠ [r.slots % 256, r.rows % 65536, r.sprows % 65536, r.tiles % 256, r.fifos % 256] then
    (s.setCtx ctx { x with staged := false }).halt ctx core 0 0
  else match x.savedOn core with
    | some (i, sc0) =>
      let sc := loadFrame r m (frameBase x.save r i) sc0
      let c := s.core core
      let s1 := s.setCore core { c with sha := bankPut c.sha sc.blocks, mq := c.mq ++ sc.ops }
      let s2 := sc.blocks.zipIdx.foldl (fun t (e, j) => t.loadGang m (frameBase x.save r i + 256 + 512 * j) e.2) s1
      s2.setCtx ctx { x with res := .restoring, image := some (putSaved (x.image.getD []) { sc with blocks := [], ops := [], written := false }) }
    | none => s

/-- RESTORE_LOAD (R265). -/
def execRestoreLoad (s : State) : Answer :=
  match s.arg with
  | .num2 core ctx => if s.canLoad core ctx then .next (s.loadSaved core ctx) else .next s
  | _ => .next s

/-- Whether the dispatcher begins the swap of a staged context on a core without an outgoing one (R265). -/
def State.canStage (s : State) (core ctx : Nat) : Bool :=
  let c := s.core core
  decide ((s.ctx ctx).res = .restoring) && !(s.ctx ctx).killed && !s.swapping core (s.ctx ctx).part && !(c.pairs.any fun p => p.2 == ctx && c.preempt.contains p.1) &&
    c.canCome ctx c.act

/-- STAGED_SWAP (R265). -/
def execStagedSwap (s : State) : Answer :=
  match s.arg with
  | .num2 core ctx =>
    if s.canStage core ctx then
      let c := s.core core
      .next (s.setCore core { c with
        act := bankPut c.act (blocksOf c.sha ctx)
        sha := bankLess c.sha ctx
        swaps := c.swaps ++ [{ stop := s.coreCk core + 96, leaving := none, coming := some ctx }] })
    else .next s
  | _ => .next s

/-- Whether the whole of a context that is being restored has come into active banks. -/
def State.allIn (s : State) (ctx : Nat) : Bool :=
  let x := s.ctx ctx
  decide (x.res = .restoring) && !x.killed && !((x.image.getD []).any fun sc => sc.written && !sc.blocks.isEmpty) &&
    s.cores.all fun e => (blocksOf e.2.sha ctx).isEmpty && !(e.2.swaps.any fun w => w.coming == some ctx)

/-- The end of swaps (R59, R62): a context whose last state has come in is resident. -/
def State.endSwaps (s : State) : State :=
  let ending := s.cores.flatMap fun e => (e.2.swaps.filter fun w => w.stop ≤ s.ck - e.2.behind).filterMap (·.coming)
  let s1 := { s with cores := s.cores.map fun e => (e.1, { e.2 with swaps := e.2.swaps.filter fun w => !(w.stop ≤ s.ck - e.2.behind) }) }
  ending.foldl (fun t c => if t.allIn c then t.setCtx c { t.ctx c with res := .resident, staged := false, image := none, idle := 0 } else t) s1

/-- The gangs of a context that are not placed (R263). -/
def State.unplaced (s : State) (ctx : Nat) : Nat :=
  (s.grids.map fun g => if g.2.live && g.2.ctx == ctx then lpbGangs g.2.lpb - g.2.next else 0).sum

/-- Whether a stall is to be reported (R65, R317). -/
def State.stalls (s : State) (ctx : Nat) : Bool :=
  let x := s.ctx ctx
  x.created && !x.killed && !x.ctxerr.getLsbD 30 && !x.stallst.getLsbD 31 && decide (2 ^ 20 ≤ x.idle) && s.undispatched ctx

/-- STALL_REPORT (R65, R263). -/
def execStallReport (s : State) : Answer :=
  match s.arg with
  | .num ctx =>
    if s.stalls ctx then
      .next { s.setCtx ctx { s.ctx ctx with stallst := 0x80000000 ||| BitVec.ofNat 32 (min (s.unplaced ctx) 0xFFFFF) } with stallIrq := true }
    else .next s
  | _ => .next s

/-- Whether a hang is to be reported (R317). -/
def State.hangs (s : State) (ctx : Nat) : Bool :=
  let x := s.ctx ctx
  x.created && !x.killed && x.ctxerr &&& 0xC0000000 == 0 && decide (2 ^ 24 ≤ x.idle) && !s.undispatched ctx &&
    !((s.groupsOf ctx).any fun (_, _, _, g) => g.liveSplits.any fun e => e.2.depth != 0)

/-- HANG_REPORT (R317). -/
def execHangReport (s : State) : Answer :=
  match s.arg with
  | .num ctx =>
    if s.hangs ctx then .next { s.setCtx ctx { s.ctx ctx with ctxerr := (s.ctx ctx).ctxerr ||| 0x80000000 } with ctxIrq := true }
    else .next s
  | _ => .next s

/-- The scrubbed list of a tier and a page size (R99, R361): 64 KiB, 2 MiB and 1 GiB lists of HBM, LPDDR6 and CXL. -/
def poolList (tier size : Nat) : Nat := tier + (if size ≤ 65536 then 0 else if size ≤ 2 ^ 21 then 3 else 6)

/-- A page goes to Savory (R98): its address and the list that it will join. -/
def State.free (s : State) (pa list : Nat) : State := { s with savory := s.savory ++ [(pa, list)] }

/-- The answer of a port to a request that ends in failure (R293): a read gets a failure completion, a write none. -/
def State.failInbound (s : State) (r : Req) : State :=
  match r.land with
  | .port n tag => (match r.kind with
    | .load => let p := s.port n
               s.setPort n { p with answers := p.answers ++ [(tag, none)] }
    | _ => s)
  | _ => s

/-- The records of a partition that a slice holds on chip (R283): a record is held until its completion has landed. -/
def State.onChip (s : State) (part slice : Nat) : Nat :=
  (s.parked.filter fun p => p.req.part == part && p.slice == slice && p.ring.isNone).length +
    (s.reqs.filter fun q => q.part == part && q.record == some (slice, none)).length

/-- The oldest record of a partition at a slice that stands in the overflow ring comes on chip when there is a place (R283). -/
def State.refill (s : State) (part slice : Nat) : State :=
  if s.onChip part slice < 16 then
    match s.parked.find? fun p => p.req.part == part && p.slice == slice && p.ring.isSome with
    | some p => { s with parked := s.parked.map fun q => if q.req.id = p.req.id then { q with ring := none } else q }
    | none => s
  else s

/-- Whether a request belongs to a granule of a context. -/
def Req.inGranule (r : Req) (ctx g : Nat) : Bool := r.ctx == ctx && r.translated && granuleOf r.va == g

/-- Removes the markers of granules that hold no record (R280): a record stands until its completion has landed (R283). -/
def State.trimMarkers (s : State) : State :=
  { s with markers := s.markers.filter fun (c, g) =>
      (s.parked.any fun p => p.req.inGranule c g) || s.reqs.any fun q => q.record.isSome && q.inGranule c g }

/-- What follows the landing of a request that Sorrel has performed: its record is freed (R280, R283). -/
def State.freed (s : State) (r : Req) : State :=
  match r.record with
  | some (n, _) => (s.refill r.part n).trimMarkers
  | none => s

/-- Takes the record of a request off Sorrel. -/
def State.unpark (s : State) (id : Nat) : State :=
  match s.parked.find? fun p => p.req.id == id with
  | some p => { s with parked := s.parked.filter fun q => q.req.id != id }.refill p.req.part p.slice
  | none => s

end Sys2Proof.Machine
end

