-- ==== Sys2Proof/Machine/Registers.lean ====
section
/-! DEFINITION. The map of the system registers (spec/12_isa_engines.md R260 to R263; spec/16 R285; spec/17 R297; spec/18 R305;
spec/19 R332, R333; spec/21 R361, R362): who reaches each, its elements, and what a read of it gives. -/

namespace Sys2Proof.Machine

/-- The access that a register needs, from the least privileged up (R260); `never` is none. -/
inductive Level where
  | k | s | m | never
  deriving DecidableEq, Repr

/-- The rank of an access. -/
def Level.rank : Level → Nat
  | .k => 0
  | .s => 1
  | .m => 2
  | .never => 3

/-- Whether an issuer of a rank has an access (R260): K is rank 0, S rank 1, M rank 2. -/
def Level.covered (need : Level) (rank : Nat) : Bool := need != .never && decide (need.rank ≤ rank)

/-- A run of registers of one access: first and last index, read access, write access, and the elements of an array
register, 0 for any other. -/
structure RegRow where
  first : Nat
  last : Nat
  read : Level
  write : Level
  elems : Nat
  deriving DecidableEq, Repr

/-- The registers of R262. -/
def regRows262 : List RegRow :=
  [⟨0x000, 0x00B, .k, .never, 0⟩, ⟨0x010, 0x013, .k, .never, 0⟩, ⟨0x020, 0x022, .k, .never, 0⟩, ⟨0x028, 0x029, .k, .never, 128⟩,
   ⟨0x030, 0x030, .k, .never, 8⟩, ⟨0x031, 0x031, .k, .never, 4⟩, ⟨0x038, 0x038, .k, .s, 0⟩, ⟨0x040, 0x040, .s, .s, 0⟩,
   ⟨0x048, 0x049, .m, .m, 0⟩, ⟨0x04A, 0x04A, .s, .never, 0⟩, ⟨0x04C, 0x04C, .s, .m, 0⟩, ⟨0x050, 0x053, .never, .m, 0⟩,
   ⟨0x058, 0x058, .never, .k, 0⟩, ⟨0x059, 0x059, .k, .never, 0⟩, ⟨0x060, 0x060, .k, .m, 0⟩, ⟨0x061, 0x062, .k, .s, 0⟩,
   ⟨0x070, 0x073, .m, .m, 0⟩, ⟨0x090, 0x090, .never, .s, 0⟩, ⟨0x091, 0x091, .s, .s, 0⟩]

/-- The registers of R285 and R297. -/
def regRows285 : List RegRow :=
  [⟨0x0A0, 0x0A3, .m, .m, 0⟩, ⟨0x0A4, 0x0A4, .m, .never, 0⟩, ⟨0x0A5, 0x0A5, .m, .m, 0⟩, ⟨0x0A8, 0x0A9, .m, .m, 0⟩,
   ⟨0x0AA, 0x0AA, .s, .never, 0⟩, ⟨0x0AB, 0x0AB, .m, .m, 0⟩, ⟨0x0AC, 0x0AC, .m, .m, 24⟩, ⟨0x0B0, 0x0B1, .never, .s, 0⟩,
   ⟨0x0C0, 0x0C9, .m, .never, 0⟩]

/-- The registers of R305, R332 and R361. -/
def regRows305 : List RegRow :=
  [⟨0x0D0, 0x0D2, .k, .never, 0⟩, ⟨0x0D3, 0x0D5, .k, .k, 0⟩, ⟨0x0D8, 0x0D8, .never, .s, 0⟩, ⟨0x0D9, 0x0D9, .s, .never, 0⟩,
   ⟨0x0DA, 0x0DA, .s, .s, 0⟩, ⟨0x0DC, 0x0DC, .k, .s, 0⟩, ⟨0x0E0, 0x0E1, .m, .m, 0⟩, ⟨0x0E2, 0x0E2, .m, .m, 48⟩,
   ⟨0x0E3, 0x0E3, .m, .m, 0⟩, ⟨0x0E4, 0x0E4, .never, .m, 0⟩, ⟨0x0E5, 0x0E5, .s, .never, 0⟩, ⟨0x0E8, 0x0E8, .k, .never, 0⟩,
   ⟨0x0EC, 0x0EC, .s, .never, 9⟩, ⟨0x0ED, 0x0ED, .m, .m, 0⟩, ⟨0x0EE, 0x0F0, .s, .never, 0⟩, ⟨0x0F4, 0x0F4, .s, .s, 24⟩,
   ⟨0x0F8, 0x0F9, .s, .s, 0⟩]

/-- The row of a register index: none for an index that is not assigned. -/
def regRow (i : Nat) : Option RegRow := (regRows262 ++ regRows285 ++ regRows305).find? fun r => r.first ≤ i && i ≤ r.last

/-- Whether an element is in a register (R261, R333): an array has its elements, any other register has element 0. -/
def RegRow.has (r : RegRow) (n : Nat) : Bool := if r.elems = 0 then n == 0 else decide (n < r.elems)

/-- Whether a rank may read an element of a register (R333). -/
def regReadable (rank i n : Nat) : Bool :=
  match regRow i with
  | some r => r.has n && r.read.covered rank
  | none => false

/-- Whether a rank may write an element of a register (R333). -/
def regWritable (rank i n : Nat) : Bool :=
  match regRow i with
  | some r => r.has n && r.write.covered rank
  | none => false

/-- From where a register is reached: the context, the core, and the issuer, nobody for a hart's window. -/
structure RegView where
  ctx : Nat
  core : Nat
  who : Who
  deriving DecidableEq, Repr

/-- The view of an issuer. -/
def Iss.view (c : Iss) : RegView := { ctx := (c.s.blk c.who).ctx, core := c.who.core, who := c.who }

/-- The rank of an issuer (R260): S with sys, else K. -/
def Iss.rank (c : Iss) : Nat := if (c.s.ctx (c.s.blk c.who).ctx).sys then 1 else 0

/-- The partition of a view. Through the window of a number that holds no context this is the partition of its last holder, and 0 when
it has had none: the spec gives such a window no partition, and this is the model's choice (assumption log 74). -/
def State.viewPart (s : State) (v : RegView) : Nat := (s.ctx v.ctx).part

/-- The low word of an address register. -/
def addrLo (a : Nat) : Word := BitVec.ofNat 32 a

/-- The high word of an address register: address bits 51:32. -/
def addrHi (a : Nat) : Word := BitVec.ofNat 32 (a / 2 ^ 32 % 2 ^ 20)

/-- An address after its low word is written, whose low `k` bits read 0. -/
def putLo (a : Nat) (x : Word) (k : Nat) : Nat := a / 2 ^ 32 * 2 ^ 32 + x.toNat / 2 ^ k * 2 ^ k

/-- An address after its high word is written. -/
def putHi (a : Nat) (x : Word) : Nat := x.toNat % 2 ^ 20 * 2 ^ 32 + a % 2 ^ 32

/-- How far a time lies in the refresh period of a segment (R87), in ns. -/
def refreshPhase (seg ns : Nat) : Nat := (ns + 64000 - 2000 * (seg % 32)) % 64000

/-- WSNEXT (R262). -/
def wsNext (seg ns : Nat) : Nat := if refreshPhase seg ns < 2000 then 0 else 64000 - refreshPhase seg ns

/-- WSLEFT (R262). -/
def wsLeft (seg ns : Nat) : Nat := if refreshPhase seg ns < 2000 then 2000 - refreshPhase seg ns else 0

/-- The registers of the issuing group (R262, R305); through a hart's window they read 0. -/
def State.readGroup (s : State) (v : RegView) (i : Nat) : Word :=
  let at_ := s.groupOf v.who
  let g := s.group at_
  let b := s.block at_.core at_.block
  let gang := s.gang b.gang
  match i with
  | 0x001 => BitVec.ofNat 32 at_.ix
  | 0x002 => BitVec.ofNat 32 (s.slotOf at_)
  | 0x003 => BitVec.ofNat 32 b.ix
  | 0x004 => BitVec.ofNat 32 gang.x
  | 0x005 => BitVec.ofNat 32 gang.y
  | 0x006 => BitVec.ofNat 32 gang.z
  | 0x00B => match v.who with
    | .thread c k t => ((s.block c k).thread t).handle
    | _ => 0xFFFFFFFF
  | 0x059 => g.uipend.setWidth 32
  | 0x0D0 => g.xcause
  | 0x0D1 => g.xinfo
  | 0x0D2 => g.xmask
  | 0x0D3 => g.xpc.setWidth 32
  | 0x0D4 => g.xpc.extractLsb' 32 32
  | 0x0D5 => BitVec.ofNat 32 (g.freeze.toNat + if (s.core at_.core).passHolds at_.block at_.ix then 256 else 0)
  | _ => 0

/-- Whether a register belongs to a group (R262, R305). -/
def groupReg (i : Nat) : Bool := [0x001, 0x002, 0x003, 0x004, 0x005, 0x006, 0x00B, 0x059, 0x0D0, 0x0D1, 0x0D2, 0x0D3, 0x0D4, 0x0D5].contains i

/-- Whether a register belongs to a context (R262, R305, R332, R361). -/
def ctxReg (i : Nat) : Bool :=
  [0x030, 0x031, 0x038, 0x040, 0x048, 0x049, 0x04A, 0x04C, 0x060, 0x061, 0x062, 0x070, 0x071, 0x091, 0x0DA, 0x0DC, 0x0F9].contains i

/-- Whether a register belongs to a partition (R285, R361). -/
def partReg (i : Nat) : Bool :=
  [0x0A0, 0x0A1, 0x0A2, 0x0A3, 0x0A4, 0x0A5, 0x0A8, 0x0A9, 0x0AA, 0x0AB, 0x0EE, 0x0EF, 0x0F0].contains i

/-- The registers of a context (R262, R263, R305, R332, R361). -/
def Ctx.readReg (x : Ctx) (i n : Nat) : Word :=
  match i with
  | 0x030 => x.ev.extractLsb' (32 * n) 32
  | 0x031 => BitVec.ofNat 32 (x.queue n).length
  | 0x038 => x.tclass
  | 0x040 => x.stallst
  | 0x048 => addrLo x.ptroot
  | 0x049 => addrHi x.ptroot
  | 0x04A => x.tgen
  | 0x04C => x.keyslot.setWidth 32
  | 0x060 => if x.sys then 1 else 0
  | 0x061 => x.handler.setWidth 32
  | 0x062 => x.handler.extractLsb' 32 32
  | 0x070 => addrLo x.save
  | 0x071 => addrHi x.save
  | 0x091 => x.launchqhi.setWidth 32
  | 0x0DA => x.ctxerr
  | 0x0DC => x.lrefuse
  | 0x0F9 => x.ctxderr
  | _ => 0

/-- The requests of a partition that Sorrel holds a record of (R283): those parked, and those performed whose completion has yet to
land. -/
def State.recorded (s : State) (part : Nat) : List Req :=
  (s.parked.map (·.req) ++ s.reqs.filter fun q => q.record.isSome).filter fun q => q.part == part

/-- The inbound records that a partition holds parked (R293). -/
def State.parkedInbound (s : State) (part : Nat) : Nat := ((s.recorded part).filter fun q => q.inbound).length

/-- The records that a partition holds parked (R285). -/
def State.parkCount (s : State) (part : Nat) : Nat := (s.recorded part).length

/-- The registers of a partition (R285, R361). -/
def State.readPart (s : State) (part i : Nat) : Word :=
  let p := s.part part
  match i with
  | 0x0A0 => addrLo p.fqbase
  | 0x0A1 => addrHi p.fqbase
  | 0x0A2 => BitVec.ofNat 32 p.fqsize
  | 0x0A3 => BitVec.ofNat 32 p.fqhead
  | 0x0A4 => BitVec.ofNat 32 p.fqtail
  | 0x0A5 => BitVec.ofNat 32 p.fqhart
  | 0x0A8 => addrLo p.pkbase
  | 0x0A9 => addrHi p.pkbase
  | 0x0AA => BitVec.ofNat 32 (s.parkCount part)
  | 0x0AB => BitVec.ofNat 32 p.pkioq
  | 0x0EE => BitVec.ofNat 32 p.casat
  | 0x0EF => BitVec.ofNat 32 p.cafull
  | 0x0F0 => BitVec.ofNat 32 p.capois
  | _ => 0

/-- PORTST of a port (R362). -/
def Port.status (p : Port) : Word := p.state ++ (0 : BitVec 6) ++ BitVec.ofNat 8 p.uncorr ++ BitVec.ofNat 16 p.corr

/-- PWRST (R362). -/
def State.powerStatus (s : State) : Word :=
  BitVec.ofNat 32 ((if s.pwr then 512 else 0) + (if s.therm then 256 else 0) + s.level)

/-- MEMERR (R362). -/
def State.memErr (s : State) : Word := BitVec.ofNat 8 s.trust ++ BitVec.ofNat 8 s.retired ++ BitVec.ofNat 16 s.corrected

/-- The registers of the device (R262, R285, R305, R361, R362). -/
def State.readDevice (s : State) (i n : Nat) : Word :=
  match i with
  | 0x012 => BitVec.ofNat 32 s.ns
  | 0x013 => BitVec.ofNat 32 (s.ns / 2 ^ 32)
  | 0x022 => if s.ssc then 1 else 0
  | 0x028 => BitVec.ofNat 32 (wsNext n s.ns)
  | 0x029 => BitVec.ofNat 32 (wsLeft n s.ns)
  | 0x072 => addrLo s.ctxtab
  | 0x073 => addrHi s.ctxtab
  | 0x0AC => (s.port n).ioctx
  | 0x0D9 => s.killst
  | 0x0E0 => s.planar
  | 0x0E1 => s.plannet
  | 0x0E2 => FMap.get 2000 s.planreg n
  | 0x0E3 => if s.planssc then 1 else 0
  | 0x0E5 => s.clkst
  | 0x0E8 => s.powerStatus
  | 0x0EC => BitVec.ofNat 32 (FMap.get [] s.pools n).length
  | 0x0ED => BitVec.ofNat 32 s.poollow
  | 0x0F4 => (s.port n).status
  | 0x0F8 => s.memErr
  | _ => 0

/-- A read of a register that takes nothing (R262): LANEID is the number of a lane, which SYSRD supplies. -/
def State.readReg (s : State) (v : RegView) (i n : Nat) : Word :=
  match i with
  | 0x007 => BitVec.ofNat 32 v.core
  | 0x008 => BitVec.ofNat 32 (v.core / 4)
  | 0x009 => BitVec.ofNat 32 v.ctx
  | 0x00A => BitVec.ofNat 32 (s.viewPart v)
  | 0x010 => BitVec.ofNat 32 (s.coreCk v.core)
  | 0x011 => BitVec.ofNat 32 (s.coreCk v.core / 2 ^ 32)
  | 0x020 => BitVec.ofNat 32 (s.core v.core).khz
  | 0x021 => BitVec.ofNat 32 (FMap.get 1700000 s.net (v.core / 4))
  | _ =>
    if groupReg i then (if v.who = .nobody then 0 else s.readGroup v i)
    else if ctxReg i then (s.ctx v.ctx).readReg i n
    else if partReg i then s.readPart (s.viewPart v) i
    else s.readDevice i n

/-- Where an access of a hart falls in the register windows (R260): context, index and element, none outside them. -/
def hartWindow (pa : Nat) : Option (Nat × Nat × Nat) :=
  let lo := 0xFF00000000000
  let arr := 0xFF80000000000
  if lo ≤ pa ∧ pa < lo + 0x2000 * 4096 then some ((pa - lo) / 0x2000, (pa - lo) % 0x2000 / 8, 0)
  else if arr ≤ pa ∧ pa < arr + 0x100000 * 4096 then
    (let o := (pa - arr) % 0x100000
     some ((pa - arr) / 0x100000, o / 0x800, o % 0x800 / 8))
  else none

/-- The pool list that a register names (R297): none for another register and for POOLRSV. -/
def poolOf (i : Nat) : Option Nat :=
  if 0x0C0 ≤ i ∧ i ≤ 0x0C2 then some (i - 0x0C0) else if 0x0C4 ≤ i ∧ i ≤ 0x0C9 then some (i - 0x0C4 + 3) else none

/-- The scrubbed list of the pool register at a physical address (R260, R297). -/
def hartPool (pa : Nat) : Option Nat := (hartWindow pa).bind fun a => poolOf a.2.1

end Sys2Proof.Machine
end

