-- ==== Sys2Proof/Machine/Deliver.lean ====
section
/-! DEFINITION. The walk of a request, its performance and the landing of its result (spec/03_memory.md R73 to R76, R80;
spec/04_ordering.md R104; spec/02_execution.md R63; spec/10 R205, R214; spec/06 R142; spec/16 R280). -/

namespace Sys2Proof.Machine

/-- Bytes put into a buffer at their places. -/
def putAll (m : FMap Byte) (bs : List (Nat × Byte)) : FMap Byte := bs.foldl (fun m e => FMap.set 0 m e.1 e.2) m

/-- The bytes of one request reach a copy (R246); a copy that lands nowhere goes with its last byte (R250). -/
def State.landPart (s : State) (id : Nat) (bs : List (Nat × Byte)) : State :=
  let copies := s.copies.map fun x => if x.id = id then { x with buf := putAll x.buf bs, left := x.left - 1 } else x
  { s with copies := copies.filter fun x => !(x.id == id && x.left == 0 && (match x.kind with
      | .scratch _ _ [] => true
      | _ => false)) }

/-- The bytes of one request reach a job (R251). -/
def State.landJob (s : State) (id : Nat) (bs : List (Nat × Byte)) : State :=
  { s with jobs := s.jobs.map fun j => if j.id = id then { j with buf := putAll j.buf bs, left := j.left - 1 } else j }

/-- A fetched word reaches the split that waits for it: the next of those from its PC on that it lacks (R52, R278). -/
def State.landFetch (s : State) (w : Who) (va : DWord) (bs : List (Nat × Byte)) : State :=
  let sp := s.sp w
  if sp.wait = some .fetch ∧ (va - sp.pc).toNat < 128 then
    s.setSp w { sp with words := sp.words.filter (fun e => e.1 != va.toNat) ++ [(va.toNat, BitVec.ofNat 32 (ofBytes (bs.map (·.2))))] }
  else s

/-- The answer of a port to an inbound request (R293): a read returns its bytes. -/
def State.answer (s : State) (r : Req) (n tag : Nat) (bs : List (Nat × Byte)) : State :=
  match r.kind with
  | .load => let p := s.port n
             s.setPort n { p with answers := p.answers ++ [(tag, some (bs.map (·.2)))] }
  | _ => s

/-- The landing of a request that has been performed (R63): none while the context's banks are between states. -/
def State.landReq (s : State) (r : Req) : Option State :=
  match r.st with
  | .done ws bs =>
    (match r.land with
     | .none => some (s.dropReq r.id)
     | .regs core block ix sb _ _ _ _ _ =>
       (s.atHome r.ctx core block fun b => b.setGroup ix ((b.group ix).landAll sb r.lanes ws)).map (·.dropReq r.id)
     | .copy id => some ((s.landPart id bs).dropReq r.id)
     | .job id => some ((s.landJob id bs).dropReq r.id)
     | .fetch w => some ((s.landFetch w (r.va + BitVec.ofNat 64 ((r.pieces.headD ⟨0, 0, 0, 0⟩).off)) bs).dropReq r.id)
     | .port n tag => some ((s.answer r n tag bs).dropReq r.id))
  | _ => none

/-- The landing of the request with a number, when it can land. -/
def State.landId (s : State) (id : Nat) : State :=
  match s.req? id with
  | some r => ((s.landReq r).map (·.freed r)).getD s
  | none => s

/-- Performs the request with a number when it may be performed, and lands its result when that can land. -/
def State.goId (s : State) (id : Nat) : State :=
  match s.req? id with
  | some r => if s.mayGo r then ((s.perform1 r).landId id).freed r else s
  | none => s

/-- Whether a request acts at its home slice in a step of its own: an atomic, a name's count or a swap of names. -/
def Req.atSlice (r : Req) : Bool :=
  match r.kind with
  | .atom _ _ _ _ | .caswap _ _ | .pin | .caInc _ | .caDec _ => true
  | _ => false

/-- Whether a request is the insert of a content line. -/
def Req.inserts (r : Req) : Bool :=
  match r.kind with
  | .caInsert _ _ => true
  | _ => false

/-- COMPLETION (R63): a request other than an atomic or an insert is performed, or the result of one that has been
performed lands. -/
def execCompletion (s : State) : Answer :=
  match s.arg with
  | .num id =>
    (match s.req? id with
     | some r => if r.performed then .next (s.landId id) else if r.atSlice || r.inserts then .next s else .next (s.goId id)
     | none => .next s)
  | _ => .next s

/-- HOME_SLICE_ATOMIC (R92, R93, R214): one lane of an atomic, a swap or a count applies. -/
def execHomeSliceAtomic (s : State) : Answer :=
  match s.arg with
  | .num id =>
    (match s.req? id with
     | some r => if r.atSlice then .next (s.goId id) else .next s
     | none => .next s)
  | _ => .next s

/-- CA_INSERT (R142): the home slice runs insert. -/
def execCaInsert (s : State) : Answer :=
  match s.arg with
  | .num id =>
    (match s.req? id with
     | some r => if r.inserts then .next (s.goId id) else .next s
     | none => .next s)
  | _ => .next s

/-- Whether a request is a read of an ordinary line that its home slice combines with others (R80). -/
def Req.joins (r : Req) (n : Nat) : Bool :=
  (match r.kind with
   | .load | .fetch => true
   | _ => false) && (match r.st with
   | .mapped pa 0 _ => lineOf pa == n && r.translated
   | _ => false)

/-- READ_WINDOW_CLOSE (R80): the window of a line closes, and every read that has joined is answered with one value. -/
def execReadWindowClose (s : State) : Answer :=
  match s.arg with
  | .num n => .next ((s.reqs.filter (·.joins n)).foldl (fun t r => t.goId r.id) s)
  | _ => .next s

/-- The core whose TLB a request fills. -/
def Req.fillCore (r : Req) : Option Nat := if r.fromCore then some r.core else none

/-- The end of a request's walk (R73 to R76, R280): a marker routes it to Sorrel; else its leaf translates it and fills
the TLB, or its cause sends it to Sorrel. -/
def State.walkReq (s : State) (r : Req) : State :=
  let r1 := { r with gen := (s.ctx r.ctx).tgen.toNat }
  if s.markers.contains (r.ctx, granuleOf r.va) then s.setReq { r1 with st := .routed }
  else match s.translate r.ctx r.va r.need (r.space == .peer) r.isAtomic with
    | .ok pa cls tier level at_ e =>
      (s.fillWalk r.fillCore r.ctx r.va r.need level at_ e).setReq { r1 with st := .mapped pa cls tier }
    | .fail c l e => s.setReq { r1 with st := .failed c l e }

/-- PAGE_WALK (R71 to R76). -/
def execPageWalk (s : State) : Answer :=
  match s.arg with
  | .num id =>
    (match s.req? id with
     | some r => if r.st = .needWalk ∧ r.translated = true then .next (s.walkReq r) else .next s
     | none => .next s)
  | _ => .next s

/-- Whether a leaf of a class is behind a port as peer memory (R72). -/
def peerClass (cls : Nat) : Bool := cls == 2 || cls == 3

/-- PEER_FAILURE_COMPLETION (R294): the peer answers an outbound request with a failure completion, and the request goes to
Sorrel with cause 5. -/
def execPeerFailureCompletion (s : State) : Answer :=
  match s.arg with
  | .num id =>
    (match s.req? id with
     | some r =>
       (match r.st with
        | .mapped _ cls _ => if r.space = .peer ∧ peerClass cls = true ∧ s.mayGo r = true then .next (s.failReq r 5 0) else .next s
        | _ => .next s)
     | none => .next s)
  | _ => .next s

/-- Whether a read of a page of class MMIO goes to the device: those of copies and jobs read zeros (R246, R251). -/
def Req.asksDevice (r : Req) : Bool :=
  match r.land with
  | .copy _ | .job _ => false
  | _ => true

/-- MMIO_READ_TIMEOUT (R354): an MMIO read that its endpoint does not answer gives 0xFF in every byte, and is counted. -/
def execMmioReadTimeout (s : State) : Answer :=
  match s.arg with
  | .num id =>
    (match s.req? id with
     | some r =>
       (match r.st, r.kind with
        | .mapped pa 4 _, .load =>
          if s.mayGo r && r.asksDevice then
            let (ws, bs) := r.deliver fun _ => 0xFF
            .next (((s.countUncorr (Config.portOf pa).val).finish r ws bs).landId id)
          else .next s
        | _, _ => .next s)
     | none => .next s)
  | _ => .next s

/-- A state in which lines have come to be poisoned (R349). -/
def State.notePoison (s : State) : State := { s with parts := s.parts.map fun e => (e.1, e.2.notePoison s.poisoned) }

/-- Marks a line of memory as poisoned (R342, R349). -/
def State.poisonLine (s : State) (pa : Nat) : State := ({ s with poison := FMap.set false s.poison (lineOf pa) true } : State).notePoison

/-- Whether a leaf reaches CXL memory: as ordinary memory of that tier, or as a system/peer page (R66, R72). -/
def cxlMemory (pa cls tier : Nat) : Bool := (cls == 0 && tier == 2) || (peerClass cls && Config.isCxl pa)

/-- CXL_POISON_COMPLETION (R355): a read of CXL memory returns the poison indication; its line is poisoned and the read
goes to Sorrel with cause 4 (R342). -/
def execCxlPoisonCompletion (s : State) : Answer :=
  match s.arg with
  | .num id =>
    (match s.req? id with
     | some r =>
       (match r.st with
        | .mapped pa cls tier =>
          if cxlMemory pa cls tier = true ∧ r.translated = true ∧ r.need ≠ .write ∧ s.mayGo r = true then .next ((s.poisonLine pa).failReq r 4 0)
          else .next s
        | _ => .next s)
     | none => .next s)
  | _ => .next s

end Sys2Proof.Machine
end

