-- ==== Sys2Proof/Machine/Sorrel.lean ====
section
/-! DEFINITION. Sorrel (spec/16_parking.md R278 to R294; spec/21 R342, R343, R349): parked requests, markers, fault records, the
fault queue and REDRIVE. -/

namespace Sys2Proof.Machine

/-- The slice at which a request parks (R279, R343). -/
def Req.slice (r : Req) : Nat :=
  match r.space with
  | .weight => r.va.toNat % 2 ^ 32 / 2 ^ 25
  | .tree => r.ctx % 128
  | _ => parkSlice r.ctx r.va

/-- The record of a request. -/
def State.rec? (s : State) (id : Nat) : Option ParkRec := s.parked.find? fun p => p.req.id == id

/-- Replaces a record at its place in the order. -/
def State.setRec (s : State) (p : ParkRec) : State := { s with parked := s.parked.map fun q => if q.req.id = p.req.id then p else q }

/-- Whether two requests came in through one port (R293). -/
def Req.samePort (r q : Req) : Bool := r.inbound && q.inbound && r.party == q.party

/-- Whether a request is a line of a job. -/
def Req.forJob (r : Req) : Bool :=
  match r.land with
  | .job _ => true
  | _ => false

/-- Whether a request writes its line and no more. -/
def Req.isStore (r : Req) : Bool :=
  match r.kind with
  | .store _ => true
  | _ => false

/-- Whether a record holds a request back (R19, R111, R280, R281, R293): a request stands behind the records of its line in its context, but
that an inbound write stands behind no record of a core or job, a request of a core behind no inbound record, and an inbound request, of
the inbound records, behind those of its port, of whatever line. -/
def State.holds (s : State) (p : ParkRec) (r : Req) : Bool :=
  let line := p.req.ctx == r.ctx && s.sameLine p.req r
  if p.req.inbound then (if r.inbound then p.req.samePort r else r.forJob && line)
  else line && !(r.inbound && r.isStore)

/-- The records accepted before the record of a request. -/
def State.aheadOf (s : State) (id : Nat) : List ParkRec := s.parked.takeWhile fun p => p.req.id != id

/-- Whether a record waits behind an earlier one. -/
def State.behind (s : State) (p : ParkRec) : Bool := (s.aheadOf p.req.id).any fun q => s.holds q p.req

/-- Whether a request is one to another module, which Sorrel sends to it again (R294). -/
def toPeer (pa cls : Nat) : Bool := (cls == 2 || cls == 3) && !Config.isCxl pa

/-- The physical address of a page-in's own read, which no table translates (R292): the line of its old frame. -/
def State.pageInLine (s : State) (r : Req) : Option Nat :=
  match r.land with
  | .job id => (s.jobs.find? fun j => j.id == id && j.kind == .pageIn).map fun j => pteAddr j.leaf + (va57 r.va - j.page)
  | _ => none

/-- Performs a request that stands neither in a core nor at Sorrel, under the current tables, and lands its result when
that can land (R281, R286); or gives the cause, level and entry that park it. A request to another module goes on its way to it
(R294). -/
def State.tryPerform (s : State) (r : Req) : Except (Nat × Nat × DWord) State :=
  let go (t : State) (st : ReqSt) : Except (Nat × Nat × DWord) State :=
    let r1 := { r with st := st, gen := (s.ctx r.ctx).tgen.toNat }
    let t1 : State := { t with reqs := t.reqs ++ [r1] }
    if !t1.channelFree r1 || (match st with
      | .mapped pa cls _ => r.translated && toPeer pa cls
      | _ => false) then .ok t1
    else
      let t2 := t1.perform1 r1
      match t2.req? r.id with
      | some q =>
        (match q.st with
         | .failed c l e => .error (c, l, e)
         | _ => .ok (t2.landId r.id))
      | none => .ok t2
  if let some pa := s.pageInLine r then go s (.mapped pa 0 0)
  else if r.translated then
    match s.translate r.ctx r.va r.need (r.space == .peer) r.isAtomic with
    | .ok pa cls tier level at_ e => go (s.fillWalk none r.ctx r.va r.need level at_ e) (.mapped pa cls tier)
    | .fail c l e => .error (c, l, e)
  else go s (s.firstSt r)

/-- The acc field of a fault record (R284). -/
def State.accCode (s : State) (r : Req) : Nat :=
  match r.land, r.kind with
  | .port _ _, .store _ => 4
  | .port _ _, _ => 5
  | .job _, .store _ => 7
  | .job _, _ => 6
  | .copy id, _ => if s.copies.any fun x => x.id == id && x.isWalk then 0 else 6
  | _, .store _ => 1
  | _, .atom _ _ _ _ => 2
  | _, .caswap _ _ => 2
  | _, .fetch => 3
  | _, _ => 0

/-- The src field of a fault record (R284). -/
def Req.srcCode (r : Req) : Nat :=
  match r.land with
  | .port n _ => 2 ^ 15 + n % 32
  | _ => r.core % 512 + r.gslot % 32 * 2 ^ 9 + (if r.feed then 2 ^ 14 else 0)

/-- The va field of a fault record (R284, R343, R349). -/
def Req.faultVa (r : Req) : DWord :=
  match r.space with
  | .weight => (0xFFFFFFFF : Word) ++ BitVec.ofNat 32 (r.va.toNat % 2 ^ 32 / 65536 * 65536)
  | .tree => 0
  | _ => BitVec.ofNat 64 (r.va.toNat / 65536 * 65536)

/-- The fault record of a record (R284). -/
def State.faultOf (s : State) (p : ParkRec) : FaultRec :=
  { va := p.req.faultVa, pte := p.pte, seq := p.seq, ctx := p.req.ctx, part := p.req.part, cause := p.cause, acc := s.accCode p.req,
    level := p.level, slice := p.slice, src := p.req.srcCode, gen := p.req.gen }

/-- Whether a page-in leaves a record out of the reports (R292): a store or atomic with cause 2 on a page that moves. -/
def State.hushed (s : State) (p : ParkRec) : Bool :=
  p.cause == 2 && p.req.need.dirties && s.moving.contains (p.req.ctx, granuleOf p.req.va)

/-- Posts the fault record of a record. -/
def State.report (s : State) (p : ParkRec) : State :=
  let x := s.part p.req.part
  s.setPart p.req.part { x with faults := x.faults ++ [s.faultOf p] }

/-- Whether a record lies in the granule of a request, or, where requests are not translated, in its 64 KiB of the weight
store or under its name (R284, R343, R349). -/
def ParkRec.near (p : ParkRec) (r : Req) (pte : DWord) : Bool :=
  p.req.ctx == r.ctx && p.req.translated == r.translated &&
    (if r.translated then granuleOf p.req.va == granuleOf r.va
     else p.req.space == r.space && (if r.space == .weight then p.req.va.toNat / 65536 == r.va.toNat / 65536 else p.pte == pte))

/-- Reports a record whose granule needs repair, unless an earlier report of its granule stands (R284). -/
def State.reportFirst (s : State) (p : ParkRec) : State :=
  if !p.told || s.hushed p || (s.parked.any fun q => q.req.id != p.req.id && q.told && q.near p.req p.pte && !s.hushed q) then s
  else s.report p

/-- The marker of a granule is installed with its first record, and every TLB drops the granule (R280). -/
def State.mark (s : State) (r : Req) : State :=
  let g := granuleOf r.va
  if !r.translated || s.markers.contains (r.ctx, g) then s
  else { s with markers := s.markers ++ [(r.ctx, g)] }.dropTlbs r.ctx (65536 * g) (65536 * (g + 1))

/-- The destination of register results (R282): dkind and dest, with the row of a lane register counted from that of its block. -/
def landPlace (row0 first : Nat) (dst : List (Option Loc)) : Nat × Nat :=
  match dst with
  | some (.row n) :: _ => (1, row0 + n)
  | some (.s n) :: _ => (2, n)
  | some (.slot n) :: _ => (3, n)
  | some (.tile n) :: _ => (3, n + 32 + 64 * first)
  | _ => (1, 0)

/-- dkind and dest of a request (R282). -/
def State.destOf (s : State) (r : Req) : Nat × Nat :=
  let first := (r.pieces.headD ⟨0, 0, 0, 0⟩).first
  let regs (core block ix : Nat) (dst : List (Option Loc)) : Nat × Nat :=
    let b := s.anywhere r.ctx core block
    landPlace (b.place.row + 16 * b.u * ix) first dst
  match r.land with
  | .none | .fetch _ => (0, 0)
  | .regs core block ix _ dst _ _ _ _ => regs core block ix dst
  | .copy id =>
    (match s.copies.find? fun x => x.id == id with
     | some x =>
       (match x.kind with
        | .scratch dst full ts =>
          (4, (dst + first) % 2 ^ 18 + (if r.op = 0xF3 then (ts.map fun t => 2 ^ (18 + t.1 % 4)).sum else 0) + (if full then 2 ^ 22 else 0))
        | .fifo f e =>
          let row := match (FMap.get [] (s.anywhere r.ctx x.core x.block).fifos f).find? fun y => y.id == e with
            | some y => first / max 1 (rowBytesOf y.isB y.ty.toNat)
            | none => 0
          (5, f + 32 * row)
        | .kv _ _ _ _ _ (.regs core block ix _ dst _ _ _ _) _ => regs core block ix dst
        | _ => (0, 0))
     | none => (0, 0))
  | .job id => (6, match s.jobs.find? fun j => j.id == id with
    | some j => if j.kind = .pageIn then 0 else j.handle
    | none => 0)
  | .port n tag => (7, n + 32 * tag)

/-- The lanes of a record (R282): bit 0 alone for feed threads, jobs and inbound requests. -/
def Req.recordLanes (r : Req) : Nat :=
  if r.feed || r.inbound then 1 else match r.land with
    | .job _ => 1
    | _ => r.lanes.toNat

/-- How many bytes from one access to the next a request's buffer has at a byte of it; 0 where it holds one access: the rows of an
operand-FIFO entry, and after them its scales and bounds, each at a multiple of four bytes (R247). -/
def State.rowUnit (s : State) (r : Req) (first : Nat) : Nat :=
  match r.land with
  | .copy id =>
    (match s.copies.find? fun x => x.id == id with
     | some x =>
       (match x.kind with
        | .fifo f e =>
          if x.size ≤ first then 4
          else match (FMap.get [] (s.anywhere r.ctx x.core x.block).fifos f).find? fun y => y.id == e with
            | some y => rowBytesOf y.isB y.ty.toNat
            | none => 0
        | _ => 0)
     | none => 0)
  | _ => 0

/-- The loff byte of a piece (R282): the place of the access's first byte, or the count of its last bytes. -/
def Piece.loff (p : Piece) (unit : Nat) : Nat := if p.off ≠ 0 ∨ p.n = 128 ∨ p.first % unit = 0 then p.off % 128 else 128 + p.n % 128

/-- The loff bytes of a record by lane (R282): of several pieces of one lane the first counts. -/
def State.loffs (s : State) (r : Req) : FMap Nat :=
  r.pieces.foldl (fun m q =>
    let l := if r.recordLanes = 1 then 0 else q.lane
    if m.any fun e => e.1 == l then m else FMap.put m l (q.loff (s.rowUnit r q.first))) []

/-- The data and be fields of a record (R282). -/
def ReqKind.dataBits : ReqKind → Nat × Nat
  | .store bytes => ((bytes.foldl (fun m e => FMap.put m e.1 e.2.toNat) ([] : FMap Nat)).foldl (fun v e => v + e.2 * 2 ^ (8 * e.1)) 0,
                     (bytes.foldl (fun m e => FMap.put m e.1 1) ([] : FMap Nat)).foldl (fun v e => v + 2 ^ e.1) 0)
  | .atom _ _ v c => (v.toNat + 2 ^ 64 * c.toNat, 0)
  | .caswap v c => (v.toNat + 2 ^ 64 * c.toNat, 0)
  | _ => (0, 0)

/-- The fields of a record (R282): lowest bit, width and value. -/
def State.recordFields (s : State) (p : ParkRec) : List (Nat × Nat × Nat) :=
  let r := p.req
  let (data, be) := r.kind.dataBits
  let (dkind, dest) := s.destOf r
  [(640, 1024, data), (512, 128, be), (448, 64, r.va.toNat), (416, 32, p.seq.toNat), (384, 32, r.recordLanes), (352, 32, r.gen), (340, 12, r.ctx),
   (336, 4, r.part), (327, 9, r.core), (322, 5, r.gslot), (321, 1, r.feed.toNat), (312, 8, r.op.toNat), (307, 5, r.ty.toNat),
   (303, 4, r.sub.toNat), (301, 2, r.order.toNat), (299, 2, r.scope.toNat), (296, 3, r.cls), (293, 3, p.cause), (290, 3, dkind), (256, 32, dest)] ++
    ((s.loffs r).map fun e => (8 * e.1, 8, e.2))

/-- The 2,048 bits of a park record (R282). -/
def State.recordBits (s : State) (p : ParkRec) : BitVec 2048 :=
  BitVec.ofNat 2048 ((s.recordFields p).map fun (lo, w, v) => v % 2 ^ w * 2 ^ lo).sum

/-- The ring places of a partition that hold a record (R283). -/
def State.ringUsed (s : State) (part : Nat) : List Nat :=
  (s.parked.filter fun p => p.req.part == part).filterMap (·.ring) ++
    (s.reqs.filter fun q => q.part == part).filterMap fun q => q.record.bind (·.2)

/-- The records of a partition in its overflow ring (R283). -/
def State.ringCount (s : State) (part : Nat) : Nat := (s.ringUsed part).length

/-- Where a further record of a partition goes at a slice (R283): on chip, or the first free place of the ring (assumption log 26). -/
def State.ringPlace (s : State) (part slice : Nat) : Option Nat :=
  if s.onChip part slice < 16 then none else (List.range 65536).find? fun k => !(s.ringUsed part).contains k

/-- A record in the ring is written to its place in memory (R283). -/
def State.writeRing (s : State) (p : ParkRec) : State :=
  match p.ring with
  | some k => { s with mem := s.mem.writeAll (at_ ((s.part p.req.part).pkbase + 256 * k) (bytesOf (s.recordBits p) 256)) }
  | none => s

/-- Sorrel accepts a record (R281): it takes the next sequence number of its slice. -/
def State.accept (s : State) (r0 : Req) (cause level : Nat) (pte : DWord) (tried told : Bool) : State × ParkRec :=
  let r := { r0 with record := none }
  let n := r.slice
  let q := FMap.get 0 s.seqs n
  let p : ParkRec := { req := r, slice := n, seq := q, cause := cause, level := level, pte := pte, since := s.ns, tried := tried, told := told,
                       ring := s.ringPlace r.part n }
  (({ (s.mark r) with parked := s.parked ++ [p], seqs := FMap.set 0 s.seqs n (q + 1) }).writeRing p, p)

/-- Accepts a record with a cause of its own and reports it when it is the first of its granule. -/
def State.acceptFail (s : State) (r : Req) (cause level : Nat) (pte : DWord) : State :=
  let (t, p) := s.accept r cause level pte true true
  t.reportFirst p

/-- The cause that a request has of itself (R278): that with which it came, or the one that its translation gives now. -/
def State.ownFail (s : State) (r : Req) : Option (Nat × Nat × DWord) :=
  match r.st with
  | .failed 4 l e => some (4, l, e)
  | .failed 5 l e => some (5, l, e)
  | _ =>
    if r.translated then
      match s.translate r.ctx r.va r.need (r.space == .peer) r.isAtomic with
      | .fail c l e => some (c, l, e)
      | .ok _ _ _ _ _ _ => none
    else none

/-- The cause under which a request is parked that waits only behind another: its own, or that of the record ahead, which the spec
leaves open (assumption log 55). -/
def State.causeBehind (s : State) (r : Req) : Nat × Nat × DWord :=
  (s.ownFail r).getD (((s.parked.find? fun p => s.holds p r).map (·.cause)).getD 0, 0, 0)

/-- A request is parked behind another (R281, R293); where its own translation fails, its granule needs repair as well (R284). -/
def State.parkBehind (s : State) (r : Req) : State :=
  let (c, l, e) := s.causeBehind r
  let (t, p) := s.accept r c l e false (s.ownFail r).isSome
  t.reportFirst p

/-- What Sorrel gives a request that stands behind no record (R281, R291, R294): where its walk is of this generation it has failed as it
came when no marker stands, and one that another module has failed waits for a REDRIVE; else it is translated. -/
def State.tryNow (s : State) (r : Req) : Except (Nat × Nat × DWord) State :=
  match r.st with
  | .failed c l e =>
    if r.gen = (s.ctx r.ctx).tgen.toNat ∧ (c = 5 ∨ (r.translated = true ∧ s.markers.contains (r.ctx, granuleOf r.va) = false)) then .error (c, l, e)
    else s.tryPerform r
  | _ => s.tryPerform r

/-- Whether Sorrel would perform a request rather than park it. -/
def State.performsNow (s : State) (r : Req) : Bool :=
  !(s.parked.any fun p => s.holds p r) && (match s.tryNow r with
    | .ok _ => true
    | .error _ => false)

/-- What Sorrel does with a request that reaches it (R281, R291, R293): behind a record it waits; else it is performed, or parked with
its cause. -/
def State.sorrel (s : State) (r : Req) : State :=
  if s.parked.any fun p => s.holds p r then s.parkBehind r
  else match s.tryNow r with
    | .ok t => t
    | .error (c, l, e) => s.acceptFail { r with gen := (s.ctx r.ctx).tgen.toNat } c l e

/-- A request of a core leaves it for Sorrel (R280, R290). -/
def State.parkReq (s : State) (r : Req) : State :=
  let s1 := s.dropReq r.id
  if (s.ctx r.ctx).killed then s1.failInbound r else s1.sorrel r

/-- Whether a request may leave its core for Sorrel (R104, R110, R113, R280): its party's order lets it go on, and every earlier request
to its line has been performed or accepted. -/
def State.leaves (s : State) (r : Req) : Bool :=
  !r.held && s.orderRest r && !(s.reqs.any fun q => !q.performed && q.before r && s.sameLine q r)

/-- Whether a request goes to Sorrel (R278, R280): it has failed or a marker routes it, or it follows an accepted request of its party
to its line. -/
def State.toSorrel (s : State) (r : Req) : Bool :=
  match r.st with
  | .failed _ _ _ | .routed => true
  | .mapped _ _ _ => s.parked.any fun p => p.req.before r && s.sameLine p.req r
  | _ => false

/-- Whether the ring of a partition is full (R283). -/
def State.ringFull (s : State) (part : Nat) : Bool := decide (65536 ≤ s.ringCount part)

/-- Whether Sorrel takes a request now (R283): where the ring of its partition is full, one that would be parked waits. -/
def State.canPark (s : State) (r : Req) : Bool := s.toSorrel r && s.leaves r && (!s.ringFull r.part || (s.dropReq r.id).performsNow r)

/-- PARK (R278 to R283). -/
def execPark (s : State) : Answer :=
  match s.arg with
  | .num id =>
    (match s.req? id with
     | some r => if s.canPark r then .next (s.parkReq r) else .next s
     | none => .next s)
  | _ => .next s

/-- Translates a record again: performed, it leaves Sorrel, which holds it until its completion lands (R283); failed, it keeps its
place with its new cause. -/
def State.retry (s : State) (p : ParkRec) : State × Option ParkRec :=
  match s.tryPerform { p.req with record := some (p.slice, p.ring) } with
  | .ok t => (t.unpark p.req.id, none)
  | .error (c, l, e) =>
    let q : ParkRec := { p with cause := c, level := l, pte := e, tried := true, told := true, req := { p.req with gen := (s.ctx p.req.ctx).tgen.toNat } }
    ((s.setRec q).writeRing q, some q)

/-- The records that have waited only behind others and no longer do are translated, in the order of acceptance (R281, R293). -/
def State.settle (s : State) : State :=
  ((s.parked.map (·.req.id)).foldl (fun t id =>
    match t.rec? id with
    | some p =>
      if p.tried = false ∧ t.behind p = false then
        (match t.retry p with
         | (u, some q) => if p.told then u else u.reportFirst q
         | (u, none) => u)
      else t
    | none => t) s).trimMarkers

/-- Translates again every record that meets a condition (R139, R343). -/
def State.retryAll (s : State) (f : ParkRec → Bool) : State :=
  (((s.parked.filter f).map (·.req.id)).foldl (fun t id =>
    match t.rec? id with
    | some p => if t.behind p then t else (t.retry p).1
    | none => t) s).settle

/-- Whether a record waits behind an earlier one in a REDRIVE of its granule (R286): one of its port (R111), one of its own party to
the same line (R102, R113), or one that holds it at its own address; the records of other granules hold it in no other way (assumption
log 55). -/
def State.stays (s : State) (p : ParkRec) : Bool :=
  (s.aheadOf p.req.id).any fun q => s.holds q p.req && (q.req.samePort p.req || q.req.before p.req || q.req.va == p.req.va)

/-- REDRIVE at one line (R286): its records by ascending sequence number, up to the first that fails. One that waits behind a record of
another granule is translated when that has gone. -/
def State.redriveLine : List Nat → State → State × Option ParkRec
  | [], s => (s, none)
  | id :: rest, s =>
    match s.rec? id with
    | none => State.redriveLine rest s
    | some p =>
      if s.stays p then State.redriveLine rest (s.setRec { p with tried := false, told := false })
      else match s.retry p with
        | (t, none) => State.redriveLine rest t
        | (t, some q) => (t, some q)

/-- REDRIVE of one granule (R286): line by line, and one fault record when a record still fails. -/
def State.redriveGranule (s : State) (ctx g : Nat) : State :=
  let mine (p : ParkRec) : Bool := p.req.ctx == ctx && p.req.translated && granuleOf p.req.va == g
  let lines := sortBy (fun a b => decide (a ≤ b)) (distinct ((s.parked.filter mine).map fun p => p.req.va.toNat / 128))
  let (t, bad) := lines.foldl (fun (acc : State × List ParkRec) l =>
    let ids := (acc.1.parked.filter fun p => mine p && p.req.va.toNat / 128 == l).map (·.req.id)
    let (u, q) := State.redriveLine ids acc.1
    (u, acc.2 ++ q.toList)) (s, [])
  match bad.find? fun p => !t.hushed p with
  | some p => t.report p
  | none => t

/-- REDRIVE (R286, R290): the generation grows by one, and each granule of the range with a record is driven again. That it has no
effect through the window of a number that holds no context, not even on the generation, is the model's choice (assumption log 75). -/
def State.redrive (s : State) (ctx : Nat) (va : DWord) (n : Nat) : State :=
  let x := s.ctx ctx
  if !x.created || x.killed || !(va.extractLsb' 56 8 == 0 || va.extractLsb' 56 8 == 0xFF) then s
  else
    let s1 := s.setCtx ctx { x with tgen := x.tgen + 1 }
    let lo := granuleOf va
    let gs := sortBy (fun a b => decide (a ≤ b)) (distinct ((s1.parked.filter fun p =>
      p.req.ctx == ctx && p.req.translated && decide (lo ≤ granuleOf p.req.va) && decide (granuleOf p.req.va < lo + n)).map fun p => granuleOf p.req.va))
    (gs.foldl (fun t g => t.redriveGranule ctx g) s1).settle

/-- A write of REDRIVEHI (R285, R286). -/
def State.redriveWrite (s : State) (ctx : Nat) (hi : Word) : State :=
  let lo := (s.ctx ctx).redrivelo
  s.redrive ctx (hi ++ (lo.extractLsb' 16 16 ++ (0 : BitVec 16))) ((lo.extractLsb' 0 16).toNat + 1)

/-- REDRIVE (R286). -/
def execRedrive (s : State) : Answer :=
  match s.arg with
  | .write ctx v => .next (s.redriveWrite ctx v)
  | _ => .next s

/-- The 256 bits of a fault record (R284). -/
def FaultRec.bits (f : FaultRec) : BitVec 256 :=
  (f.va ++ f.pte ++ f.seq ++ BitVec.ofNat 12 f.ctx ++ BitVec.ofNat 4 f.part ++ BitVec.ofNat 3 f.cause ++ BitVec.ofNat 3 f.acc ++
    BitVec.ofNat 2 f.level ++ BitVec.ofNat 7 f.slice ++ BitVec.ofNat 16 f.src ++ (0 : BitVec 17) ++ BitVec.ofNat 32 f.gen)

/-- Whether a fault queue has room (R284). -/
def Part.queueRoom (p : Part) : Bool := (p.fqtail + 1) % 2 ^ p.fqsize != p.fqhead

/-- FAULT_RECORD_POST (R284): the oldest waiting fault record of a partition enters its queue, when that has room. -/
def execFaultRecordPost (s : State) : Answer :=
  match s.arg with
  | .num n =>
    let p := s.part n
    (match p.faults with
     | f :: rest =>
       if p.queueRoom then
         let t := s.setPart n { p with faults := rest, fqtail := (p.fqtail + 1) % 2 ^ p.fqsize }
         .next { t with mem := t.mem.writeAll (at_ (p.fqbase + 32 * p.fqtail) (bytesOf f.bits 32)) }
       else .next s
     | [] => .next s)
  | _ => .next s

/-- Whether a core's hart has the fault-queue interrupt pending in mip bit 16 (R284). -/
def State.faultIrq (s : State) (core : Nat) : Bool := s.parts.any fun e => e.2.fqhart == core && e.2.fqhead != e.2.fqtail

end Sys2Proof.Machine
end

