-- ==== Sys2Proof/Machine/Kill.lean ====
section
/-! DEFINITION. A context is killed (spec/18_traps.md R318, R319; spec/16_parking.md R290). -/

namespace Sys2Proof.Machine

/-- Sorrel discards the records of a context and of the ports that it translates (R290, R318), also those whose request it has sent to
another module again (R294); what waited behind them at a port goes on (R293). -/
def State.discardRecords (s : State) (ctx : Nat) : State :=
  let gone := s.parked.filter fun p => p.req.ctx == ctx
  let s1 := gone.foldl (fun t p => (t.failInbound p.req).unpark p.req.id) s
  let sent := s1.reqs.filter fun q => q.ctx == ctx && q.inbound && q.record.isSome && !q.performed
  let s2 := (sent.foldl (fun t q => ((t.failInbound q).dropReq q.id).freed q) s1).settle
  { s2 with parts := s2.parts.map fun e => (e.1, { e.2 with faults := e.2.faults.filter fun f => f.ctx != ctx }) }

/-- Whether a request is a line of a job (R318). -/
def Req.ofJob (r : Req) : Bool :=
  match r.party with
  | .job _ => true
  | _ => false

/-- The requests of a killed context (R318): those that have left are performed and their results dropped; those held at a core, those
of its jobs, and results that have yet to land, go, and so do the records of those that Sorrel has sent again (R290). -/
def State.dropResults (s : State) (ctx : Nat) : State :=
  let mine (q : Req) : Bool := q.ctx == ctx && !q.inbound
  let left := s.reqs.filter fun q => !(mine q && (q.held || q.performed || q.ofJob))
  let t : State := { s with reqs := left.map fun q => if mine q then { q with land := .none, record := none } else q }
  (s.reqs.filter fun q => mine q && q.record.isSome).foldl State.freed t

/-- The frames that page-ins of a context have taken and not installed, with the lists that they come from (R318). -/
def State.openFrames (s : State) (ctx : Nat) : List (Nat × Nat) :=
  (s.jobs.filter fun j => j.ctx == ctx && j.kind == .pageIn).filterMap fun j => j.frame.map fun f => (f, poolList 0 j.size)

/-- The context-error interrupt as CTXERR of the contexts leaves it (R263, R305; assumption log 40). -/
def State.withCtxIrq (s : State) : State := { s with ctxIrq := s.ctxs.any fun e => e.2.ctxerr &&& 0xC0000000 != 0 }

/-- What a kill does at once (R290, R318): records are discarded, copies land nowhere, jobs stop and give their frames back, the event
vector and CTXERR clear, and the save image is not used again. That the context-error interrupt drops with the last CTXERR that a kill
clears is the model's choice (assumption log 40). -/
def State.stopAll (s : State) (ctx : Nat) : State :=
  let s1 := (s.discardRecords ctx).dropResults ctx
  let s2 : State := { s1 with
    copies := s1.copies.filter fun x => x.ctx != ctx
    jobs := s1.jobs.filter fun j => j.ctx != ctx
    moving := s1.moving.filter fun m => m.1 != ctx }
  let s3 := (s1.openFrames ctx).foldl (fun t f => t.free f.1 f.2) s2
  (s3.setCtx ctx { s3.ctx ctx with ev := 0, evClear := 0, evSet := 0, ctxerr := 0, image := none, ranges := none, staged := false, idle := 0 }).withCtxIrq

/-- A core without a context: its banks and queues hold nothing of it; a pass that has begun goes on. -/
def Core.without (c : Core) (ctx : Nat) : Core :=
  let bs := (blocksOf c.act ctx ++ blocksOf c.sha ctx).map (·.1)
  { c with
    act := bankLess c.act ctx
    sha := bankLess c.sha ctx
    preempt := c.preempt.filter (· != ctx)
    pairs := c.pairs.filter fun p => p.1 != ctx && p.2 != ctx
    mq := c.mq.filter fun o => !bs.contains o.block || o.begun }

/-- Whether a kill takes effect on a core now (R59, R318, R319): its groups there are at a pre-emption point, no swap of the context
runs, and no block of it is about to retire. -/
def State.canCut (s : State) (core ctx : Nat) : Bool :=
  let c := s.core core
  s.atBoundary core ctx && !(c.swaps.any fun w => w.leaving == some ctx || w.coming == some ctx) &&
    !((blocksOf c.act ctx).any fun e => s.canRetire core e.1)

/-- The cut of a killed context on the cores where it takes effect now (R318): nothing is saved, and its banks are freed. -/
def State.cut (s : State) (ctx : Nat) : State :=
  let s1 := (s.cores.filter fun e => s.canCut e.1 ctx).foldl (fun t e =>
    (t.dropWalks e.1 ctx).setCore e.1 ((t.core e.1).without ctx)) s
  if s1.banked ctx then s1
  else
    { s1 with
      gangs := s1.gangs.filter fun g => (s1.grid g.2.grid).ctx != ctx
      grids := s1.grids.filter fun g => g.2.ctx != ctx }

/-- Begins a kill (R318): KILLST is busy, the launch queues empty, nothing of the context is taken or placed, its groups stop at their
next pre-emption points, and what it has outside its cores ends. -/
def State.startKill (s : State) (ctx : Nat) : State :=
  let s1 := (s.setCtx ctx { s.ctx ctx with killed := true, lq := [] }).requestPreempt ctx
  { s1.stopAll ctx with killst := 0x80000000 ||| BitVec.ofNat 32 (ctx % 4096) }

/-- The progress of the kill in hand (R318, R319): the cut on each core; then, when nothing of the context is left, the end of the
kill and the beginning of the next. That bits 11:0 of KILLST keep the number after the end is the model's choice (assumption
log 73). -/
def State.killStep (s : State) : State :=
  if !s.killst.getLsbD 31 then s
  else
    let ctx := s.killst.toNat % 4096
    let s1 := (s.cut ctx).dropResults ctx
    if s1.banked ctx || s1.reqs.any (fun q => q.ctx == ctx && !q.inbound) then s1
    else
      let s2 := { s1.setCtx ctx { s1.ctx ctx with created := false, killed := false, res := .spilled } with killst := BitVec.ofNat 32 ctx }
      match s2.kills with
      | [] => s2
      | c :: rest => State.startKill { s2 with kills := rest } c

/-- A write of KILLCTX (R305, R318, R319). -/
def State.killCtx (s : State) (v : Word) : State :=
  let ctx := v.toNat % 4096
  if s.killst.getLsbD 31 then { s with kills := s.kills ++ [ctx] }
  else (s.startKill ctx).killStep

/-- KILLCTX (R318). -/
def execKillctx (s : State) : Answer :=
  match s.arg with
  | .write _ v => .next (s.killCtx v)
  | _ => .next s

end Sys2Proof.Machine
end

