-- ==== Sys2Proof/Machine/Edge.lean ====
section
/-! DEFINITION. The ports (spec/01_device.md R17 to R19; spec/04_ordering.md R110, R111; spec/16_parking.md R293; spec/21 R353 to
R355, R361, R362). -/

namespace Sys2Proof.Machine

/-- Whether a port exists: 0 to 7 are root ports, 8 to 23 Acner ports (R282). -/
def isPort (n : Nat) : Bool := decide (n < 24)

/-- The request of an inbound access (R282, R293): it lies in one line. -/
def State.inboundReq (s : State) (n tag : Nat) (va : DWord) (kind : ReqKind) (len : Nat) : Req :=
  let ctx := (s.port n).ioctx.toNat % 4096
  let o := va.toNat % 128
  { id := s.nextId, ctx := ctx, part := (s.ctx ctx).part, party := .port n, core := 0, gslot := 0, feed := false, grid := 0, cls := 0, instr := 0,
    held := false, kind := kind, space := .global, va := va - BitVec.ofNat 64 o, root := 0, extent := 0, order := 0, scope := 3,
    st := .needWalk, pieces := [{ lane := 0, off := o, n := len, first := 0 }], land := .port n tag, gen := (s.ctx ctx).tgen.toNat, policy := 0,
    uses := 0, op := match kind with
      | .store _ => 0
      | _ => 1 }

/-- Whether a port exists and is up. -/
def State.portUp (s : State) (n : Nat) : Bool := isPort n && (s.port n).state == 0

/-- Whether a port takes a request as far as the ring of its partition goes (R283): where that is full, one that would be parked
waits. -/
def State.ringTakes (s : State) (n : Nat) (r : Req) : Bool := !(s.port n).ioctx.getLsbD 31 || !s.ringFull r.part || s.performsNow r

/-- Whether the partition of a port may park a further inbound record (R285, R293). -/
def State.quotaFree (s : State) (n : Nat) : Bool :=
  let part := (s.ctx ((s.port n).ioctx.toNat % 4096)).part
  !(s.port n).ioctx.getLsbD 31 || decide (s.parkedInbound part < (s.part part).pkioq)

/-- An inbound request arrives (R19, R111, R293): without a context it ends as at a timeout and is counted; behind a record of
its port it is parked; else it is performed, or parked with its cause. -/
def State.inboundArrives (s : State) (n : Nat) (r : Req) : State :=
  if !(s.port n).ioctx.getLsbD 31 then (s.countUncorr n).failInbound r
  else if (s.ctx r.ctx).killed || !(s.ctx r.ctx).created then s.failInbound r
  else { s with nextId := s.nextId + 1 }.sorrel r

/-- INBOUND_POSTED_WRITE (R19, R111, R293). -/
def execInboundPostedWrite (s : State) : Answer :=
  match s.arg with
  | .posted n tag va bs =>
    let o := va.toNat % 128
    let r := s.inboundReq n tag va (.store (bs.zipIdx.map fun (b, i) => (o + i, b))) bs.length
    if s.portUp n && s.ringTakes n r && s.quotaFree n && !bs.isEmpty && decide (o + bs.length ≤ 128) then .next (s.inboundArrives n r)
    else .next s
  | _ => .next s

/-- INBOUND_READ (R293): at the quota an Acner port takes no request, and a root port none that would be parked. -/
def execInboundRead (s : State) : Answer :=
  match s.arg with
  | .inbound n tag va len =>
    let r := s.inboundReq n tag va .load len
    if s.portUp n && s.ringTakes n r && len != 0 && decide (va.toNat % 128 + len ≤ 128) &&
        (s.quotaFree n || (decide (n < 8) && s.performsNow r)) then
      .next (s.inboundArrives n r)
    else .next s
  | _ => .next s

/-- The nanoseconds after which an inbound record ends (R293). -/
def inboundLimit : Nat := 100000000

/-- Ends an inbound record (R293): the write is dropped, the read gets a failure completion, and Sorrel writes a fault
record with the cause under which it was parked; for one that waited only behind another see `State.causeBehind` (assumption log 55). -/
def State.endInbound (s : State) (p : ParkRec) (answer : Bool) : State :=
  let s1 := s.report p
  let s2 := if answer then s1.failInbound p.req else s1
  (s2.unpark p.req.id).settle

/-- INBOUND_TIMEOUT (R293). -/
def execInboundTimeout (s : State) : Answer :=
  match s.arg with
  | .num id =>
    (match s.rec? id with
     | some p => if p.req.inbound && decide (p.since + inboundLimit ≤ s.ns) then .next (s.endInbound p true) else .next s
     | none => .next s)
  | _ => .next s

/-- The relaxed-channel writes of a port are accepted at the far side (R18). -/
def Port.drain (p : Port) : Port := { p with out := p.out ++ p.relaxed.map (fun e => (e.pa, e.bytes)), relaxed := [] }

/-- RELAXED_FLUSH_ACK (R18). -/
def execRelaxedFlushAck (s : State) : Answer :=
  match s.arg with
  | .num n => if (s.port n).state = 0 then .next (s.setPort n (s.port n).drain) else .next s
  | _ => .next s

/-- LINK_CHECK_FAIL (R353): the beat is replayed and counted; a port whose replays of one beat fail 8 times in a row, after the failure that they repeat, retrains. -/
def execLinkCheckFail (s : State) : Answer :=
  match s.arg with
  | .num2 n beat =>
    let p := s.port n
    if isPort n ∧ p.state = 0 then
      let k := if p.fails ≠ 0 ∧ p.beat = beat then p.fails + 1 else 1
      let p1 := { p with corr := satAdd p.corr 65535, beat := beat, fails := k }
      .next (s.setPort n (if 8 < k then { p1 with state := 1, fails := 0 } else p1))
    else .next s
  | _ => .next s

/-- PORT_RETRAINED (R353): the port is up again. -/
def execPortRetrained (s : State) : Answer :=
  match s.arg with
  | .num n => if (s.port n).state = 1 then .next (s.setPort n { s.port n with state := 0 }) else .next s
  | _ => .next s

/-- Whether a port carries CXL memory (R17). -/
def isCxlPort (n : Nat) : Bool := decide (n < 4)

/-- A port goes down (R353 to R355): the event and each write that it drops are counted, the memory behind a CXL port is
treated as poisoned, and its parked inbound records end without an answer. -/
def State.portDown (s : State) (n : Nat) : State :=
  let p := s.port n
  let p1 := { p with
    state := 2
    uncorr := min 255 (p.uncorr + 1 + p.relaxed.length)
    relaxed := []
    poison := p.poison || isCxlPort n }
  let s1 := (s.setPort n p1).notePoison
  ((s1.parked.filter fun r => r.req.inbound && r.req.party == .port n).map (·.req.id)).foldl (fun t id =>
    match t.rec? id with
    | some r => t.endInbound r false
    | none => t) s1

/-- PORT_DOWN (R353). -/
def execPortDown (s : State) : Answer :=
  match s.arg with
  | .num n => if (s.port n).state = 1 then .next (s.portDown n) else .next s
  | _ => .next s

/-- A write of PORTST (R354, R355, R362): retrain acts on a down port, rearm on an up CXL port; a write that sets neither
clears both counts. -/
def State.writePortst (s : State) (n : Nat) (v : Word) : State :=
  let p := s.port n
  let p1 := if v.getLsbD 29 && p.state == 2 then { p with state := 1, fails := 0 } else p
  let p2 := if v.getLsbD 28 && p.state == 0 then { p1 with poison := false } else p1
  s.setPort n (if !v.getLsbD 29 && !v.getLsbD 28 then { p2 with uncorr := 0, corr := 0 } else p2)

/-- PORT_RETRAIN (R362). -/
def execPortRetrain (s : State) : Answer :=
  match s.arg with
  | .write n v => if isPort n && v.getLsbD 29 then .next (s.writePortst n v) else .next s
  | _ => .next s

/-- PORT_REARM (R355, R362). -/
def execPortRearm (s : State) : Answer :=
  match s.arg with
  | .write n v => if isPort n && v.getLsbD 28 then .next (s.writePortst n v) else .next s
  | _ => .next s

/-- PORTST_CLEAR (R362). -/
def execPortstClear (s : State) : Answer :=
  match s.arg with
  | .write n v => if isPort n && !v.getLsbD 29 && !v.getLsbD 28 then .next (s.writePortst n v) else .next s
  | _ => .next s

end Sys2Proof.Machine
end

