-- ==== Sys2Proof/Machine/Jobs.lean ====
section
/-! DEFINITION. Bulk copies, tree copies and page-ins (spec/12_isa_engines.md R251; spec/06_content_addressed.md R145, R150;
spec/03_memory.md R88, R91, R98, R99; spec/16 R292; spec/21 R343, R346, R350), and the scrubbed pools (R297). -/

namespace Sys2Proof.Machine

/-- The job with a number. -/
def State.job? (s : State) (id : Nat) : Option Job := s.jobs.find? fun j => j.id == id

/-- Replaces a job. -/
def State.setJob (s : State) (j : Job) : State := { s with jobs := s.jobs.map fun x => if x.id = j.id then j else x }

/-- Takes a job off. -/
def State.dropJob (s : State) (id : Nat) : State := { s with jobs := s.jobs.filter fun j => j.id != id }

/-- A request of a job through a record (R114, R282): of class .bulk. -/
def Job.request (j : Job) (r : BufRec) (kind : ReqKind) (va : DWord) (ps : List Piece) : Req :=
  { id := 0, ctx := j.ctx, part := j.part, party := .job j.id, core := 0, gslot := 0, feed := false, grid := 0, cls := 3, instr := 0,
    held := false, kind := kind, space := recSpace r, va := va, root := recBase r, extent := recExtent r, order := 0, scope := 2,
    st := .needWalk, pieces := ps, land := .job j.id, gen := 0, policy := recPolicy r, uses := recUses r,
    op := if j.kind = .pageIn then 0 else 0xF4, sub := if j.ev.isEmpty then 0 else 1 }

/-- The weight-store address of a record's base (R86). That a job takes bits 31:0 of it, where an access through such a record fails a
base of 2^32 or more, is the model's choice (assumption log 76). -/
def weightBase (r : BufRec) : Nat := (recBase r).toNat % 2 ^ 32

/-- The address at which a job's bytes begin in a record's space (R66, R86, R147, R251). -/
def jobBase (r : BufRec) : DWord :=
  match recSpace r with
  | .tree => 0
  | .weight => BitVec.ofNat 64 (weightBase r)
  | _ => addrOf r 0

/-- The lines of a job's bytes in a record's space. -/
def jobLines (r : BufRec) (len : Nat) : List (DWord × List Piece) := gatherLines [(0, jobBase r, len)]

/-- A job sends the reads of its whole source (R251). -/
def State.jobReads (s : State) (j : Job) : State :=
  let ls := jobLines j.src j.len
  (s.setJob { j with phase := 1, left := ls.length, buf := [] }).send (ls.map fun (va, ps) => j.request j.src .load va ps)

/-- A byte that a job has read. -/
def Job.byte (j : Job) (i : Nat) : Byte := FMap.get 0 j.buf i

/-- The lines of the weight store that the bytes of a job cover, and whether each is covered whole (R342, R343). -/
def weightLines (a len : Nat) : List (Nat × Bool) :=
  (List.range ((a + len - 1) / 128 - a / 128 + 1)).map fun i =>
    let n := a / 128 + i
    (n, decide (a ≤ 128 * n) && decide (128 * n + 128 ≤ a + len))

/-- Whether a job is a repair copy (R343): its destination is the weight store and every line of it is poisoned. -/
def State.repairs (s : State) (j : Job) : Bool :=
  recSpace j.dst == .weight && (weightLines (weightBase j.dst) j.len).all fun l => FMap.get false s.wsPoison l.1

/-- Whether a partition has a taken, unretired grid that reads the weight store (R88). -/
def State.weightGrid (s : State) (part : Nat) : Bool := s.grids.any fun g => g.2.live && lpbWsr g.2.lpb && (s.ctx g.2.ctx).part == part

/-- Whether a job has a bulk copy engine (R13, R91, R251). -/
def Job.running (j : Job) : Bool := if j.kind = .pageIn then j.frame.isSome else j.phase != 0

/-- Whether one of the package's 64 bulk copy engines is free (R13). -/
def State.engineFree (s : State) : Bool := decide ((s.jobs.filter Job.running).length < 64)

/-- Whether a job may start (R13, R88). -/
def State.jobStarts (s : State) (j : Job) : Bool := s.engineFree && (recSpace j.dst != .weight || !s.weightGrid j.part || s.repairs j)

/-- The end of a job (R139, R143, R150, R251): its event is set, and the reference that a tree copy holds on its root is let go. -/
def State.endJob (s : State) (j : Job) : State :=
  let t := j.ev.foldl (fun t n => t.setEvent j.ctx n) (s.dropJob j.id)
  if j.holds then
    let a := atDigest j.part (nameDigest (recBase j.src)) enginePlace
    ((t.arriving a).caStore j.part (·.dec (recBase j.src))).arrive [a]
  else t

/-- A job writes the weight store (R88, R342, R343): a poisoned line that is written whole is whole again, and the records
parked on it are performed. -/
def State.jobWeight (s : State) (j : Job) : State :=
  let a := weightBase j.dst
  let ls := weightLines a j.len
  let s1 : State := { s with
    ws := (List.range j.len).foldl (fun m i => FMap.set 0 m (a + i) (j.byte i)) s.ws
    wsPoison := ls.foldl (fun m l => if l.2 then FMap.set false m l.1 false else m) s.wsPoison }
  s1.retryAll fun p => p.req.space == .weight && ls.any fun l => l.2 && l.1 == lineOf (p.req.va.toNat % 2 ^ 32)

/-- A job sends the writes of its whole destination. -/
def State.jobWrites (s : State) (j : Job) : State :=
  let ls := jobLines j.dst j.len
  (s.setJob { j with phase := 2, left := ls.length }).send (ls.map fun (va, ps) =>
    j.request j.dst (.store (ps.flatMap fun p => (List.range p.n).map fun i => (p.off + i, j.byte (p.first + i)))) va ps)

/-- A step of a copy job (R251): it starts and reads its source whole; then it writes its destination; then it ends. -/
def State.stepJob (s : State) (j : Job) : State :=
  if j.phase = 0 then (if s.jobStarts j then s.jobReads j else s)
  else if j.left ≠ 0 then s
  else if j.phase = 1 then (if recSpace j.dst = .weight then (s.jobWeight j).endJob j else s.jobWrites j)
  else s.endJob j

/-- BULK_COPY_JOB (R251). -/
def execBulkCopyJob (s : State) : Answer :=
  match s.arg with
  | .num id =>
    (match s.job? id with
     | some j => if j.kind = .bulk then .next (s.stepJob j) else .next s
     | none => .next s)
  | _ => .next s

/-- CACOPY_JOB (R150). -/
def execCacopyJob (s : State) : Answer :=
  match s.arg with
  | .num id =>
    (match s.job? id with
     | some j => if j.kind = .tree then .next (s.stepJob j) else .next s
     | none => .next s)
  | _ => .next s

/-- The oldest frame of a scrubbed list, and the state without it (R98, R99). -/
def State.takeFrame (s : State) (list : Nat) : Option (Nat × State) :=
  match FMap.get [] s.pools list with
  | [] => none
  | f :: rest => some (f, { s with pools := FMap.set [] s.pools list rest })

/-- The granules of a page. -/
def pageGranules (page size : Nat) : List Nat := (List.range ((size + 65535) / 65536)).map fun i => page / 65536 + i

/-- Whether a walk of the context of a page-in may yet read in its page (R258): its record's extent lies there, or anywhere for bounds
mode none. -/
def Job.walkMeets (j : Job) (x : Copy) : Bool :=
  match x.kind with
  | .kv _ b _ _ _ _ _ => x.ctx == j.ctx && recSpace b != .weight && recSpace b != .tree &&
      (recMode b == .none || (recGranules b).any fun g => (pageGranules j.page j.size).contains (granuleOf g))
  | _ => false

/-- Whether accesses that precede the probes of a page-in, of their parties and class .simt, to the page are still owed (R112): requests,
walks that may yet read there, and a LAUNCH that has yet to read its block. -/
def State.pageOwed (s : State) (j : Job) : Bool :=
  ((j.party, j.handle) :: j.also).any fun (p, n) =>
    (s.owed.any fun q => q.party == p && decide (q.seq < n) && q.cls == 0 && q.ctx == j.ctx && q.translated &&
      decide (j.page ≤ va57 q.va + 127) && decide (va57 q.va < j.page + j.size)) ||
    (s.copies.any fun x => x.party == p && decide (x.id < n) && j.walkMeets x) ||
    (s.waiterOwed p .nobody n fun i => match i with
      | .launch _ _ => true
      | _ => false)

/-- Whether the page of a page-in is still far (R90, R91). -/
def State.stillFar (s : State) (j : Job) : Bool :=
  match s.walk j.ctx (BitVec.ofNat 64 j.page) with
  | .leaf level at_ e => at_ == j.leafAt && levelSize level == j.size && pteClass e == 0 && pteTier e != 0
  | .stop _ _ _ => false

/-- Whether a page-in comes to take its frame (R91, R112): nothing before its probes is owed. -/
def State.wantsFrame (s : State) (j : Job) : Bool := j.kind == .pageIn && j.frame.isNone && !s.pageOwed j && s.stillFar j

/-- Whether a pool read of a hart or a page-in waits on an empty 2 MiB or 1 GiB list (R350). -/
def State.poolWaits (s : State) : Bool :=
  let empty (l : Nat) : Bool := decide (3 ≤ l) && (FMap.get [] s.pools l).isEmpty
  (s.cores.any fun e => (e.2.hart.pending.bind fun w => hartPool w.pa).any empty) || s.jobs.any fun j => s.wantsFrame j && empty (poolList 0 j.size)

/-- Whether the pool interrupt is raised (R350). -/
def State.poolIrq (s : State) : Bool :=
  ((List.range 3).any fun t => decide ((FMap.get [] s.pools t).length < s.poollow)) || s.poolWaits

/-- The leaf of a far page with its write permission taken. -/
def heldLeaf (e : DWord) : DWord := e &&& ~~~(1#64 <<< 53)

/-- The leaf of a page that a page-in has moved (R91): the new address, tier HBM and the original w. -/
def movedLeaf (e old : DWord) (frame : Nat) : DWord :=
  let keep := e &&& ~~~((3#64 <<< 57) ||| (1#64 <<< 53) ||| (BitVec.ofNat 64 (2 ^ 44 - 1) <<< 8))
  keep ||| (BitVec.ofNat 64 (frame / 256 % 2 ^ 44) <<< 8) ||| (old &&& (1#64 <<< 53))

/-- The end of a page-in: its event bits are set (R91). -/
def State.endPageIn (s : State) (j : Job) : State := j.ev.foldl (fun t n => t.setEvent j.ctx n) (s.dropJob j.id)

/-- Steps 1 and 2 of a page-in (R91, R292): the frame, the leaf without w, SHOOT; the granules move. -/
def State.startPageIn (s : State) (j : Job) : State :=
  if !s.stillFar j then s.endPageIn j
  else match s.takeFrame (poolList 0 j.size) with
    | none => s
    | some (f, t) =>
      let e := t.mem.read64 j.leafAt
      let t1 : State := { t with moving := t.moving ++ (pageGranules j.page j.size).map fun g => (j.ctx, g) }
      let t2 := t1.setJob { j with phase := 1, frame := some f, leaf := e }
      if pteBit e 53 then { t2.writeL2 none j.leafAt 0 with mem := t2.mem.write64 j.leafAt (heldLeaf e) }.shoot j.ctx j.page (j.page + j.size)
      else t2

/-- The poisoned lines of the old frame of a page-in. -/
def State.badLines (s : State) (j : Job) : List Nat :=
  (List.range (j.size / 128)).filter fun i => s.poisoned (pteAddr j.leaf + 128 * i)

/-- The virtual address with given bits 56:0: bits 63:57 equal bit 56 (R71). -/
def canonical (a : Nat) : DWord := (BitVec.ofNat 57 a).signExtend 64

/-- A page-in whose old frame holds poisoned lines waits with a read of each at Sorrel (R278, R342). -/
def State.parkPageIn (s : State) (j : Job) (bad : List Nat) : State :=
  let r (i : Nat) : Req :=
    { j.request 0 .load (canonical (j.page + 128 * i)) [] with space := .global, st := .failed 4 0 0, gen := (s.ctx j.ctx).tgen.toNat }
  bad.foldl (fun t i => { t with nextId := t.nextId + 1, reqs := t.reqs ++ [{ r i with id := t.nextId }] }) (s.setJob { j with left := bad.length })

/-- The copy of a page from a frame to another (R79, R91): as the context reads and writes it (R25). -/
def State.copyPage (s : State) (ctx old frame size : Nat) : State :=
  let t := (List.range (size / 128)).foldl (fun t i => (t.readL2 none (old + 128 * i) 0 0).writeL2 none (frame + 128 * i) 0) s
  t.writeFor ctx ((List.range size).map fun i => (frame + i, s.seenBy ctx (old + i)))

/-- Steps 3 to 6 of a page-in (R79, R91, R292): the copy, the leaf with the new address, SHOOT; the old frame goes to Savory, the
parked accesses are driven again, and the event bits are set. -/
def State.movePage (s : State) (j : Job) (frame : Nat) : State :=
  let old := pteAddr j.leaf
  let c := s.copyPage j.ctx old frame j.size
  let t := { c.writeL2 none j.leafAt 0 with mem := c.mem.write64 j.leafAt (movedLeaf (c.mem.read64 j.leafAt) j.leaf frame) }.shoot j.ctx j.page
    (j.page + j.size)
  let gs := (pageGranules j.page j.size).map fun g => (j.ctx, g)
  let t1 := { t with moving := t.moving.filter fun g => !gs.contains g }.free old (poolList (pteTier j.leaf) j.size)
  ((t1.endPageIn j).redrive j.ctx (canonical j.page) (gs.length))

/-- PAGE_IN_JOB (R91, R112, R292). -/
def execPageInJob (s : State) : Answer :=
  match s.arg with
  | .num id =>
    (match s.job? id with
     | some j =>
       if j.kind ≠ .pageIn ∨ j.left ≠ 0 then .next s
       else match j.frame with
         | none => if s.pageOwed j || !s.engineFree then .next s else .next (s.startPageIn j)
         | some f => if s.badLines j = [] then .next (s.movePage j f) else .next (s.parkPageIn j (s.badLines j))
     | none => .next s)
  | _ => .next s

/-- The digests at whose slices Lovage acts as it frees an entry (R143, R145): the entry's and those of its children. -/
def CaEntry.reached (e : CaEntry) : List (BitVec 52) :=
  e.digest :: (if e.kind = 2 then (e.line.toList.filter (· != 0)).map nameDigest else [])

/-- LOVAGE_RECLAIM (R143, R145, R349): at each digest Lovage comes after every core and engine. -/
def execLovageReclaim (s : State) : Answer :=
  match s.arg with
  | .num part =>
    (match (s.part part).dying with
     | [] => .next s
     | e :: _ => .next ((s.caStore part (·.reclaim s.poisoned)).arrive (e.reached.map fun d => atDigest part d lovagePlace)))
  | _ => .next s

/-- The size of the frames of a scrubbed list (R99). -/
def listSize (list : Nat) : Nat := if list < 3 then 65536 else if list < 6 then 2 ^ 21 else 2 ^ 30

/-- Whether a page may be in a list: it is aligned to its size and lies in the space of such frames (R99, R297). -/
def frameOk (pa list : Nat) : Bool :=
  decide (list < 9) && pa % listSize list == 0 && decide (pa + listSize list ≤ if list < 3 then 2 ^ 48 else 2 ^ 52)

/-- Savory zeroes a page: every byte reads 0 to all, and no line of it is poisoned (R25, R98, R342). Its writes are accounted at no home slice:
the model's choice (assumption log 27). -/
def State.scrub (s : State) (pa n : Nat) : State :=
  { s with
    mem := s.mem.filter fun e => !(decide (pa ≤ e.1) && decide (e.1 < pa + n))
    cipher := s.cipher.filter fun e => !(decide (pa / 16 ≤ e.1) && decide (e.1 < (pa + n) / 16))
    poison := s.poison.filter fun e => !(decide (pa / 128 ≤ e.1) && decide (e.1 < (pa + n) / 128)) }

/-- SAVORY_SCRUB (R98, R99, R346): the oldest page that waits is zeroed and read back; it joins its list, or, when the read
fails, it is retired and counted. A page with its list instead is one that software frees to Savory. -/
def execSavoryScrub (s : State) : Answer :=
  match s.arg with
  | .num2 pa list => if frameOk pa list then .next (s.free pa list) else .next s
  | .flag ok =>
    (match s.savory with
     | [] => .next s
     | (pa, list) :: rest =>
       let t := { s with savory := rest }.scrub pa (listSize list)
       if ok then .next { t with pools := FMap.set [] t.pools list (FMap.get [] t.pools list ++ [pa]) }
       else .next { t with retired := satAdd t.retired 255 })
  | _ => .next s

/-- The value of a pool register for a frame (R297). -/
def frameWord (pa list : Nat) : Word :=
  BitVec.ofNat 32 (if list < 3 then pa / 2 ^ 16 else if list < 6 then pa / 2 ^ 21 % 2 ^ 31 else pa / 2 ^ 30 % 2 ^ 22)

/-- A read of a pool register (R297, R350): none while the list is empty. -/
def State.takePool (s : State) (list : Nat) : Option (Word × State) := (s.takeFrame list).map fun (f, t) => (frameWord f list, t)

/-- What the hart of a core has read. -/
def State.hartResult (s : State) (core : Nat) (v : DWord) : State :=
  s.setCore core { s.core core with hart := { (s.core core).hart with result := v } }

end Sys2Proof.Machine
end

