-- ==== Sys2Proof/Machine/Device.lean ====
section
/-! DEFINITION. The events of the device as a whole: refresh windows, congestion, errors in stores, clock plans, throttling,
boot, reset and the sideband (spec/01_device.md R16, R21 to R25; spec/03 R87, R97; spec/21 R340 to R360). -/

namespace Sys2Proof.Machine

/-- WS_REFRESH_OPEN (R87): the window follows from the time, and `State.mayGo` holds the reads of a segment within it; the
event itself changes nothing. -/
def execWsRefreshOpen (s : State) : Answer := .next s

/-- Whether a request reads a segment of the weight store. -/
def Req.reads (r : Req) (seg : Nat) : Bool := r.space == .weight && r.va.toNat % 2 ^ 32 / 2 ^ 25 == seg

/-- WS_REFRESH_CLOSE (R87): the reads that wait at a segment are served once its window has closed. -/
def execWsRefreshClose (s : State) : Answer :=
  match s.arg with
  | .num seg => if inRefresh seg s.ns then .next s else .next ((s.reqs.filter (·.reads seg)).foldl (fun t r => t.goId r.id) s)
  | _ => .next s

/-- A fraction in lowest terms. -/
def fraction (n d : Nat) : Nat × Nat := (n / Nat.gcd n d, d / Nat.gcd n d)

/-- The rate after a congestion mark (R97): lower by one eighth, and at least 1/16 of peak. -/
def slower (r : Nat × Nat) : Nat × Nat := if 16 * (7 * r.1) < 8 * r.2 then (1, 16) else fraction (7 * r.1) (8 * r.2)

/-- The rate after 1 µs without a mark (R97): higher by 1/64 of peak, and at most peak. -/
def faster (r : Nat × Nat) : Nat × Nat := if 64 * r.2 ≤ 64 * r.1 + r.2 then (1, 1) else fraction (64 * r.1 + r.2) (64 * r.2)

/-- A change of an engine's injection rate. -/
def State.setRate (s : State) (part engine : Nat) (f : Nat × Nat → Nat × Nat) : State :=
  let p := s.part part
  s.setPart part { p with rate := FMap.set (1, 1) p.rate engine (f (FMap.get (1, 1) p.rate engine)) }

/-- CONGESTION_MARK (R97). -/
def execCongestionMark (s : State) : Answer :=
  match s.arg with
  | .num2 engine part => .next (s.setRate part engine slower)
  | _ => .next s

/-- INJECTION_RATE_RECOVER (R97). -/
def execInjectionRateRecover (s : State) : Answer :=
  match s.arg with
  | .num2 engine part => .next (s.setRate part engine faster)
  | _ => .next s

/-- ECC_CORRECTED (R340, R362): the error is counted and changes no value. -/
def execEccCorrected (s : State) : Answer := .next { s with corrected := satAdd s.corrected 65535 }

/-- The code of a store in CTXDERR (R361). -/
def storeCode : BankStore → Nat
  | .registers => 1
  | .scratchpad => 2
  | .tiles => 3
  | .fifos => 4
  | .control => 5

/-- An uncorrectable error in a context's state (R344): CTXDERR takes the store and the row, and the context halts with
cause 0. -/
def State.bankError (s : State) (ctx core slot store row : Nat) : State :=
  (s.setCtx ctx { s.ctx ctx with ctxderr := BitVec.ofNat 32 (store * 2 ^ 28 + row % 4096) }).halt ctx core slot 0

/-- A block of a core, in its active or its shadow bank. -/
def Core.find (c : Core) (b : Nat) : Block := if (c.block b).live then c.block b else FMap.get Block.empty c.sha b

/-- The block whose state a bank of a core holds or has held (R344): also one of a context that is spilled since. -/
def State.bankBlock (s : State) (core b : Nat) : Block :=
  let x := (s.core core).find b
  if x.live then x
  else ((s.ctxs.filterMap fun e => (e.2.image.getD []).findSome? fun sc =>
    if sc.core = core then (sc.blocks.find? fun y => y.1 == b).map (·.2) else none).head?).getD x

/-- An uncorrectable error (R340, R342 to R344, R349). -/
def State.uncorrectable (s : State) : EccPlace → State
  | .line pa => s.poisonLine pa
  | .cleanLine pa => { s with l2 := s.l2.erase (lineOf pa) }
  | .weightLine a => { s with wsPoison := FMap.set false s.wsPoison (lineOf a) true }
  | .bank g store row =>
    let b := s.bankBlock g.core g.block
    if b.live then s.bankError b.ctx g.core (b.place.slot + g.ix) (storeCode store) row else s
  | .content part name => s.caStore part (·.poisonEntry name)
  | .park id =>
    match s.rec? id with
    | none => s
    | some p =>
      let s1 := (s.unpark id).settle
      if p.req.inbound then s1.failInbound p.req else s1.bankError p.req.ctx p.req.core p.req.gslot 6 0

/-- ECC_UNCORRECTABLE (R340). -/
def execEccUncorrectable (s : State) : Answer :=
  match s.arg with
  | .ecc p => .next (s.uncorrectable p)
  | _ => .next s

/-- The islands of the device (R21). -/
def islands : List Island :=
  (List.range 512).map .core ++ (List.range 128).map .cluster ++ (List.range 128).map .slice ++ (List.range 128).map .segment ++
    (List.range 128).map .phy

/-- Whether every value of the next plan lies in its range and on its step (R22, R361). -/
def State.planOk (s : State) : Bool :=
  let within (v lo hi step : Nat) : Bool := decide (lo ≤ v) && decide (v ≤ hi) && v % step == 0
  within s.planar.toNat 700000 900000 1000 && within s.plannet.toNat 1400000 1800000 1000 &&
    (List.range 48).all fun j => within (FMap.get (2000 : Word) s.planreg j).toNat 1000 4000 10

/-- A write of PLANGO (R22, R356): 1 checks the plan and begins to apply it, the regulators first; other values are ignored. -/
def State.planGo (s : State) (v : Word) : State :=
  if v ≠ 1 then s
  else if s.planOk then
    { s with clkst := 1, switching := islands, going := (s.planar.toNat, s.plannet.toNat, s.planssc), regs := s.planreg }
  else { s with clkst := 3 }

/-- Whether a multiple below 6 GHz of some frequency from `lo` to `hi` kHz lies in a band (R23). -/
def meetsBand (lo hi : Nat) (band : Nat × Nat) : Bool :=
  (List.range (6000000 / max 1 lo)).any fun k => decide ((k + 1) * lo ≤ band.2) && decide (band.1 ≤ (k + 1) * hi)

/-- Whether a frequency of a plan avoids every band, over its whole spread where it is spread (R22, R23). -/
def avoids (bands : List (Nat × Nat)) (spread : Bool) (f : Nat) : Bool :=
  bands.all fun b => !meetsBand (if spread then f * 995 / 1000 else f) f b

/-- The values from `lo` to `hi` on a step (R22). -/
def onStep (lo hi step : Nat) : List Nat := (List.range ((hi - lo) / step + 1)).map fun i => lo + step * i

/-- Whether no plan is valid for a list of bands (R22, R23): with spread spectrum on or off, some quantity has no value that avoids
every band. -/
def noPlan (bands : List (Nat × Nat)) : Bool :=
  [true, false].all fun ssc =>
    !((onStep 700000 900000 1000).any (avoids bands ssc)) || !((onStep 1400000 1800000 1000).any (avoids bands ssc)) ||
      !((onStep 1000 4000 10).any (avoids bands false))

/-- Firmware receives a list of quiet bands (R23, R356): where no plan is valid for it, the firmware keeps the running plan and reports
CLKST = 2. -/
def State.bandList (s : State) (bands : List (Nat × Nat)) : State :=
  if s.firmware = .running ∧ noPlan bands = true then { s with clkst := 2 } else s

/-- PLANGO (R356): a write of the register, or a list of bands for which the firmware seeks a plan. -/
def execPlango (s : State) : Answer :=
  match s.arg with
  | .write _ v => .next (s.planGo v)
  | .bands l => .next (s.bandList l)
  | _ => .next s

/-- The clock of an island as its registers report it (R24, R262). -/
def State.setClock (s : State) : Island → State
  | .core c => s.setCore c { s.core c with khz := s.going.1 }
  | .cluster c => { s with net := FMap.set 1700000 s.net c s.going.2.1 }
  | _ => s

/-- CLOCK_ISLAND_SWITCH (R24): with the last island the plan is applied. -/
def execClockIslandSwitch (s : State) : Answer :=
  match s.arg with
  | .island i =>
    if s.switching.contains i then
      let s1 := { s with switching := s.switching.filter (· != i) }.setClock i
      .next (if s1.switching = [] then { s1 with clkst := 0, ssc := s1.going.2.2 } else s1)
    else .next s
  | _ => .next s

/-- What the limiter finds now (R357, R362): whether the power and the junction limit are exceeded. -/
def State.limits (s : State) (pwr therm : Bool) : State :=
  { s with pwr := pwr, therm := therm, metAt := if (s.pwr || s.therm) && !pwr && !therm then s.ns else s.metAt }

/-- THROTTLE_RAISE (R357): the limiter compares; while a limit is exceeded, the level rises by one every 100 µs, up to 12. -/
def execThrottleRaise (s : State) : Answer :=
  match s.arg with
  | .flags pwr therm =>
    let t := s.limits pwr therm
    if (pwr || therm) && decide (s.levelAt + 100000 ≤ s.ns) then .next { t with level := min 12 (s.level + 1), levelAt := s.ns } else .next t
  | _ => .next s

/-- THROTTLE_LOWER (R357): when both limits have been met for 1 ms, the level falls by one every 100 µs. -/
def execThrottleLower (s : State) : Answer :=
  if !s.pwr && !s.therm && decide (s.metAt + 1000000 ≤ s.ns) && decide (s.levelAt + 100000 ≤ s.ns) then
    .next { s with level := s.level - 1, levelAt := s.ns }
  else .next s

/-- The module after a reset (R21, R359): the state after power-on; the choices to come and the free values go on. -/
def State.restart (s : State) : State := { State.reset with agenda := s.agenda, draws := s.draws }

/-- THERMAL_RESET (R357): the module is held in reset while the junction limit is exceeded, and the next attestation response reports
it. -/
def execThermalReset (s : State) : Answer :=
  .next { s.restart with firmware := .thermal, image := s.image, therm := true, overheated := true }

/-- POWER_REMOVE (R21). -/
def execPowerRemove (s : State) : Answer := .next s.restart

/-- SIDEBAND_RESET (R359). -/
def execSidebandReset (s : State) : Answer := .next s.restart

/-- Whether the boot ROM runs next: the module has come out of a reset, in which the junction temperature may hold it (R357), and no
firmware runs. -/
def State.unbooted (s : State) : Bool := !s.windowsLocked && s.firmware != .running && !(s.firmware == .thermal && s.therm)

/-- Every hart starts the firmware in M mode (R16). -/
def State.startHarts (s : State) : State :=
  (List.range 512).foldl (fun t c => t.setCore c { t.core c with hart := { (t.core c).hart with started := true, mode := .m } }) s

/-- The boot ROM (R16, R358): the windows are locked; an image is started when its signature verifies and its security
version is not below the least. -/
def State.boot (s : State) (i : BootImage) : State :=
  let s1 := { s with windowsLocked := true, image := i }
  if !i.verifies then { s1 with firmware := .none }
  else if i.version.toNat < Config.minSecurityVersion then { s1 with firmware := .refused }
  else { s1 with firmware := .running }.startHarts

/-- POWER_ON_BOOT (R16). -/
def execPowerOnBoot (s : State) : Answer :=
  match s.arg with
  | .boot i => if s.unbooted then .next (s.boot i) else .next s
  | _ => .next s

/-- The status of an attestation response (R360). -/
def Firmware.status : Firmware → Nat
  | .running => 0
  | .none => 1
  | .refused => 2
  | .thermal => 3

/-- A list of exactly `n` bytes. -/
def padded (bs : List Byte) (n : Nat) : List Byte := (List.range n).map fun i => bs.getD i 0

/-- The 72 bytes that an attestation response signs (R360). -/
def State.attested (s : State) (nonce : List Byte) : List Byte :=
  let bare := s.firmware == .none || s.firmware == .refused
  [BitVec.ofNat 8 (if s.overheated then 3 else s.firmware.status), 0, 0, 0] ++ bytesOf (if bare then 0 else s.image.version) 4 ++
    padded (if bare then [] else s.image.digest) 32 ++ padded nonce 32

/-- ATTESTATION (R359, R360): request 0x02 with a nonce of 32 bytes; the signature is a free value. -/
def execAttestation (s : State) : Answer :=
  match s.arg with
  | .bytes nonce =>
    if nonce.length = 32 then
      let body := s.attested nonce
      .next { s with sideband := s.sideband ++ [.attestation (body ++ (List.range 64).map (Config.signatureByte body))], overheated := false }
    else .next s
  | _ => .next s

/-- Whether the sideband accepts a request (R359). -/
def sidebandOk (req : List Byte) : Bool := req == [1] || (req.length == 33 && req.headD 0 == 2)

/-- SIDEBAND_NACK (R359). -/
def execSidebandNack (s : State) : Answer :=
  match s.arg with
  | .bytes req => if sidebandOk req then .next s else .next { s with sideband := s.sideband ++ [.nack] }
  | _ => .next s

/-- An attempt on a trust anchor (R25, R358): refused attempts are counted; a key slot takes a write, and a hart that reads one gets
zero. -/
def State.tryTrust (s : State) : TrustAccess → State
  | .rootPortWindow => if s.windowsLocked then { s with trust := satAdd s.trust 255 } else s
  | .keySlotRead _ => { s with trust := satAdd s.trust 255 }
  | .keySlotLoad core _ => { s with trust := satAdd s.trust 255 }.hartResult core 0
  | .keySlotWrite slot key => if slot < 256 then { s with keys := FMap.set 0 s.keys slot key } else s
  | .powerLimit => { s with trust := satAdd s.trust 255 }

/-- TRUST_WRITE_REFUSED (R358). -/
def execTrustWriteRefused (s : State) : Answer :=
  match s.arg with
  | .trust a => .next (s.tryTrust a)
  | _ => .next s

end Sys2Proof.Machine
end

