-- ==== Sys2Proof/Machine/Flags.lean ====
section
/-! DEFINITION. Conditions and class masks: the comparisons that write predicates (spec/09_isa_scalar.md R193) and the
class mask of FCLASS (R200). -/

namespace Sys2Proof.Machine

/-- The condition codes 0 to 5 (R193) of an order. -/
def condOf (cc : Nat) (o : Ordering) : Bool :=
  match cc with
  | 0 => o == .eq
  | 1 => o != .eq
  | 2 => o == .lt
  | 3 => o != .gt
  | 4 => o == .gt
  | 5 => o != .lt
  | _ => false

/-- The condition code of a comparison: d bits 6:3 (R193). -/
def ccOf (d : BitVec 7) : Nat := (d.extractLsb' 3 4).toNat

/-- A signed comparison (R193). -/
def condI32 (cc : Nat) (a b : Word) : Bool := condOf cc (compare a.toInt b.toInt)

/-- An unsigned comparison (R193). -/
def condN32 (cc : Nat) (a b : Word) : Bool := condOf cc (compare a.toNat b.toNat)

/-- A comparison of binary32 values (R193): with a NaN operand only .ne and .unord are true. -/
def condF32 (cc : Nat) (a b : Word) : Bool :=
  let x := f32 a
  let y := f32 b
  if x.isNan || y.isNan then cc == 1 || cc == 7
  else if cc == 6 then true
  else condOf cc (Fp.cmp x y)

/-- The class bit of a pattern of a format (R200). -/
def Fmt.classBit (f : Fmt) (x : Nat) : Nat :=
  match f.decode x with
  | .nan => if f.e4m3 || x / 2 ^ (f.fw - 1) % 2 == 1 then 9 else 8
  | .inf a => if a then 0 else 7
  | .fin a m _ =>
    if m = 0 then (if a then 3 else 4)
    else if m < 2 ^ f.fw then (if a then 2 else 5)
    else (if a then 1 else 6)

/-- The class mask that FCLASS writes for a type code (R200). -/
def classMask (ty : Nat) (a : Word) : Word :=
  let f := (fmtOf ty).getD fp32
  1#32 <<< f.classBit (a.toNat % 2 ^ (f.fw + f.ew + 1))

end Sys2Proof.Machine
end

