-- ==== Sys2Proof/Machine/Float.lean ====
section
/-! DEFINITION. The floating-point instructions 0x60 to 0x78 (spec/09_isa_scalar.md R197 to R200). -/

namespace Sys2Proof.Machine

/-- The rounding of an instruction's prefix (R164, R197); .sr takes no part here. -/
def modeOf (p : Pre) : Rm := Rm.ofCode (p.rm) 0

/-- Applies an operation on exact values to binary32 words and rounds it once (R197). -/
def scalar (rm : Rm) (f : List Fp → Fp) (xs : List Word) : Word := BitVec.ofNat 32 (fp32.encode (fp32.round rm (f (xs.map f32))))

/-- The format of the elements of an .x2 form (R197). -/
def x2Fmt (p : Pre) : Fmt := if p.ty == 0x0B then bf16 else fp16

/-- Applies an operation to both elements of .x2 words and rounds each once (R197). -/
def paired (g : Fmt) (rm : Rm) (f : List Fp → Fp) (xs : List Word) : Word :=
  let part (k : Nat) : BitVec 16 :=
    BitVec.ofNat 16 (g.encode (g.round rm (f (xs.map fun x => g.decode ((x.extractLsb' (16 * k) 16).toNat)))))
  part 1 ++ part 0

/-- RM(A + B) before rounding (R198). -/
def opAdd (rm : Rm) : List Fp → Fp
  | [a, b] => Fp.add (rm == .rd) a b
  | _ => .nan

/-- RM(A - B) before rounding (R198). -/
def opSub (rm : Rm) : List Fp → Fp
  | [a, b] => Fp.add (rm == .rd) a b.neg
  | _ => .nan

/-- RM(A x B) before rounding (R198). -/
def opMul : List Fp → Fp
  | [a, b] => Fp.mul a b
  | _ => .nan

/-- A x B + C before its one rounding (R198). -/
def opFma (rm : Rm) : List Fp → Fp
  | [a, b, c] => Fp.add (rm == .rd) (Fp.mul a b) c
  | _ => .nan

/-- A x B - C before its one rounding (R198). -/
def opFms (rm : Rm) : List Fp → Fp
  | [a, b, c] => Fp.add (rm == .rd) (Fp.mul a b) c.neg
  | _ => .nan

/-- -(A x B) + C before its one rounding (R198). -/
def opFnma (rm : Rm) : List Fp → Fp
  | [a, b, c] => Fp.add (rm == .rd) (Fp.mul a b).neg c
  | _ => .nan

/-- The lesser (R198). -/
def opMin : List Fp → Fp
  | [a, b] => Fp.min a b
  | _ => .nan

/-- The greater (R198). -/
def opMax : List Fp → Fp
  | [a, b] => Fp.max a b
  | _ => .nan

/-- A one-operand function, already rounded to its format (R198, R199). -/
def op1 (f : Fp → Fp) : List Fp → Fp
  | [a] => f a
  | _ => .nan

/-- FADD (R198). -/
def execFadd (p : Pre) (w : RWord) (s : State) : Answer :=
  s.perform (.fadd p w) fun c =>
    .next (c.result w.nw w.d fun l => scalar (modeOf p) (opAdd (modeOf p)) [c.opA w l, c.opB w l])

/-- FSUB (R198). -/
def execFsub (p : Pre) (w : RWord) (s : State) : Answer :=
  s.perform (.fsub p w) fun c =>
    .next (c.result w.nw w.d fun l => scalar (modeOf p) (opSub (modeOf p)) [c.opA w l, c.opB w l])

/-- FMUL (R198). -/
def execFmul (p : Pre) (w : RWord) (s : State) : Answer :=
  s.perform (.fmul p w) fun c =>
    .next (c.result w.nw w.d fun l => scalar (modeOf p) (opMul) [c.opA w l, c.opB w l])

/-- FFMA (R198). -/
def execFfma (p : Pre) (w : RWord) (s : State) : Answer :=
  s.perform (.ffma p w) fun c =>
    .next (c.result w.nw w.d fun l => scalar (modeOf p) (opFma (modeOf p)) [c.opA w l, c.opB w l, c.rf.lane (p.c) l])

/-- FFMS (R198). -/
def execFfms (p : Pre) (w : RWord) (s : State) : Answer :=
  s.perform (.ffms p w) fun c =>
    .next (c.result w.nw w.d fun l => scalar (modeOf p) (opFms (modeOf p)) [c.opA w l, c.opB w l, c.rf.lane (p.c) l])

/-- FNMA (R198). -/
def execFnma (p : Pre) (w : RWord) (s : State) : Answer :=
  s.perform (.fnma p w) fun c =>
    .next (c.result w.nw w.d fun l => scalar (modeOf p) (opFnma (modeOf p)) [c.opA w l, c.opB w l, c.rf.lane (p.c) l])

/-- FMIN (R198). -/
def execFmin (p : Pre) (w : RWord) (s : State) : Answer :=
  s.perform (.fmin p w) fun c =>
    .next (c.result w.nw w.d fun l => scalar (modeOf p) (opMin) [c.opA w l, c.opB w l])

/-- FMAX (R198). -/
def execFmax (p : Pre) (w : RWord) (s : State) : Answer :=
  s.perform (.fmax p w) fun c =>
    .next (c.result w.nw w.d fun l => scalar (modeOf p) (opMax) [c.opA w l, c.opB w l])

/-- FRCP (R198). -/
def execFrcp (p : Pre) (w : RWord) (s : State) : Answer :=
  s.perform (.frcp p w) fun c =>
    .next (c.result w.nw w.d fun l => scalar (modeOf p) (op1 (fp32.rcp (modeOf p))) [c.opA w l])

/-- FRSQ (R198). -/
def execFrsq (p : Pre) (w : RWord) (s : State) : Answer :=
  s.perform (.frsq p w) fun c =>
    .next (c.result w.nw w.d fun l => scalar (modeOf p) (op1 fp32.rsq) [c.opA w l])

/-- FSQRT (R198). -/
def execFsqrt (p : Pre) (w : RWord) (s : State) : Answer :=
  s.perform (.fsqrt p w) fun c =>
    .next (c.result w.nw w.d fun l => scalar (modeOf p) (op1 (fp32.sqrt (modeOf p))) [c.opA w l])

/-- FEXP2 (R198). -/
def execFexp2 (p : Pre) (w : RWord) (s : State) : Answer :=
  s.perform (.fexp2 p w) fun c =>
    .next (c.result w.nw w.d fun l => scalar (modeOf p) (op1 fp32.exp2) [c.opA w l])

/-- FLOG2 (R198). -/
def execFlog2 (p : Pre) (w : RWord) (s : State) : Answer :=
  s.perform (.flog2 p w) fun c =>
    .next (c.result w.nw w.d fun l => scalar (modeOf p) (op1 fp32.log2) [c.opA w l])

/-- FCLASS (R200). -/
def execFclass (p : Pre) (w : RWord) (s : State) : Answer :=
  s.perform (.fclass p w) fun c => .next (c.result w.nw w.d fun l => classMask (p.ty).toNat (c.opA w l))

/-- FADD.x2 (R198). -/
def execFaddX2 (p : Pre) (w : RWord) (s : State) : Answer :=
  s.perform (.faddX2 p w) fun c =>
    .next (c.result w.nw w.d fun l => paired (x2Fmt p) (modeOf p) (opAdd (modeOf p)) [c.opA w l, c.opB w l])

/-- FSUB.x2 (R198). -/
def execFsubX2 (p : Pre) (w : RWord) (s : State) : Answer :=
  s.perform (.fsubX2 p w) fun c =>
    .next (c.result w.nw w.d fun l => paired (x2Fmt p) (modeOf p) (opSub (modeOf p)) [c.opA w l, c.opB w l])

/-- FMUL.x2 (R198). -/
def execFmulX2 (p : Pre) (w : RWord) (s : State) : Answer :=
  s.perform (.fmulX2 p w) fun c =>
    .next (c.result w.nw w.d fun l => paired (x2Fmt p) (modeOf p) (opMul) [c.opA w l, c.opB w l])

/-- FFMA.x2 (R198). -/
def execFfmaX2 (p : Pre) (w : RWord) (s : State) : Answer :=
  s.perform (.ffmaX2 p w) fun c =>
    .next (c.result w.nw w.d fun l => paired (x2Fmt p) (modeOf p) (opFma (modeOf p)) [c.opA w l, c.opB w l, c.rf.lane (p.c) l])

/-- FMIN.x2 (R198). -/
def execFminX2 (p : Pre) (w : RWord) (s : State) : Answer :=
  s.perform (.fminX2 p w) fun c =>
    .next (c.result w.nw w.d fun l => paired (x2Fmt p) (modeOf p) (opMin) [c.opA w l, c.opB w l])

/-- FMAX.x2 (R198). -/
def execFmaxX2 (p : Pre) (w : RWord) (s : State) : Answer :=
  s.perform (.fmaxX2 p w) fun c =>
    .next (c.result w.nw w.d fun l => paired (x2Fmt p) (modeOf p) (opMax) [c.opA w l, c.opB w l])

/-- FRCP.x2 (R198). -/
def execFrcpX2 (p : Pre) (w : RWord) (s : State) : Answer :=
  s.perform (.frcpX2 p w) fun c =>
    .next (c.result w.nw w.d fun l => paired (x2Fmt p) (modeOf p) (op1 ((x2Fmt p).rcp (modeOf p))) [c.opA w l])

/-- FRSQ.x2 (R198). -/
def execFrsqX2 (p : Pre) (w : RWord) (s : State) : Answer :=
  s.perform (.frsqX2 p w) fun c =>
    .next (c.result w.nw w.d fun l => paired (x2Fmt p) (modeOf p) (op1 (x2Fmt p).rsq) [c.opA w l])

/-- FSQRT.x2 (R198). -/
def execFsqrtX2 (p : Pre) (w : RWord) (s : State) : Answer :=
  s.perform (.fsqrtX2 p w) fun c =>
    .next (c.result w.nw w.d fun l => paired (x2Fmt p) (modeOf p) (op1 ((x2Fmt p).sqrt (modeOf p))) [c.opA w l])

/-- FEXP2.x2 (R198). -/
def execFexp2X2 (p : Pre) (w : RWord) (s : State) : Answer :=
  s.perform (.fexp2X2 p w) fun c =>
    .next (c.result w.nw w.d fun l => paired (x2Fmt p) (modeOf p) (op1 (x2Fmt p).exp2) [c.opA w l])

/-- FLOG2.x2 (R198). -/
def execFlog2X2 (p : Pre) (w : RWord) (s : State) : Answer :=
  s.perform (.flog2X2 p w) fun c =>
    .next (c.result w.nw w.d fun l => paired (x2Fmt p) (modeOf p) (op1 (x2Fmt p).log2) [c.opA w l])

end Sys2Proof.Machine
end

