-- ==== Sys2Proof/Machine/Integer.lean ====
section
/-! DEFINITION. The integer, address and logic instructions 0x20 to 0x5A (spec/09_isa_scalar.md R182, R191, R192). -/

namespace Sys2Proof.Machine

/-- An instruction with two 32-bit operands and a 32-bit result (R182). -/
def Iss.rr (c : Iss) (w : RWord) (f : Word → Word → Word) : State :=
  c.result w.nw w.d fun l => f (c.opA w l) (c.opB w l)

/-- An instruction with one 32-bit operand and a 32-bit result (R182). -/
def Iss.r1 (c : Iss) (w : RWord) (f : Word → Word) : State := c.result w.nw w.d fun l => f (c.opA w l)

/-- An I-format instruction with a 32-bit result of A and the immediate (R192). -/
def Iss.ri (c : Iss) (w : IWord) (i : Word) (f : Word → Word → Word) : State :=
  c.result false w.d fun l => f (c.rf.lane w.a l) i

/-- ADD (R191). -/
def execAdd (p : Pre) (w : RWord) (s : State) : Answer :=
  s.perform (.add p w) fun c => .next (c.rr w fun a b => a + b)

/-- SUB (R191). -/
def execSub (p : Pre) (w : RWord) (s : State) : Answer :=
  s.perform (.sub p w) fun c => .next (c.rr w fun a b => a - b)

/-- ADD.sat.i32 (R191). -/
def execAddSatI32 (p : Pre) (w : RWord) (s : State) : Answer :=
  s.perform (.addSatI32 p w) fun c => .next (c.rr w fun a b => satI32 (a.toInt + b.toInt))

/-- ADD.sat.n32 (R191). -/
def execAddSatN32 (p : Pre) (w : RWord) (s : State) : Answer :=
  s.perform (.addSatN32 p w) fun c => .next (c.rr w fun a b => satN32 (a.toNat + b.toNat))

/-- SUB.sat.i32 (R191). -/
def execSubSatI32 (p : Pre) (w : RWord) (s : State) : Answer :=
  s.perform (.subSatI32 p w) fun c => .next (c.rr w fun a b => satI32 (a.toInt - b.toInt))

/-- SUB.sat.n32 (R191). -/
def execSubSatN32 (p : Pre) (w : RWord) (s : State) : Answer :=
  s.perform (.subSatN32 p w) fun c => .next (c.rr w fun a b => satN32 ((a.toNat : Int) - b.toNat))

/-- MUL (R191). -/
def execMul (p : Pre) (w : RWord) (s : State) : Answer :=
  s.perform (.mul p w) fun c => .next (c.rr w fun a b => a * b)

/-- MULH.i32 (R191). -/
def execMulhI32 (p : Pre) (w : RWord) (s : State) : Answer :=
  s.perform (.mulhI32 p w) fun c => .next (c.rr w fun a b => mulhI32 a b)

/-- MULH.n32 (R191). -/
def execMulhN32 (p : Pre) (w : RWord) (s : State) : Answer :=
  s.perform (.mulhN32 p w) fun c => .next (c.rr w fun a b => mulhN32 a b)

/-- MIN.i32 (R191). -/
def execMinI32 (p : Pre) (w : RWord) (s : State) : Answer :=
  s.perform (.minI32 p w) fun c => .next (c.rr w fun a b => minI32 a b)

/-- MIN.n32 (R191). -/
def execMinN32 (p : Pre) (w : RWord) (s : State) : Answer :=
  s.perform (.minN32 p w) fun c => .next (c.rr w fun a b => minN32 a b)

/-- MAX.i32 (R191). -/
def execMaxI32 (p : Pre) (w : RWord) (s : State) : Answer :=
  s.perform (.maxI32 p w) fun c => .next (c.rr w fun a b => maxI32 a b)

/-- MAX.n32 (R191). -/
def execMaxN32 (p : Pre) (w : RWord) (s : State) : Answer :=
  s.perform (.maxN32 p w) fun c => .next (c.rr w fun a b => maxN32 a b)

/-- AND (R191). -/
def execAnd (p : Pre) (w : RWord) (s : State) : Answer :=
  s.perform (.and p w) fun c => .next (c.rr w fun a b => a &&& b)

/-- OR (R191). -/
def execOr (p : Pre) (w : RWord) (s : State) : Answer :=
  s.perform (.or p w) fun c => .next (c.rr w fun a b => a ||| b)

/-- XOR (R191). -/
def execXor (p : Pre) (w : RWord) (s : State) : Answer :=
  s.perform (.xor p w) fun c => .next (c.rr w fun a b => a ^^^ b)

/-- ANDN (R191). -/
def execAndn (p : Pre) (w : RWord) (s : State) : Answer :=
  s.perform (.andn p w) fun c => .next (c.rr w fun a b => a &&& ~~~b)

/-- SHL (R191). -/
def execShl (p : Pre) (w : RWord) (s : State) : Answer :=
  s.perform (.shl p w) fun c => .next (c.rr w fun a b => shlW a b)

/-- SHR (R191). -/
def execShr (p : Pre) (w : RWord) (s : State) : Answer :=
  s.perform (.shr p w) fun c => .next (c.rr w fun a b => shrW a b)

/-- SHA (R191). -/
def execSha (p : Pre) (w : RWord) (s : State) : Answer :=
  s.perform (.sha p w) fun c => .next (c.rr w fun a b => shaW a b)

/-- ROL (R191). -/
def execRol (p : Pre) (w : RWord) (s : State) : Answer :=
  s.perform (.rol p w) fun c => .next (c.rr w fun a b => rolW a b)

/-- ROR (R191). -/
def execRor (p : Pre) (w : RWord) (s : State) : Answer :=
  s.perform (.ror p w) fun c => .next (c.rr w fun a b => rorW a b)

/-- BFXR.i32 (R191). -/
def execBfxrI32 (p : Pre) (w : RWord) (s : State) : Answer :=
  s.perform (.bfxrI32 p w) fun c => .next (c.rr w fun a b => bfxI32 a (fieldPos b) (fieldWidth b))

/-- BFXR.n32 (R191). -/
def execBfxrN32 (p : Pre) (w : RWord) (s : State) : Answer :=
  s.perform (.bfxrN32 p w) fun c => .next (c.rr w fun a b => bfxN32 a (fieldPos b) (fieldWidth b))

/-- ABS (R191). -/
def execAbs (p : Pre) (w : RWord) (s : State) : Answer :=
  s.perform (.abs p w) fun c => .next (c.r1 w fun a => absI32 a)

/-- NEG (R191). -/
def execNeg (p : Pre) (w : RWord) (s : State) : Answer :=
  s.perform (.neg p w) fun c => .next (c.r1 w fun a => -a)

/-- NOT (R191). -/
def execNot (p : Pre) (w : RWord) (s : State) : Answer :=
  s.perform (.not p w) fun c => .next (c.r1 w fun a => ~~~a)

/-- POPC (R191). -/
def execPopc (p : Pre) (w : RWord) (s : State) : Answer :=
  s.perform (.popc p w) fun c => .next (c.r1 w fun a => popcW a)

/-- CLZ (R191). -/
def execClz (p : Pre) (w : RWord) (s : State) : Answer :=
  s.perform (.clz p w) fun c => .next (c.r1 w fun a => clzW a)

/-- CTZ (R191). -/
def execCtz (p : Pre) (w : RWord) (s : State) : Answer :=
  s.perform (.ctz p w) fun c => .next (c.r1 w fun a => ctzW a)

/-- BREV (R191). -/
def execBrev (p : Pre) (w : RWord) (s : State) : Answer :=
  s.perform (.brev p w) fun c => .next (c.r1 w fun a => brevW a)

/-- MOV (R191). -/
def execMov (p : Pre) (w : RWord) (s : State) : Answer :=
  s.perform (.mov p w) fun c => .next (c.r1 w fun a => a)

/-- ADDI (R192). -/
def execAddi (p : Pre) (w : IWord) (s : State) : Answer :=
  s.perform (.addi p w) fun c => .next (c.ri w (simm p w) fun a i => a + i)

/-- MULI (R192). -/
def execMuli (p : Pre) (w : IWord) (s : State) : Answer :=
  s.perform (.muli p w) fun c => .next (c.ri w (simm p w) fun a i => a * i)

/-- MINI.i32 (R192). -/
def execMiniI32 (p : Pre) (w : IWord) (s : State) : Answer :=
  s.perform (.miniI32 p w) fun c => .next (c.ri w (simm p w) fun a i => minI32 a i)

/-- MINI.n32 (R192). -/
def execMiniN32 (p : Pre) (w : IWord) (s : State) : Answer :=
  s.perform (.miniN32 p w) fun c => .next (c.ri w (uimm p w) fun a i => minN32 a i)

/-- MAXI.i32 (R192). -/
def execMaxiI32 (p : Pre) (w : IWord) (s : State) : Answer :=
  s.perform (.maxiI32 p w) fun c => .next (c.ri w (simm p w) fun a i => maxI32 a i)

/-- MAXI.n32 (R192). -/
def execMaxiN32 (p : Pre) (w : IWord) (s : State) : Answer :=
  s.perform (.maxiN32 p w) fun c => .next (c.ri w (uimm p w) fun a i => maxN32 a i)

/-- ANDI (R192). -/
def execAndi (p : Pre) (w : IWord) (s : State) : Answer :=
  s.perform (.andi p w) fun c => .next (c.ri w (simm p w) fun a i => a &&& i)

/-- ORI (R192). -/
def execOri (p : Pre) (w : IWord) (s : State) : Answer :=
  s.perform (.ori p w) fun c => .next (c.ri w (simm p w) fun a i => a ||| i)

/-- XORI (R192). -/
def execXori (p : Pre) (w : IWord) (s : State) : Answer :=
  s.perform (.xori p w) fun c => .next (c.ri w (simm p w) fun a i => a ^^^ i)

/-- ANDNI (R192). -/
def execAndni (p : Pre) (w : IWord) (s : State) : Answer :=
  s.perform (.andni p w) fun c => .next (c.ri w (simm p w) fun a i => a &&& ~~~i)

/-- SHLI (R192). -/
def execShli (p : Pre) (w : IWord) (s : State) : Answer :=
  s.perform (.shli p w) fun c => .next (c.ri w (uimm p w) fun a i => shlW a i)

/-- SHRI (R192). -/
def execShri (p : Pre) (w : IWord) (s : State) : Answer :=
  s.perform (.shri p w) fun c => .next (c.ri w (uimm p w) fun a i => shrW a i)

/-- SHAI (R192). -/
def execShai (p : Pre) (w : IWord) (s : State) : Answer :=
  s.perform (.shai p w) fun c => .next (c.ri w (uimm p w) fun a i => shaW a i)

/-- ROLI (R192). -/
def execRoli (p : Pre) (w : IWord) (s : State) : Answer :=
  s.perform (.roli p w) fun c => .next (c.ri w (uimm p w) fun a i => rolW a i)

/-- MOVH (R192). -/
def execMovh (p : Pre) (w : IWord) (s : State) : Answer :=
  s.perform (.movh p w) fun c => .next (c.ri w (uimm p w) fun a i => (i <<< 16) ||| (a &&& 0xFFFF))

/-- RSUBI (R192). -/
def execRsubi (p : Pre) (w : IWord) (s : State) : Answer :=
  s.perform (.rsubi p w) fun c => .next (c.ri w (simm p w) fun a i => i - a)

/-- MAD (R191). -/
def execMad (p : Pre) (w : RWord) (s : State) : Answer :=
  s.perform (.mad p w) fun c => .next (c.result w.nw w.d fun l => c.opA w l * c.opB w l + c.rf.lane p.c l)

/-- MADW.i32 (R191): a 64-bit pair. -/
def execMadwI32 (p : Pre) (w : RWord) (s : State) : Answer :=
  s.perform (.madwI32 p w) fun c =>
    .next (c.result64 w.nw w.d fun l => (c.opA w l).signExtend 64 * (c.opB w l).signExtend 64 + c.rf.pair p.c l)

/-- MADW.n32 (R191): a 64-bit pair. -/
def execMadwN32 (p : Pre) (w : RWord) (s : State) : Answer :=
  s.perform (.madwN32 p w) fun c =>
    .next (c.result64 w.nw w.d fun l => (c.opA w l).setWidth 64 * (c.opB w l).setWidth 64 + c.rf.pair p.c l)

/-- SEL (R191): the predicate stands in c bits 2:0. -/
def execSel (p : Pre) (w : RWord) (s : State) : Answer :=
  s.perform (.sel p w) fun c =>
    .next (c.result w.nw w.d fun l => if (c.rf.pred (p.c.setWidth 3)).getLsbD l then c.opA w l else c.opB w l)

/-- LEA (R191): pair a plus the signed B shifted by sub. -/
def execLea (p : Pre) (w : RWord) (s : State) : Answer :=
  s.perform (.lea p w) fun c =>
    .next (c.result64 w.nw w.d fun l => c.rf.pair w.a l + ((c.opB w l).signExtend 64 <<< p.sub.toNat))

/-- LEAI (R192). -/
def execLeai (p : Pre) (w : IWord) (s : State) : Answer :=
  s.perform (.leai p w) fun c =>
    .next (c.result64 false w.d fun l => c.rf.pair w.a l + (simm p w).signExtend 64)

/-- BFX.i32 (R192). -/
def execBfxI32 (p : Pre) (w : IWord) (s : State) : Answer :=
  s.perform (.bfxI32 p w) fun c =>
    .next (c.result false w.d fun l => bfxI32 (c.rf.lane w.a l) (fieldPos w.imm) (fieldWidth w.imm))

/-- BFX.n32 (R192). -/
def execBfxN32 (p : Pre) (w : IWord) (s : State) : Answer :=
  s.perform (.bfxN32 p w) fun c =>
    .next (c.result false w.d fun l => bfxN32 (c.rf.lane w.a l) (fieldPos w.imm) (fieldWidth w.imm))

/-- BFI (R192): it reads its destination. -/
def execBfi (p : Pre) (w : IWord) (s : State) : Answer :=
  s.perform (.bfi p w) fun c =>
    .next (c.result false w.d fun l => bfi (c.rf.lane w.d l) (c.rf.lane w.a l) (fieldPos w.imm) (fieldWidth w.imm))

/-- BFIR (R191): it reads its destination. -/
def execBfir (p : Pre) (w : RWord) (s : State) : Answer :=
  s.perform (.bfir p w) fun c =>
    .next (c.result w.nw w.d fun l =>
      bfi (c.rf.lane w.d l) (c.opA w l) (fieldPos (c.opB w l)) (fieldWidth (c.opB w l)))

/-- MOVI (R192). -/
def execMovi (p : Pre) (w : IWord) (s : State) : Answer :=
  s.perform (.movi p w) fun c => .next (c.result false w.d fun _ => simm p w)

end Sys2Proof.Machine
end

