-- ==== Sys2Proof/Machine/Lanes.lean ====
section
/-! DEFINITION. The predicate and lane instructions 0x90 to 0xAD (spec/09_isa_scalar.md R193 to R196). -/

namespace Sys2Proof.Machine

/-- CMP.i32 (R193). -/
def execCmpI32 (p : Pre) (w : RWord) (s : State) : Answer :=
  s.perform (.cmpI32 p w) fun c =>
    .next (c.resultPred w.nw w.d (maskOf fun l => condI32 (ccOf w.d) (c.opA w l) (c.opB w l)))

/-- CMP.n32 (R193). -/
def execCmpN32 (p : Pre) (w : RWord) (s : State) : Answer :=
  s.perform (.cmpN32 p w) fun c =>
    .next (c.resultPred w.nw w.d (maskOf fun l => condN32 (ccOf w.d) (c.opA w l) (c.opB w l)))

/-- CMP.f32 (R193). -/
def execCmpF32 (p : Pre) (w : RWord) (s : State) : Answer :=
  s.perform (.cmpF32 p w) fun c =>
    .next (c.resultPred w.nw w.d (maskOf fun l => condF32 (ccOf w.d) (c.opA w l) (c.opB w l)))

/-- CMPI.i32 (R193). -/
def execCmpiI32 (p : Pre) (w : IWord) (s : State) : Answer :=
  s.perform (.cmpiI32 p w) fun c =>
    .next (c.resultPred false w.d (maskOf fun l => condI32 (ccOf w.d) (c.rf.lane w.a l) (simm p w)))

/-- CMPI.n32 (R193). -/
def execCmpiN32 (p : Pre) (w : IWord) (s : State) : Answer :=
  s.perform (.cmpiN32 p w) fun c =>
    .next (c.resultPred false w.d (maskOf fun l => condN32 (ccOf w.d) (c.rf.lane w.a l) (uimm p w)))

/-- The predicate that a field names in its bits 2:0 (R194). -/
def Iss.predOf (c : Iss) (f : BitVec 7) : Mask := c.rf.pred (f.setWidth 3)

/-- PAND (R194). -/
def execPand (p : Pre) (w : RWord) (s : State) : Answer :=
  s.perform (.pand p w) fun c => .next (c.resultPred w.nw w.d (c.predOf w.a &&& c.predOf w.b))

/-- POR (R194). -/
def execPor (p : Pre) (w : RWord) (s : State) : Answer :=
  s.perform (.por p w) fun c => .next (c.resultPred w.nw w.d (c.predOf w.a ||| c.predOf w.b))

/-- PXOR (R194). -/
def execPxor (p : Pre) (w : RWord) (s : State) : Answer :=
  s.perform (.pxor p w) fun c => .next (c.resultPred w.nw w.d (c.predOf w.a ^^^ c.predOf w.b))

/-- PNOT (R194). -/
def execPnot (p : Pre) (w : RWord) (s : State) : Answer :=
  s.perform (.pnot p w) fun c => .next (c.resultPred w.nw w.d (~~~c.predOf w.a))

/-- PMOV (R194). -/
def execPmov (p : Pre) (w : RWord) (s : State) : Answer :=
  s.perform (.pmov p w) fun c => .next (c.resultPred w.nw w.d (c.predOf w.a))

/-- The lane that a shuffle reads (R195): lane j when it is an active lane, else the lane itself. -/
def Iss.from? (c : Iss) (j : Int) (l : Nat) : Nat := if 0 ≤ j ∧ j ≤ 31 ∧ c.active.getLsbD j.toNat = true then j.toNat else l

/-- The lane number that a shuffle's n gives for each form (R195). -/
inductive Shuffle where
  | idx | up | down | xor
  deriving DecidableEq, Repr

/-- The lane number j of R195. -/
def shuffleLane (k : Shuffle) (l n : Nat) : Int :=
  match k with
  | .idx => n
  | .up => (l : Int) - n
  | .down => l + n
  | .xor => (l ^^^ n : Nat)

/-- SHFL (R195): n is B bits 4:0. -/
def Iss.shfl (c : Iss) (w : RWord) (k : Shuffle) : State :=
  c.result w.nw w.d fun l => c.opA w (c.from? (shuffleLane k l ((c.opB w l).toNat % 32)) l)

/-- SHFLI (R195): n is the immediate. -/
def Iss.shfli (c : Iss) (p : Pre) (w : IWord) (k : Shuffle) : State :=
  c.result false w.d fun l => c.rf.lane w.a (c.from? (shuffleLane k l (uimm p w).toNat) l)

/-- SHFL.idx (R195). -/
def execShflIdx (p : Pre) (w : RWord) (s : State) : Answer :=
  s.perform (.shflIdx p w) fun c => .next (c.shfl w .idx)

/-- SHFL.up (R195). -/
def execShflUp (p : Pre) (w : RWord) (s : State) : Answer :=
  s.perform (.shflUp p w) fun c => .next (c.shfl w .up)

/-- SHFL.down (R195). -/
def execShflDown (p : Pre) (w : RWord) (s : State) : Answer :=
  s.perform (.shflDown p w) fun c => .next (c.shfl w .down)

/-- SHFL.xor (R195). -/
def execShflXor (p : Pre) (w : RWord) (s : State) : Answer :=
  s.perform (.shflXor p w) fun c => .next (c.shfl w .xor)

/-- SHFLI.idx (R195). -/
def execShfliIdx (p : Pre) (w : IWord) (s : State) : Answer :=
  s.perform (.shfliIdx p w) fun c => .next (c.shfli p w .idx)

/-- SHFLI.up (R195). -/
def execShfliUp (p : Pre) (w : IWord) (s : State) : Answer :=
  s.perform (.shfliUp p w) fun c => .next (c.shfli p w .up)

/-- SHFLI.down (R195). -/
def execShfliDown (p : Pre) (w : IWord) (s : State) : Answer :=
  s.perform (.shfliDown p w) fun c => .next (c.shfli p w .down)

/-- SHFLI.xor (R195). -/
def execShfliXor (p : Pre) (w : IWord) (s : State) : Answer :=
  s.perform (.shfliXor p w) fun c => .next (c.shfli p w .xor)

/-- One truth value for every lane. -/
def maskAll (b : Bool) : Mask := if b then 0xFFFFFFFF else 0

/-- VOTE.any (R196). -/
def execVoteAny (p : Pre) (w : RWord) (s : State) : Answer :=
  s.perform (.voteAny p w) fun c => .next (c.resultPred w.nw w.d (maskAll (c.predOf w.a &&& c.active != 0)))

/-- VOTE.all (R196). -/
def execVoteAll (p : Pre) (w : RWord) (s : State) : Answer :=
  s.perform (.voteAll p w) fun c => .next (c.resultPred w.nw w.d (maskAll (c.predOf w.a &&& c.active == c.active)))

/-- VOTE.eq (R196). -/
def execVoteEq (p : Pre) (w : RWord) (s : State) : Answer :=
  s.perform (.voteEq p w) fun c => .next (c.resultPred w.nw w.d (maskAll (c.predOf w.a &&& c.active == c.active || c.predOf w.a &&& c.active == 0)))

/-- BALLOT (R196). -/
def execBallot (p : Pre) (w : RWord) (s : State) : Answer :=
  s.perform (.ballot p w) fun c => .next (c.result w.nw w.d fun _ => c.predOf w.a &&& c.active)

/-- The combination of A over the active lanes (R196); with no active lane nothing reads it. -/
def Iss.combine (c : Iss) (w : RWord) (f : Word → Word → Word) : Word :=
  match (lanesOf c.active).map (c.opA w) with
  | [] => 0
  | x :: xs => xs.foldl f x

/-- REDUX (R196): every active lane takes the combination. -/
def Iss.redux (c : Iss) (w : RWord) (f : Word → Word → Word) : State := c.result w.nw w.d fun _ => c.combine w f

/-- REDUX.add (R196). -/
def execReduxAdd (p : Pre) (w : RWord) (s : State) : Answer :=
  s.perform (.reduxAdd p w) fun c => .next (c.redux w (· + ·))

/-- REDUX.min.i32 (R196). -/
def execReduxMinI32 (p : Pre) (w : RWord) (s : State) : Answer :=
  s.perform (.reduxMinI32 p w) fun c => .next (c.redux w minI32)

/-- REDUX.min.n32 (R196). -/
def execReduxMinN32 (p : Pre) (w : RWord) (s : State) : Answer :=
  s.perform (.reduxMinN32 p w) fun c => .next (c.redux w minN32)

/-- REDUX.max.i32 (R196). -/
def execReduxMaxI32 (p : Pre) (w : RWord) (s : State) : Answer :=
  s.perform (.reduxMaxI32 p w) fun c => .next (c.redux w maxI32)

/-- REDUX.max.n32 (R196). -/
def execReduxMaxN32 (p : Pre) (w : RWord) (s : State) : Answer :=
  s.perform (.reduxMaxN32 p w) fun c => .next (c.redux w maxN32)

/-- REDUX.and (R196). -/
def execReduxAnd (p : Pre) (w : RWord) (s : State) : Answer :=
  s.perform (.reduxAnd p w) fun c => .next (c.redux w (· &&& ·))

/-- REDUX.or (R196). -/
def execReduxOr (p : Pre) (w : RWord) (s : State) : Answer :=
  s.perform (.reduxOr p w) fun c => .next (c.redux w (· ||| ·))

/-- REDUX.xor (R196). -/
def execReduxXor (p : Pre) (w : RWord) (s : State) : Answer :=
  s.perform (.reduxXor p w) fun c => .next (c.redux w (· ^^^ ·))

end Sys2Proof.Machine
end

