-- ==== Sys2Proof/Machine/Riscv.lean ====
section
/-! DEFINITION. The RV64GC instructions of the supervisor harts (spec/01_device.md R14), which spec/ leaves to the RISC-V documents
(assumption log 9): what a word says, the floating-point unit, the control and status registers, traps, and what the instructions that
reach no memory do. -/

namespace Sys2Proof.Machine

/-- A control and status register of a hart that is not one of the named fields. -/
def Hart.reg (h : Hart) (n : Nat) : DWord := FMap.get 0 h.csr n

/-- Replaces such a register. -/
def Hart.setReg (h : Hart) (n : Nat) (v : DWord) : Hart := { h with csr := FMap.set 0 h.csr n v }

/-- A word with bits from `lo` on replaced. -/
def putField (v : DWord) (lo w : Nat) (x : Nat) : DWord :=
  (v &&& ~~~(BitVec.ofNat 64 (2 ^ w - 1) <<< lo)) ||| (BitVec.ofNat 64 (x % 2 ^ w) <<< lo)

/-- The number of a mode in mstatus. -/
def modeNumber : HartMode → Nat
  | .u => 0
  | .s => 1
  | .m => 3

/-- The mode with a number; 2 is none, and reads as U. -/
def hartModeOf : Nat → HartMode
  | 3 => .m
  | 1 => .s
  | _ => .u

/-- Register x1 to x31; x0 reads 0. -/
def Hart.xr (h : Hart) (n : Nat) : DWord := if n = 0 then 0 else FMap.get 0 h.x n

/-- A register x1 to x31 after a write; x0 takes nothing. -/
def Hart.setX (h : Hart) (rd : Nat) (v : DWord) : Hart := if rd = 0 ∨ 32 ≤ rd then h else { h with x := FMap.set 0 h.x rd v }

/-- An instruction of `n` bytes ends: the pc goes on and minstret counts it. -/
def Hart.retire (h : Hart) (n : Nat) : Hart := { h.setReg 0xB02 (h.reg 0xB02 + 1) with pc := h.pc + BitVec.ofNat 64 n }

/-! ### Traps -/

/-- Where a trap vector sends a cause: vectored mode spreads the interrupts. -/
def trapVector (tvec : DWord) (irq : Bool) (code : Nat) : DWord :=
  (tvec &&& ~~~(3 : DWord)) + (if irq && tvec.getLsbD 0 && !tvec.getLsbD 1 then BitVec.ofNat 64 (4 * code) else 0)

/-- A trap of a hart into M mode: mepc, mcause, mtval and mstatus are written, and the hart goes to its machine trap vector. -/
def Hart.trapM (h : Hart) (irq : Bool) (code : Nat) (tval : DWord) : Hart :=
  let st := h.reg 0x300
  let st1 := putField (putField (putField st 7 1 (st.getLsbD 3).toNat) 3 1 0) 11 2 (modeNumber h.mode)
  { ((h.setReg 0x341 h.pc).setReg 0x343 tval).setReg 0x300 st1 with
    mcause := (if irq then 0x8000000000000000 else 0) ||| BitVec.ofNat 64 code
    mode := .m
    pc := trapVector (h.reg 0x305) irq code
    lr := none
    pending := none }

/-- A trap of a hart into S mode, for a cause that medeleg or mideleg delegates. -/
def Hart.trapS (h : Hart) (irq : Bool) (code : Nat) (tval : DWord) : Hart :=
  let st := h.reg 0x300
  let st1 := putField (putField (putField st 5 1 (st.getLsbD 1).toNat) 1 1 0) 8 1 (modeNumber h.mode)
  { (((h.setReg 0x141 h.pc).setReg 0x143 tval).setReg 0x142 ((if irq then 0x8000000000000000 else 0) ||| BitVec.ofNat 64 code)).setReg 0x300 st1 with
    mode := .s
    pc := trapVector (h.reg 0x105) irq code
    lr := none
    pending := none }

/-- A trap of a hart, into the mode to which its cause is delegated. -/
def Hart.trap (h : Hart) (irq : Bool) (code : Nat) (tval : DWord) : Hart :=
  if h.mode ≠ .m ∧ (h.reg (if irq then 0x303 else 0x302)).getLsbD code = true then h.trapS irq code tval else h.trapM irq code tval

/-- MRET: the mode and the interrupt enable that the trap saved come back, and MPRV goes as M mode is left. -/
def Hart.mret (h : Hart) : Hart :=
  let st := h.reg 0x300
  let st1 := putField (putField (putField st 3 1 (st.getLsbD 7).toNat) 7 1 1) 11 2 0
  let mode := hartModeOf (st.extractLsb' 11 2).toNat
  { h.setReg 0x300 (if mode = .m then st1 else putField st1 17 1 0) with mode := mode, pc := h.reg 0x341 }

/-- SRET. -/
def Hart.sret (h : Hart) : Hart :=
  let st := h.reg 0x300
  let st1 := putField (putField (putField (putField st 1 1 (st.getLsbD 5).toNat) 5 1 1) 8 1 0) 17 1 0
  { h.setReg 0x300 st1 with mode := hartModeOf (st.extractLsb' 8 1).toNat, pc := h.reg 0x141 }

/-! ### Decoding -/

/-- The second operand of an instruction. -/
inductive RvSrc where
  | reg (n : Nat)
  | imm (v : DWord)
  deriving DecidableEq, Repr

/-- The floating-point operations on registers; a number is that of the variant in the encoding. -/
inductive RvFop where
  | add | sub | mul | div | sqrt | sgnj (k : Nat) | min | max | cmp (k : Nat) | toInt (k : Nat) | ofInt (k : Nat) | toBits | ofBits
  | classify | convert
  deriving DecidableEq, Repr

/-- The instructions of RV64GC with their operands: `f` is the funct3 field, `size` a number of bytes, `word` the 32-bit forms, and `d`
the double-precision ones. -/
inductive Rv where
  | lui (rd : Nat) (v : DWord)
  | auipc (rd : Nat) (v : DWord)
  | jal (rd : Nat) (off : DWord)
  | jalr (rd a : Nat) (off : DWord)
  | branch (f a b : Nat) (off : DWord)
  | load (f rd a : Nat) (off : DWord)
  | store (f src a : Nat) (off : DWord)
  | op (word : Bool) (f : Nat) (alt : Bool) (rd a : Nat) (b : RvSrc)
  | mul (word : Bool) (f rd a b : Nat)
  | fence
  | csr (f rd : Nat) (src : RvSrc) (n : Nat)
  | ecall | ebreak | mret | sret | wfi | sfence
  | lr (size rd a : Nat)
  | sc (size rd a src : Nat)
  | amo (op : AtomOp) (size rd a src : Nat)
  | fload (d : Bool) (rd a : Nat) (off : DWord)
  | fstore (d : Bool) (src a : Nat) (off : DWord)
  | fma (d negProd negAdd : Bool) (rm rd a b c : Nat)
  | fop (d : Bool) (op : RvFop) (rm rd a b : Nat)
  deriving DecidableEq, Repr

/-- The immediates of the formats I, S, B, U and J. -/
def immI (w : Word) : DWord := (w.extractLsb' 20 12).signExtend 64
def immS (w : Word) : DWord := (w.extractLsb' 25 7 ++ w.extractLsb' 7 5).signExtend 64
def immB (w : Word) : DWord :=
  (w.extractLsb' 31 1 ++ w.extractLsb' 7 1 ++ w.extractLsb' 25 6 ++ w.extractLsb' 8 4 ++ (0 : BitVec 1)).signExtend 64
def immU (w : Word) : DWord := (w.extractLsb' 12 20 ++ (0 : BitVec 12)).signExtend 64
def immJ (w : Word) : DWord :=
  (w.extractLsb' 31 1 ++ w.extractLsb' 12 8 ++ w.extractLsb' 20 1 ++ w.extractLsb' 21 10 ++ (0 : BitVec 1)).signExtend 64

/-- A field of a word as a number. -/
def field (w : Word) (lo n : Nat) : Nat := (w.extractLsb' lo n).toNat

/-- The operation of an AMO's funct5. -/
def amoOf : Nat → Option AtomOp
  | 0 => some .add
  | 1 => some .xchg
  | 4 => some .xor
  | 8 => some .or
  | 12 => some .and
  | 16 => some .minS
  | 20 => some .maxS
  | 24 => some .minU
  | 28 => some .maxU
  | _ => none

/-- The shift of an immediate form: the code above the shift amount picks logical or arithmetic. -/
def shiftImm (word : Bool) (f rd a : Nat) (w : Word) : Option Rv :=
  let n := if word then 5 else 6
  let top := field w (20 + n) (12 - n)
  if top = 0 ∨ (f = 5 ∧ top = 2 ^ (10 - n)) then some (.op word f (top != 0) rd a (.imm (BitVec.ofNat 64 (field w 20 n)))) else none

/-- Whether a rounding field names a rounding or frm. -/
def rmOk (f : Nat) : Bool := decide (f ≤ 4) || f == 7

/-- A floating-point operation on registers, by funct7, funct3 and the field of rs2. -/
def fopOf (f7 f b : Nat) : Option RvFop :=
  match f7 / 4 with
  | 0 => if rmOk f then some .add else none
  | 1 => if rmOk f then some .sub else none
  | 2 => if rmOk f then some .mul else none
  | 3 => if rmOk f then some .div else none
  | 11 => if rmOk f ∧ b = 0 then some .sqrt else none
  | 4 => if f < 3 then some (.sgnj f) else none
  | 5 => if f = 0 then some .min else if f = 1 then some .max else none
  | 8 => if rmOk f ∧ b < 2 ∧ b ≠ f7 % 4 then some .convert else none
  | 20 => if f < 3 then some (.cmp f) else none
  | 24 => if rmOk f ∧ b < 4 then some (.toInt b) else none
  | 26 => if rmOk f ∧ b < 4 then some (.ofInt b) else none
  | 28 => if b ≠ 0 then none else if f = 0 then some .toBits else if f = 1 then some .classify else none
  | 30 => if b = 0 ∧ f = 0 then some .ofBits else none
  | _ => none

/-- The instructions of the SYSTEM opcode. -/
def rvSystem (w : Word) (f rd a : Nat) : Option Rv :=
  if f = 0 then
    match w.toNat with
    | 0x00000073 => some .ecall
    | 0x00100073 => some .ebreak
    | 0x30200073 => some .mret
    | 0x10200073 => some .sret
    | 0x10500073 => some .wfi
    | _ => if field w 25 7 = 9 ∧ rd = 0 then some .sfence else none
  else if f = 4 then none
  else some (.csr f rd (if 4 < f then .imm (BitVec.ofNat 64 a) else .reg a) (field w 20 12))

/-- What a 32-bit word says; none for one that is no instruction. -/
def rvDecode (w : Word) : Option Rv :=
  let rd := field w 7 5
  let f := field w 12 3
  let a := field w 15 5
  let b := field w 20 5
  let f7 := field w 25 7
  match field w 0 7 with
  | 0x37 => some (.lui rd (immU w))
  | 0x17 => some (.auipc rd (immU w))
  | 0x6F => some (.jal rd (immJ w))
  | 0x67 => if f = 0 then some (.jalr rd a (immI w)) else none
  | 0x63 => if f = 2 ∨ f = 3 then none else some (.branch f a b (immB w))
  | 0x03 => if f = 7 then none else some (.load f rd a (immI w))
  | 0x23 => if 3 < f then none else some (.store f b a (immS w))
  | 0x13 => if f = 1 ∨ f = 5 then shiftImm false f rd a w else some (.op false f false rd a (.imm (immI w)))
  | 0x1B =>
    if f = 1 ∨ f = 5 then shiftImm true f rd a w else if f = 0 then some (.op true f false rd a (.imm (immI w))) else none
  | 0x33 =>
    if f7 = 1 then some (.mul false f rd a b)
    else if f7 = 0 ∨ (f7 = 32 ∧ (f = 0 ∨ f = 5)) then some (.op false f (f7 != 0) rd a (.reg b))
    else none
  | 0x3B =>
    if f7 = 1 ∧ (f = 0 ∨ 4 ≤ f) then some (.mul true f rd a b)
    else if (f7 = 0 ∧ (f = 0 ∨ f = 1 ∨ f = 5)) ∨ (f7 = 32 ∧ (f = 0 ∨ f = 5)) then some (.op true f (f7 != 0) rd a (.reg b))
    else none
  | 0x0F => if f < 2 then some .fence else none
  | 0x73 => rvSystem w f rd a
  | 0x2F =>
    if f ≠ 2 ∧ f ≠ 3 then none
    else if field w 27 5 = 2 then (if b = 0 then some (.lr (2 ^ f) rd a) else none)
    else if field w 27 5 = 3 then some (.sc (2 ^ f) rd a b)
    else (amoOf (field w 27 5)).map fun op => .amo op (2 ^ f) rd a b
  | 0x07 => if f = 2 ∨ f = 3 then some (.fload (f == 3) rd a (immI w)) else none
  | 0x27 => if f = 2 ∨ f = 3 then some (.fstore (f == 3) b a (immS w)) else none
  | 0x53 => if f7 % 4 < 2 then (fopOf f7 f b).map fun op => .fop (f7 % 4 == 1) op f rd a b else none
  | o =>
    if o = 0x43 ∨ o = 0x47 ∨ o = 0x4B ∨ o = 0x4F then
      (if f7 % 4 < 2 ∧ rmOk f = true then
        some (.fma (f7 % 4 == 1) (o == 0x4B || o == 0x4F) (o == 0x47 || o == 0x4F) f rd a b (field w 27 5)) else none)
    else none

/-- The number whose bits are bits of a halfword: pairs of a bit of the halfword and its place. -/
def gatherBits (h : BitVec 16) (xs : List (Nat × Nat)) : Nat := (xs.map fun (s, d) => if h.getLsbD s then 2 ^ d else 0).sum

/-- A number of `n` bits, extended with its sign. -/
def signed (n v : Nat) : DWord := (BitVec.ofNat n v).signExtend 64

/-- The instructions of quadrant 0. -/
def rvC0 (h : BitVec 16) : Option Rv :=
  let d := 8 + (h.extractLsb' 2 3).toNat
  let a := 8 + (h.extractLsb' 7 3).toNat
  let w := BitVec.ofNat 64 (gatherBits h [(12, 5), (11, 4), (10, 3), (6, 2), (5, 6)])
  let q := BitVec.ofNat 64 (gatherBits h [(12, 5), (11, 4), (10, 3), (6, 7), (5, 6)])
  match (h.extractLsb' 13 3).toNat with
  | 0 =>
    let n := gatherBits h [(12, 5), (11, 4), (10, 9), (9, 8), (8, 7), (7, 6), (6, 2), (5, 3)]
    if n = 0 then none else some (.op false 0 false d 2 (.imm (BitVec.ofNat 64 n)))
  | 1 => some (.fload true d a q)
  | 2 => some (.load 2 d a w)
  | 3 => some (.load 3 d a q)
  | 5 => some (.fstore true d a q)
  | 6 => some (.store 2 d a w)
  | 7 => some (.store 3 d a q)
  | _ => none

/-- The instructions of quadrant 1 with function 4. -/
def rvC1Arith (h : BitVec 16) : Option Rv :=
  let d := 8 + (h.extractLsb' 7 3).toNat
  let b := 8 + (h.extractLsb' 2 3).toNat
  let n := gatherBits h [(12, 5), (6, 4), (5, 3), (4, 2), (3, 1), (2, 0)]
  match (h.extractLsb' 10 2).toNat with
  | 0 => some (.op false 5 false d d (.imm (BitVec.ofNat 64 n)))
  | 1 => some (.op false 5 true d d (.imm (BitVec.ofNat 64 n)))
  | 2 => some (.op false 7 false d d (.imm (signed 6 n)))
  | _ =>
    match h.getLsbD 12, (h.extractLsb' 5 2).toNat with
    | false, 0 => some (.op false 0 true d d (.reg b))
    | false, 1 => some (.op false 4 false d d (.reg b))
    | false, 2 => some (.op false 6 false d d (.reg b))
    | false, _ => some (.op false 7 false d d (.reg b))
    | true, 0 => some (.op true 0 true d d (.reg b))
    | true, 1 => some (.op true 0 false d d (.reg b))
    | true, _ => none

/-- The instructions of quadrant 1. -/
def rvC1 (h : BitVec 16) : Option Rv :=
  let d := (h.extractLsb' 7 5).toNat
  let a := 8 + (h.extractLsb' 7 3).toNat
  let n := gatherBits h [(12, 5), (6, 4), (5, 3), (4, 2), (3, 1), (2, 0)]
  let jump := signed 12 (gatherBits h [(12, 11), (11, 4), (10, 9), (9, 8), (8, 10), (7, 6), (6, 7), (5, 3), (4, 2), (3, 1), (2, 5)])
  let br := signed 9 (gatherBits h [(12, 8), (11, 4), (10, 3), (6, 7), (5, 6), (4, 2), (3, 1), (2, 5)])
  match (h.extractLsb' 13 3).toNat with
  | 0 => some (.op false 0 false d d (.imm (signed 6 n)))
  | 1 => if d = 0 then none else some (.op true 0 false d d (.imm (signed 6 n)))
  | 2 => some (.op false 0 false d 0 (.imm (signed 6 n)))
  | 3 =>
    if d = 2 then
      (let v := gatherBits h [(12, 9), (6, 4), (5, 6), (4, 8), (3, 7), (2, 5)]
       if v = 0 then none else some (.op false 0 false 2 2 (.imm (signed 10 v))))
    else if n = 0 then none else some (.lui d (signed 18 (4096 * n)))
  | 4 => rvC1Arith h
  | 5 => some (.jal 0 jump)
  | 6 => some (.branch 0 a 0 br)
  | _ => some (.branch 1 a 0 br)

/-- The instructions of quadrant 2. -/
def rvC2 (h : BitVec 16) : Option Rv :=
  let d := (h.extractLsb' 7 5).toNat
  let b := (h.extractLsb' 2 5).toNat
  let q := BitVec.ofNat 64 (gatherBits h [(12, 5), (6, 4), (5, 3), (4, 8), (3, 7), (2, 6)])
  let qs := BitVec.ofNat 64 (gatherBits h [(12, 5), (11, 4), (10, 3), (9, 8), (8, 7), (7, 6)])
  match (h.extractLsb' 13 3).toNat with
  | 0 => some (.op false 1 false d d (.imm (BitVec.ofNat 64 (gatherBits h [(12, 5), (6, 4), (5, 3), (4, 2), (3, 1), (2, 0)]))))
  | 1 => some (.fload true d 2 q)
  | 2 => if d = 0 then none else some (.load 2 d 2 (BitVec.ofNat 64 (gatherBits h [(12, 5), (6, 4), (5, 3), (4, 2), (3, 7), (2, 6)])))
  | 3 => if d = 0 then none else some (.load 3 d 2 q)
  | 4 =>
    if !h.getLsbD 12 then (if b ≠ 0 then some (.op false 0 false d 0 (.reg b)) else if d = 0 then none else some (.jalr 0 d 0))
    else if b ≠ 0 then some (.op false 0 false d d (.reg b))
    else if d = 0 then some .ebreak
    else some (.jalr 1 d 0)
  | 5 => some (.fstore true b 2 qs)
  | 6 => some (.store 2 b 2 (BitVec.ofNat 64 (gatherBits h [(12, 5), (11, 4), (10, 3), (9, 2), (8, 7), (7, 6)])))
  | _ => some (.store 3 b 2 qs)

/-- What the bits of an instruction of 2 or 4 bytes say. -/
def rvOf (w : Word) (n : Nat) : Option Rv :=
  if n = 2 then
    let h := w.setWidth 16
    match w.toNat % 4 with
    | 0 => rvC0 h
    | 1 => rvC1 h
    | _ => rvC2 h
  else rvDecode w

/-! ### Integers -/

/-- The operations of OP and OP-IMM on words of `n` bits. -/
def rvAlu {n : Nat} (f : Nat) (alt : Bool) (a b : BitVec n) : BitVec n :=
  match f with
  | 0 => if alt then a - b else a + b
  | 1 => a <<< (b.toNat % n)
  | 2 => if a.slt b then 1 else 0
  | 3 => if a.ult b then 1 else 0
  | 4 => a ^^^ b
  | 5 => if alt then a.sshiftRight (b.toNat % n) else a >>> (b.toNat % n)
  | 6 => a ||| b
  | _ => a &&& b

/-- Multiplication and division on words of `n` bits: a division by 0 gives -1 or all ones, and its remainder the dividend. -/
def rvMul {n : Nat} (f : Nat) (a b : BitVec n) : BitVec n :=
  match f with
  | 0 => a * b
  | 1 => BitVec.ofInt n (a.toInt * b.toInt / 2 ^ n)
  | 2 => BitVec.ofInt n (a.toInt * b.toNat / 2 ^ n)
  | 3 => BitVec.ofNat n (a.toNat * b.toNat / 2 ^ n)
  | 4 => if b = 0 then BitVec.allOnes n else a.sdiv b
  | 5 => if b = 0 then BitVec.allOnes n else a / b
  | 6 => if b = 0 then a else a.srem b
  | _ => if b = 0 then a else a % b

/-- A 32-bit form: on the low words, with the result extended. -/
def onWords (word : Bool) (f64 : DWord → DWord → DWord) (f32 : Word → Word → Word) (a b : DWord) : DWord :=
  if word then (f32 (a.setWidth 32) (b.setWidth 32)).signExtend 64 else f64 a b

/-- Whether a branch is taken. -/
def rvTaken (f : Nat) (a b : DWord) : Bool :=
  match f with
  | 0 => a == b
  | 1 => a != b
  | 4 => a.slt b
  | 5 => !a.slt b
  | 6 => a.ult b
  | _ => !a.ult b

/-! ### Floating point -/

/-- The format of an instruction. -/
def rvFmt (d : Bool) : Fmt := if d then fp64 else fp32

/-- A floating-point register as a pattern: a single that is not boxed reads as the canonical NaN. -/
def Hart.fr (h : Hart) (d : Bool) (n : Nat) : Nat :=
  let v := FMap.get 0 h.f n
  if d then v.toNat else if v.extractLsb' 32 32 = 0xFFFFFFFF then (v.setWidth 32).toNat else fp32.nan

/-- A pattern as it stands in a register: a single is boxed. -/
def rvBox (d : Bool) (x : Nat) : DWord := if d then BitVec.ofNat 64 x else (0xFFFFFFFF : Word) ++ BitVec.ofNat 32 x

/-- The floating-point state is dirty. -/
def Hart.dirty (h : Hart) : Hart := h.setReg 0x300 (putField (h.reg 0x300) 13 2 3)

/-- A floating-point register after a write. -/
def Hart.setF (h : Hart) (rd : Nat) (v : DWord) : Hart := { h.dirty with f := FMap.set 0 h.f rd v }

/-- Flags are raised in fcsr: inexact 1, underflow 2, overflow 4, division by zero 8, invalid 16. -/
def Hart.flag (h : Hart) (flags : Nat) : Hart := if flags = 0 then h else (h.setReg 3 (h.reg 3 ||| BitVec.ofNat 64 flags)).dirty

/-- Rounds (-1)^neg x n / d x 2^e by a rounding number: to nearest even, toward zero, down, up, or to nearest with ties away. -/
def rvRound (f : Fmt) (rm : Nat) (neg : Bool) (n d : Nat) (e : Int) : Fp :=
  match rm with
  | 0 => f.roundRat .rn neg n d e
  | 1 => f.roundRat .rz neg n d e
  | 2 => f.roundRat .rd neg n d e
  | 3 => f.roundRat .ru neg n d e
  | _ =>
    match { f with fw := f.fw + 1 }.roundRat .rz neg n d e with
    | .fin a m x => f.roundRat .rn a ((m + 1) / 2) 1 (x + 1)
    | v => v

/-- Whether a magnitude m x 2^x exceeds n x 2^e. -/
def magAbove (m : Nat) (x : Int) (n : Nat) (e : Int) : Bool := decide (n * pow2 (e - x) < m * pow2 (x - e))

/-- The flags of a rounding: inexact, and with it overflow and, after rounding, underflow. -/
def rvFlags (f : Fmt) (rm : Nat) (neg : Bool) (n d : Nat) (e : Int) : Nat :=
  let exact : Bool := match rvRound f rm neg n d e with
    | .fin _ m x => m * d * pow2 (x - e) == n * pow2 (e - x)
    | _ => false
  if exact then 0
  else match rvRound { f with bias := 8192 } rm neg n d e with
    | .fin _ m x =>
      if magAbove m x f.largest.1 f.largest.2 then 5
      else if decide ((Nat.log2 m : Int) + x < 1 - f.bias) then 3 else 1
    | _ => 1

/-- The pattern and the flags of a rounding. -/
def rvPack (f : Fmt) (rm : Nat) (neg : Bool) (n d : Nat) (e : Int) : Nat × Nat := (f.encode (rvRound f rm neg n d e), rvFlags f rm neg n d e)

/-- Whether a pattern is a signalling NaN. -/
def rvSnan (f : Fmt) (x : Nat) : Bool := (f.decode x).isNan && x / 2 ^ (f.fw - 1) % 2 == 0

/-- The result of an operation with the exact result `r` on operands: a NaN is canonical, and invalid where an operand signals or no
operand is one. -/
def rvResult (f : Fmt) (rm : Nat) (xs : List Nat) (r : Fp) : Nat × Nat :=
  match r with
  | .nan => (f.nan, if (xs.any (rvSnan f)) || !(xs.any fun x => (f.decode x).isNan) then 16 else 0)
  | .inf a => (f.encode (.inf a), 0)
  | .fin a m e => rvPack f rm a m 1 e

/-- FDIV. -/
def rvDiv (f : Fmt) (rm x y : Nat) : Nat × Nat :=
  match f.decode x, f.decode y with
  | .fin a m e, .fin b n k =>
    if n = 0 then (if m = 0 then (f.nan, 16) else (f.encode (.inf (a != b)), 8)) else rvPack f rm (a != b) m n (e - k)
  | .fin a _ _, .inf b => (f.encode (.fin (a != b) 0 0), 0)
  | .inf a, .fin b _ _ => (f.encode (.inf (a != b)), 0)
  | _, _ => rvResult f rm [x, y] .nan

/-- FSQRT: the root of a scaled significand, with what lies below it as one more bit. -/
def rvSqrt (f : Fmt) (rm x : Nat) : Nat × Nat :=
  match f.decode x with
  | .fin a m e =>
    if m = 0 then (x, 0)
    else if a then (f.nan, 16)
    else
      let n := (if e % 2 = 0 then m else 2 * m) * 2 ^ 128
      let h := (if e % 2 = 0 then e else e - 1) / 2 - 64
      let r := isqrt n
      if r * r = n then rvPack f rm false r 1 h else rvPack f rm false (2 * r + 1) 1 (h - 1)
  | .inf a => if a then (f.nan, 16) else (x, 0)
  | .nan => rvResult f rm [x] .nan

/-- FMADD and its kin: invalid also for infinity times zero with a quiet NaN to add. -/
def rvFma (f : Fmt) (rm : Nat) (negProd negAdd : Bool) (x y z : Nat) : Nat × Nat :=
  let p := Fp.mul (f.decode x) (f.decode y)
  let c := f.decode z
  let (r, k) := rvResult f rm [x, y, z] (Fp.add (rm == 2) (if negProd then p.neg else p) (if negAdd then c.neg else c))
  (r, if p.isNan && !(f.decode x).isNan && !(f.decode y).isNan then 16 else k)

/-- FLE, FLT and FEQ by number. -/
def rvCmp (f : Fmt) (k x y : Nat) : Nat × Nat :=
  let a := f.decode x
  let b := f.decode y
  if a.isNan || b.isNan then (0, if k ≠ 2 ∨ rvSnan f x = true ∨ rvSnan f y = true then 16 else 0)
  else
    let o : Ordering := Fp.cmp a b
    let yes : Bool := match k with
      | 0 => o != Ordering.gt
      | 1 => o == Ordering.lt
      | _ => o == Ordering.eq
    (yes.toNat, 0)

/-- FMIN and FMAX. -/
def rvMinMax (f : Fmt) (max : Bool) (x y : Nat) : Nat × Nat :=
  (f.encode ((if max then Fp.max else Fp.min) (f.decode x) (f.decode y)), if rvSnan f x || rvSnan f y then 16 else 0)

/-- The least and the greatest integer of a conversion: of W, WU, L and LU. -/
def rvBounds : Nat → Int × Int
  | 0 => (-2 ^ 31, 2 ^ 31 - 1)
  | 1 => (0, 2 ^ 32 - 1)
  | 2 => (-2 ^ 63, 2 ^ 63 - 1)
  | _ => (0, 2 ^ 64 - 1)

/-- An integer as it stands in a register: 32-bit ones are extended with bit 31. -/
def rvInt (k : Nat) (v : Int) : DWord := if k < 2 then (BitVec.ofInt 32 v).signExtend 64 else BitVec.ofInt 64 v

/-- FCVT to an integer: beyond the bounds it gives the bound and is invalid, and a NaN gives the greatest. -/
def rvToInt (f : Fmt) (rm k x : Nat) : DWord × Nat :=
  let (lo, hi) := rvBounds k
  match f.decode x with
  | .nan => (rvInt k hi, 16)
  | .inf a => (rvInt k (if a then lo else hi), 16)
  | .fin a m e =>
    let num := m * pow2 e
    let den := pow2 (-e)
    let rem := num % den
    let q := match rm with
      | 0 => roundUnit .rn a (num / den) rem den
      | 1 => roundUnit .rz a (num / den) rem den
      | 2 => roundUnit .rd a (num / den) rem den
      | 3 => roundUnit .ru a (num / den) rem den
      | _ => if den ≤ 2 * rem then num / den + 1 else num / den
    let v : Int := if a then -q else q
    if v < lo then (rvInt k lo, 16) else if hi < v then (rvInt k hi, 16) else (rvInt k v, if rem = 0 then 0 else 1)

/-- FCVT from an integer. -/
def rvOfInt (f : Fmt) (rm k : Nat) (x : DWord) : Nat × Nat :=
  let v : Int := match k with
    | 0 => (x.setWidth 32).toInt
    | 1 => (x.setWidth 32).toNat
    | 2 => x.toInt
    | _ => x.toNat
  rvPack f rm (decide (v < 0)) v.natAbs 1 0

/-- FCLASS. -/
def rvClass (f : Fmt) (x : Nat) : Nat :=
  match f.decode x with
  | .nan => if rvSnan f x then 2 ^ 8 else 2 ^ 9
  | .inf a => if a then 1 else 2 ^ 7
  | .fin a m _ =>
    if m = 0 then (if a then 2 ^ 3 else 2 ^ 4) else if m < 2 ^ f.fw then (if a then 2 ^ 2 else 2 ^ 5) else (if a then 2 ^ 1 else 2 ^ 6)

/-- FSGNJ, FSGNJN and FSGNJX by number. -/
def rvSgnj (f : Fmt) (k x y : Nat) : Nat :=
  let top := 2 ^ (f.fw + f.ew)
  let sx := x / top % 2
  let sy := y / top % 2
  x % top + top * (match k with
    | 0 => sy
    | 1 => 1 - sy
    | _ => (sx + sy) % 2)

/-- The rounding that an instruction names: 7 names that of frm; none where it names none. -/
def Hart.rounding (h : Hart) (rm : Nat) : Option Nat :=
  let r := if rm = 7 then (h.reg 3).toNat / 32 % 8 else rm
  if r ≤ 4 then some r else none

/-- A floating-point operation on registers with its rounding. -/
def Hart.rvFop (h : Hart) (d : Bool) (op : RvFop) (rm rd a b : Nat) : Hart :=
  let f := rvFmt d
  let x := h.fr d a
  let y := h.fr d b
  let fp (r : Nat × Nat) : Hart := (h.setF rd (rvBox d r.1)).flag r.2
  match op with
  | .add => fp (rvResult f rm [x, y] (Fp.add (rm == 2) (f.decode x) (f.decode y)))
  | .sub => fp (rvResult f rm [x, y] (Fp.add (rm == 2) (f.decode x) (f.decode y).neg))
  | .mul => fp (rvResult f rm [x, y] (Fp.mul (f.decode x) (f.decode y)))
  | .div => fp (rvDiv f rm x y)
  | .sqrt => fp (rvSqrt f rm x)
  | .sgnj k => fp (rvSgnj f k x y, 0)
  | .min => fp (rvMinMax f false x y)
  | .max => fp (rvMinMax f true x y)
  | .cmp k => (h.setX rd (BitVec.ofNat 64 (rvCmp f k x y).1)).flag (rvCmp f k x y).2
  | .toInt k => (h.setX rd (rvToInt f rm k x).1).flag (rvToInt f rm k x).2
  | .ofInt k => fp (rvOfInt f rm k (h.xr a))
  | .toBits =>
    let v := FMap.get 0 h.f a
    h.setX rd (if d then v else (v.setWidth 32).signExtend 64)
  | .ofBits => fp (if d then (h.xr a).toNat else (h.xr a).toNat % 2 ^ 32, 0)
  | .classify => h.setX rd (BitVec.ofNat 64 (rvClass f x))
  | .convert =>
    let z := h.fr (!d) a
    match (rvFmt !d).decode z with
    | .nan => fp (f.nan, if rvSnan (rvFmt !d) z then 16 else 0)
    | v => fp (rvResult f rm [] v)

/-! ### Control and status registers -/

/-- The bits of mstatus that sstatus shows. -/
def sstatusMask : DWord := 0x80000003000DE762

/-- The bits of mstatus that a write changes. -/
def mstatusMask : DWord := 0x00000000007E79AA

/-- misa of an RV64GC hart with S and U modes: 64 bits, and the letters A, C, D, F, I, M, S and U. -/
def misaValue : DWord := 0x800000000014112D

/-- mstatus: its fields SXL and UXL say 64 bits, and SD says that the floating-point state is dirty. -/
def Hart.status (h : Hart) : DWord :=
  let st := putField (putField (h.reg 0x300) 32 2 2) 34 2 2
  putField st 63 1 (if st.extractLsb' 13 2 = 3 then 1 else 0)

/-- Whether a hart's floating-point state is off. -/
def Hart.fpOff (h : Hart) : Bool := (h.reg 0x300).extractLsb' 13 2 == 0

/-- The control and status registers of a hart; the counters 3 to 31 and the registers of physical memory protection, which has no entry,
read 0. -/
def csrKnown (n : Nat) : Bool :=
  [0x001, 0x002, 0x003, 0x100, 0x104, 0x105, 0x106, 0x10A, 0x140, 0x141, 0x142, 0x143, 0x144, 0x180, 0x300, 0x301, 0x302, 0x303, 0x304, 0x305,
   0x306, 0x30A, 0x320, 0x340, 0x341, 0x342, 0x343, 0x344, 0xB00, 0xB02, 0xF11, 0xF12, 0xF13, 0xF14, 0xF15].contains n ||
    (decide (0xC00 ≤ n) && decide (n < 0xC20)) || (decide (0xB03 ≤ n) && decide (n < 0xB20)) || (decide (0x323 ≤ n) && decide (n < 0x340)) ||
    (decide (0x3A0 ≤ n) && decide (n < 0x3F0) && (decide (0x3B0 ≤ n) || n % 2 == 0))

/-- Whether a mode may read a counter: mcounteren lets S mode, and scounteren U mode. -/
def Hart.counterOk (h : Hart) (n : Nat) : Bool :=
  h.mode == .m || ((h.reg 0x306).getLsbD (n % 32) && (h.mode == .s || (h.reg 0x106).getLsbD (n % 32)))

/-- Whether an access to a control and status register is permitted: bits 9:8 of its number name the least mode and bits 11:10 = 3 a
register that is only read; the floating-point registers need the unit on, satp in S mode TVM clear, and a counter its enable. -/
def Hart.csrOk (h : Hart) (n : Nat) (write : Bool) : Bool :=
  csrKnown n && decide (n / 256 % 4 ≤ modeNumber h.mode) && !(write && n / 1024 == 3) && !(decide (n < 4) && h.fpOff) &&
    !(n == 0x180 && h.mode == .s && (h.reg 0x300).getLsbD 20) && !(n / 256 == 0xC && !h.counterOk n)

/-- A legal satp, or none: its mode is bare, Sv39, Sv48 or Sv57. -/
def satpLegal (v : DWord) : Bool := [0, 8, 9, 10].contains (v.extractLsb' 60 4).toNat

/-- A control and status register as the hart reads it, on the cycle `ck` of its core and at `ns`, with the fault-queue interrupt
raised or not. -/
def Hart.csrGet (h : Hart) (core ck ns : Nat) (irq : Bool) (n : Nat) : DWord :=
  let mip := putField (h.reg 0x344) 16 1 irq.toNat
  match n with
  | 0x001 => h.reg 3 &&& 0x1F
  | 0x002 => (h.reg 3 >>> 5) &&& 7
  | 0x100 => h.status &&& sstatusMask
  | 0x104 => h.reg 0x304 &&& h.reg 0x303
  | 0x144 => mip &&& h.reg 0x303
  | 0x300 => h.status
  | 0x301 => misaValue
  | 0x304 => putField (h.reg 0x304) 16 1 h.mie16.toNat
  | 0x342 => h.mcause
  | 0x344 => mip
  | 0xB00 | 0xC00 => h.reg 0xB00 + BitVec.ofNat 64 ck
  | 0xC01 => BitVec.ofNat 64 ns
  | 0xC02 => h.reg 0xB02
  | 0xF14 => BitVec.ofNat 64 core
  | _ => h.reg n

/-- mstatus after a write: MPP takes a mode that there is. -/
def mstatusPut (old v : DWord) : DWord :=
  let st := (old &&& ~~~mstatusMask) ||| (v &&& mstatusMask)
  if st.extractLsb' 11 2 = 2 then putField st 11 2 (old.extractLsb' 11 2).toNat else st

/-- The bits of a register that a write changes, for those that have some that it does not. -/
def csrMask (n : Nat) : DWord :=
  match n with
  | 0x302 => 0xB3FF
  | 0x303 => 0x222
  | 0x304 => 0xAAA
  | 0x344 => 0x222
  | 0x106 | 0x306 => 7
  | 0x105 | 0x305 => ~~~(2 : DWord)
  | 0x141 | 0x341 => ~~~(1 : DWord)
  | 0x140 | 0x142 | 0x143 | 0x340 | 0x343 | 0xB02 => ~~~(0 : DWord)
  | _ => 0

/-- A control and status register after the hart writes it, on the cycle `ck` of its core: a register or a bit that is fixed stays. -/
def Hart.csrPut (h : Hart) (ck n : Nat) (v : DWord) : Hart :=
  let part (m : DWord) (old : DWord) : DWord := (old &&& ~~~m) ||| (v &&& m)
  match n with
  | 0x001 => (h.setReg 3 (part 0x1F (h.reg 3))).dirty
  | 0x002 => (h.setReg 3 (putField (h.reg 3) 5 3 v.toNat)).dirty
  | 0x003 => (h.setReg 3 (v &&& 0xFF)).dirty
  | 0x100 => h.setReg 0x300 (mstatusPut (h.reg 0x300) (part sstatusMask (h.reg 0x300)))
  | 0x104 => h.setReg 0x304 (part (h.reg 0x303) (h.reg 0x304))
  | 0x144 => h.setReg 0x344 (part (h.reg 0x303 &&& 2) (h.reg 0x344))
  | 0x180 => if satpLegal v then h.setReg 0x180 v else h
  | 0x300 => h.setReg 0x300 (mstatusPut (h.reg 0x300) v)
  | 0x304 => { h.setReg 0x304 (part (csrMask 0x304) (h.reg 0x304)) with mie16 := v.getLsbD 16 }
  | 0x342 => { h with mcause := v }
  | 0xB00 => h.setReg 0xB00 (v - BitVec.ofNat 64 ck)
  | _ => if csrMask n = 0 then h else h.setReg n (part (csrMask n) (h.reg n))

/-- A source of an instruction. -/
def Hart.src (h : Hart) : RvSrc → DWord
  | .reg n => h.xr n
  | .imm v => v

/-- Whether a CSR instruction writes: CSRRS and CSRRC with x0 or an immediate of 0 do not. -/
def csrWrites (f : Nat) (src : RvSrc) : Bool := f % 4 == 1 || !(src == .reg 0 || src == .imm 0)

/-- A CSR instruction, on the cycle `ck` of its core, whose register reads as `old`. -/
def Hart.rvCsr (h : Hart) (ck n f rd : Nat) (src : RvSrc) (k : Nat) (old : DWord) : Hart :=
  let v := h.src src
  let new := match f % 4 with
    | 1 => v
    | 2 => old ||| v
    | _ => old &&& ~~~v
  let t := h.retire n
  (if csrWrites f src then t.csrPut ck k new else t).setX rd old

/-! ### Instructions that reach no memory -/

/-- An instruction that is not permitted, or none. -/
def Hart.illegal (h : Hart) (w : Word) : Hart := h.trap false 2 (w.setWidth 64)

/-- Whether an instruction needs the floating-point unit. -/
def Rv.usesFp : Rv → Bool
  | .fload _ _ _ _ | .fstore _ _ _ _ | .fma _ _ _ _ _ _ _ _ | .fop _ _ _ _ _ _ => true
  | _ => false

/-- What an instruction of `n` bytes with the bits `w` does to a hart on the cycle `ck` of its core, when it reaches no memory; `csr` reads
a control and status register. -/
def Hart.rv (h : Hart) (ck : Nat) (csr : Nat → DWord) (w : Word) (n : Nat) (i : Rv) : Hart :=
  let st := h.reg 0x300
  match i with
  | .lui rd v => (h.retire n).setX rd v
  | .auipc rd v => (h.retire n).setX rd (h.pc + v)
  | .jal rd off => { (h.retire n).setX rd (h.pc + BitVec.ofNat 64 n) with pc := h.pc + off }
  | .jalr rd a off => { (h.retire n).setX rd (h.pc + BitVec.ofNat 64 n) with pc := (h.xr a + off) &&& ~~~(1 : DWord) }
  | .branch f a b off => if rvTaken f (h.xr a) (h.xr b) then { h.retire n with pc := h.pc + off } else h.retire n
  | .op word f alt rd a b => (h.retire n).setX rd (onWords word (rvAlu f alt) (rvAlu f alt) (h.xr a) (h.src b))
  | .mul word f rd a b => (h.retire n).setX rd (onWords word (rvMul f) (rvMul f) (h.xr a) (h.xr b))
  | .csr f rd src k => if h.csrOk k (csrWrites f src) then h.rvCsr ck n f rd src k (csr k) else h.illegal w
  | .ecall => h.trap false (match h.mode with
      | .u => 8
      | .s => 9
      | .m => 11) 0
  | .ebreak => h.trap false 3 h.pc
  | .mret => if h.mode = .m then (h.retire n).mret else h.illegal w
  | .sret => if h.mode = .u ∨ (h.mode = .s ∧ st.getLsbD 22 = true) then h.illegal w else (h.retire n).sret
  | .wfi => if h.mode = .m ∨ st.getLsbD 21 = false then h.retire n else h.illegal w
  | .sfence => if h.mode = .m ∨ (h.mode = .s ∧ st.getLsbD 20 = false) then h.retire n else h.illegal w
  | .fma d np na rm rd a b c =>
    (match h.rounding rm with
     | some r =>
       let (x, k) := rvFma (rvFmt d) r np na (h.fr d a) (h.fr d b) (h.fr d c)
       (((h.retire n).setF rd (rvBox d x)).flag k)
     | none => h.illegal w)
  | .fop d op rm rd a b =>
    (match op with
     | .add | .sub | .mul | .div | .sqrt | .toInt _ | .ofInt _ | .convert =>
       (match h.rounding rm with
        | some r => (h.retire n).rvFop d op r rd a b
        | none => h.illegal w)
     | _ => (h.retire n).rvFop d op 0 rd a b)
  | _ => h.retire n

end Sys2Proof.Machine
end

