-- ==== Sys2Proof/Machine/Writes.lean ====
section
/-! DEFINITION. The writes of the system registers (spec/12_isa_engines.md R260 to R263; spec/16 R285; spec/18 R305, R310, R312;
spec/19 R332; spec/21 R361, R362), and the creation of contexts and partitions (spec/02 R37, R39). -/

namespace Sys2Proof.Machine

/-- A write of STALLST (R263): a written bit 31 clears the stalled bit and the stall interrupt, which stays raised while
another context is stalled. -/
def State.clearStall (s : State) (ctx : Nat) (v : Word) : State :=
  if v.getLsbD 31 then
    let t := s.setCtx ctx { s.ctx ctx with stallst := (s.ctx ctx).stallst &&& 0x7FFFFFFF }
    { t with stallIrq := t.ctxs.any fun e => e.2.stallst.getLsbD 31 }
  else s

/-- STALLST_CLEAR (R263). -/
def execStallstClear (s : State) : Answer :=
  match s.arg with
  | .write ctx v => .next (s.clearStall ctx v)
  | _ => .next s

/-- A write of CTXERR (R305): a written bit 31 or 30 clears that bit; when both are clear the context-error interrupt
drops, unless another context raises it. -/
def State.clearCtxerr (s : State) (ctx : Nat) (v : Word) : State :=
  if v &&& 0xC0000000 = 0 then s
  else
    (s.setCtx ctx { s.ctx ctx with ctxerr := (s.ctx ctx).ctxerr &&& ~~~(v &&& 0xC0000000) }).withCtxIrq

/-- CTXERR_CLEAR (R305). -/
def execCtxerrClear (s : State) : Answer :=
  match s.arg with
  | .write ctx v => .next (s.clearCtxerr ctx v)
  | _ => .next s

/-- A write of LREFUSE (R332). -/
def State.clearRefuse (s : State) (ctx : Nat) : State := s.setCtx ctx { s.ctx ctx with lrefuse := 0 }

/-- LREFUSE_CLEAR (R332). -/
def execLrefuseClear (s : State) : Answer :=
  match s.arg with
  | .write ctx _ => .next (s.clearRefuse ctx)
  | _ => .next s

/-- A write of CTXDERR (R361). -/
def State.clearCtxderr (s : State) (ctx : Nat) : State := s.setCtx ctx { s.ctx ctx with ctxderr := 0 }

/-- CTXDERR_CLEAR (R361). -/
def execCtxderrClear (s : State) : Answer :=
  match s.arg with
  | .write ctx _ => .next (s.clearCtxderr ctx)
  | _ => .next s

/-- A write of MEMERR (R362). -/
def State.clearMemerr (s : State) : State := { s with trust := 0, retired := 0, corrected := 0 }

/-- MEMERR_CLEAR (R362). -/
def execMemerrClear (s : State) : Answer :=
  match s.arg with
  | .write _ _ => .next s.clearMemerr
  | _ => .next s

/-- Bit 0 of a write of MFREEZE (R310). -/
def State.setFreeze (s : State) (g : GroupAt) (v : Word) : State := s.setGroup g { s.group g with freeze := v.getLsbD 0 }

/-- Bit 1 of a write of MFREEZE (R312): it acts when bit 0 is 1 as the same write leaves it. -/
def State.discard (s : State) (g : GroupAt) (v : Word) : State :=
  if v.getLsbD 1 && v.getLsbD 0 then s.setCore g.core ((s.core g.core).discardOps g.block g.ix) else s

/-- A write of MFREEZE (R305, R310, R312). -/
def State.writeFreeze (s : State) (g : GroupAt) (v : Word) : State := (s.setFreeze g v).discard g v

/-- MFREEZE_FREEZE (R310). -/
def execMfreezeFreeze (s : State) : Answer :=
  match s.arg with
  | .groupWrite g _ v => .next (s.setFreeze g v)
  | _ => .next s

/-- MFREEZE_DISCARD (R312): the write freezes the group and discards its ops that have not begun. -/
def execMfreezeDiscard (s : State) : Answer :=
  match s.arg with
  | .groupWrite g _ v => .next (s.writeFreeze g v)
  | _ => .next s

/-- An address with one of its words replaced. -/
def putWord (high : Bool) (v : Word) (pc : DWord) : DWord := if high then v ++ pc.setWidth 32 else pc.extractLsb' 32 32 ++ v

/-- A write of XPCLO or XPCHI (R305). -/
def State.writeXpc (s : State) (g : GroupAt) (high : Bool) (v : Word) : State :=
  s.setGroup g { s.group g with stack := setTopTrap (putWord high v) (s.group g).stack }

/-- XPC_WRITE (R305). -/
def execXpcWrite (s : State) : Answer :=
  match s.arg with
  | .groupWrite g high v => .next (s.writeXpc g high v)
  | _ => .next s

/-- A write of FQHEAD (R284, R285). -/
def State.writeFqhead (s : State) (part : Nat) (v : Word) : State :=
  let p := s.part part
  s.setPart part { p with fqhead := v.toNat % 2 ^ p.fqsize }

/-- FQHEAD_ADVANCE (R284). -/
def execFqheadAdvance (s : State) : Answer :=
  match s.arg with
  | .write part v => .next (s.writeFqhead part v)
  | _ => .next s

/-- A write of CARESET (R139, R349): 1 empties the store, the references that copies in flight hold go with it, and the requests that are
parked on it are performed. -/
def State.careset (s : State) (part : Nat) (v : Word) : State :=
  if v = 1 then
    let t := s.caStore part Part.careset
    let t1 : State := { t with jobs := t.jobs.map fun j => if j.part = part then { j with holds := false } else j }
    t1.retryAll fun p => p.req.space == .tree && p.req.part == part
  else s

/-- CARESET (R139). -/
def execCareset (s : State) : Answer :=
  match s.arg with
  | .write ctx v => .next (s.careset (s.ctx ctx).part v)
  | _ => .next s

/-- A write of CAFRAME (R137, R262). -/
def State.caframe (s : State) (part : Nat) (v : Word) : State :=
  let p := s.part part
  s.setPart part { p with frames := if p.frames.contains v.toNat then p.frames else p.frames ++ [v.toNat] }

/-- CAFRAME (R262). -/
def execCaframe (s : State) : Answer :=
  match s.arg with
  | .write ctx v => .next (s.caframe (s.ctx ctx).part v)
  | _ => .next s

/-- The group that holds a group slot on a core (R26). -/
def State.groupAtSlot (s : State) (core slot : Nat) : Option GroupAt :=
  (s.core core).act.findSome? fun (b, bl) =>
    if bl.live && decide (bl.place.slot ≤ slot) && (bl.group (slot - bl.place.slot)).live then
      some { core := core, block := b, ix := slot - bl.place.slot }
    else none

/-- A write of UIRAISE (R262): the line of the group at the slot rises when the group belongs to the context. -/
def State.uiraise (s : State) (core ctx : Nat) (v : Word) : State :=
  match s.groupAtSlot core ((v.extractLsb' 8 5).toNat) with
  | some g =>
    if (s.block g.core g.block).ctx = ctx then
      s.setGroup g { s.group g with uipend := (s.group g).uipend ||| (1#8 <<< (v.extractLsb' 0 3).toNat) }
    else s
  | none => s

/-- UIRAISE (R262). -/
def execUiraise (s : State) : Answer :=
  match s.arg with
  | .coreWrite core ctx v => .next (s.uiraise core ctx v)
  | _ => .next s

/-- Whether a register of a context stores what is written to it (R261). -/
def plainCtx (i : Nat) : Bool := [0x038, 0x048, 0x049, 0x04C, 0x060, 0x061, 0x062, 0x070, 0x071, 0x091, 0x0B0].contains i

/-- A write of a register of a context that stores the value (R262, R263, R285). -/
def Ctx.writeReg (x : Ctx) (i : Nat) (v : Word) : Ctx :=
  match i with
  | 0x038 => { x with tclass := v &&& 0x3FF }
  | 0x048 => { x with ptroot := putLo x.ptroot v 21 }
  | 0x049 => { x with ptroot := putHi x.ptroot v }
  | 0x04C => { x with keyslot := v.setWidth 8 }
  | 0x060 => { x with sys := v.getLsbD 0 }
  | 0x061 => { x with handler := putWord false v x.handler }
  | 0x062 => { x with handler := putWord true v x.handler }
  | 0x070 => { x with save := putLo x.save v 12 }
  | 0x071 => { x with save := putHi x.save v }
  | 0x091 => { x with launchqhi := v.setWidth 20 }
  | 0x0B0 => { x with redrivelo := v }
  | _ => x

/-- Whether a register of a partition stores what is written to it. -/
def plainPart (i : Nat) : Bool := [0x050, 0x051, 0x0A0, 0x0A1, 0x0A2, 0x0A5, 0x0A8, 0x0A9, 0x0AB].contains i

/-- A write of a register of a partition that stores the value (R138, R262, R285). -/
def Part.writeReg (p : Part) (i : Nat) (v : Word) : Part :=
  match i with
  | 0x050 => { p with cakey := putWord false v p.cakey }
  | 0x051 => { p with cakey := putWord true v p.cakey }
  | 0x0A0 => { p with fqbase := putLo p.fqbase v 12 }
  | 0x0A1 => { p with fqbase := putHi p.fqbase v }
  | 0x0A2 => { p with fqsize := if 4 ≤ v.toNat % 32 ∧ v.toNat % 32 ≤ 16 then v.toNat % 32 else 4 }
  | 0x0A5 => { p with fqhart := v.toNat % 512 }
  | 0x0A8 => { p with pkbase := putLo p.pkbase v 24 }
  | 0x0A9 => { p with pkbase := putHi p.pkbase v }
  | 0x0AB => { p with pkioq := min v.toNat 65536 }
  | _ => p

/-- Whether a register of the device stores what is written to it. -/
def plainDevice (i : Nat) : Bool := [0x072, 0x073, 0x0AC, 0x0E0, 0x0E1, 0x0E2, 0x0E3, 0x0ED].contains i

/-- Whether a context has been created. -/
def State.anyCreated (s : State) : Bool := s.ctxs.any fun e => e.2.created

/-- A write of a register of the device that stores the value (R262, R285, R361); CTXTAB is written only before the first
context is created. -/
def State.writeDevice (s : State) (i n : Nat) (v : Word) : State :=
  match i with
  | 0x072 => if s.anyCreated then s else { s with ctxtab := putLo s.ctxtab v 20 }
  | 0x073 => if s.anyCreated then s else { s with ctxtab := putHi s.ctxtab v }
  | 0x0AC => s.setPort n { s.port n with ioctx := v &&& 0x80000FFF }
  | 0x0E0 => { s with planar := v }
  | 0x0E1 => { s with plannet := v }
  | 0x0E2 => { s with planreg := FMap.set 2000 s.planreg n v }
  | 0x0E3 => { s with planssc := v.getLsbD 0 }
  | 0x0ED => { s with poollow := v.toNat }
  | _ => s

/-- Whether a write of a register only stores the value. -/
def plainReg (i : Nat) : Bool := plainCtx i || plainPart i || plainDevice i

/-- A write of a register that only stores the value. -/
def State.writePlain (s : State) (v : RegView) (i n : Nat) (x : Word) : State :=
  if plainCtx i then s.setCtx v.ctx ((s.ctx v.ctx).writeReg i x)
  else if plainPart i then s.setPart (s.viewPart v) ((s.part (s.viewPart v)).writeReg i x)
  else s.writeDevice i n x

/-- A write of a register of the issuing group (R305); through a hart's window it is ignored. -/
def State.writeGroupReg (s : State) (v : RegView) (i : Nat) (x : Word) : State :=
  if v.who = .nobody then s
  else
    let g := s.groupOf v.who
    match i with
    | 0x0D3 => s.writeXpc g false x
    | 0x0D4 => s.writeXpc g true x
    | 0x0D5 => s.writeFreeze g x
    | _ => s

/-- A write of a system register that the issuer may write: none while it waits; `held` is the block of a write of LAUNCHQ that has
waited (R262). -/
def State.writeReg (s : State) (v : RegView) (i n : Nat) (x : Word) (held : Option Lpb) : Option State :=
  if plainReg i then some (s.writePlain v i n x)
  else if groupReg i then some (s.writeGroupReg v i x)
  else match i with
    | 0x040 => some (s.clearStall v.ctx x)
    | 0x052 => some (s.caframe (s.viewPart v) x)
    | 0x053 => some (s.careset (s.viewPart v) x)
    | 0x058 => some (s.uiraise v.core v.ctx x)
    | 0x090 => s.launchq v.ctx x held
    | 0x0A3 => some (s.writeFqhead (s.viewPart v) x)
    | 0x0B1 => some (s.redriveWrite v.ctx x)
    | 0x0D8 => some (s.killCtx x)
    | 0x0DA => some (s.clearCtxerr v.ctx x)
    | 0x0DC => some (s.clearRefuse v.ctx)
    | 0x0E4 => some (s.planGo x)
    | 0x0F4 => some (s.writePortst n x)
    | 0x0F8 => some s.clearMemerr
    | 0x0F9 => some (s.clearCtxderr v.ctx)
    | _ => some s

/-- The rank of a hart's mode (R260). -/
def modeRank : HartMode → Nat
  | .u => 0
  | .s => 1
  | .m => 2

/-- A context after its creation (R37): its event vector is zero and its launch queues are empty; it has a key slot and a
partition. -/
def Ctx.create (x : Ctx) (part : Nat) (key : BitVec 8) : Ctx :=
  { x with
    created := true
    part := part
    keyslot := key
    ev := 0
    evClear := 0
    evSet := 0
    lq := []
    stallst := 0
    ctxerr := 0
    lrefuse := 0
    ctxderr := 0
    res := .resident
    idle := 0
    owes := false
    image := none
    ranges := none
    staged := false
    killed := false }

/-- CONTEXT_CREATE (R37): of a number that holds no context. It comes from a hart above U mode (R15, `State.admits`). -/
def execContextCreate (s : State) : Answer :=
  match s.arg with
  | .create ctx part key =>
    if decide (ctx < 4096) && decide (part < 16) && !(s.ctx ctx).created then .next (s.setCtx ctx ((s.ctx ctx).create part key))
    else .next s
  | _ => .next s

/-- Whether two runs do not overlap. -/
def apart (a n b m : Nat) : Bool := n == 0 || m == 0 || decide (a + n ≤ b) || decide (b + m ≤ a)

/-- Whether ranges lie in a bank (R39). -/
def rangesOk (r : Ranges) : Bool :=
  decide (r.slot0 + r.slots ≤ 32) && decide (r.row0 + r.rows ≤ 4096) && r.row0 % 16 == 0 && r.rows % 16 == 0 &&
    decide (r.sprow0 + r.sprows ≤ 2048) && decide (r.tile0 + r.tiles ≤ 32) && decide (r.fifo0 + r.fifos ≤ 32)

/-- Whether the ranges of two partitions do not overlap (R39). -/
def rangesApart (r q : Ranges) : Bool := (rangePairs r).zip (rangePairs q) |>.all fun (x, y) => apart x.1 x.2 y.1 y.2

/-- Whether a context of a partition has a gang that is placed and not yet retired (R39). -/
def State.partBusy (s : State) (part : Nat) : Bool := s.gangs.any fun g => g.2.live && (s.ctx (s.grid g.2.grid).ctx).part == part

/-- PARTITION_RANGES_SET (R39, R86): firmware (R15, `State.admits`) gives a partition ranges, or weight-store segments, that no other holds. -/
def execPartitionRangesSet (s : State) : Answer :=
  match s.arg with
  | .ranges part r =>
    if decide (part < 16) && rangesOk r && !s.partBusy part &&
        s.parts.all fun e => e.1 == part || rangesApart r e.2.ranges then
      .next (s.setPart part { s.part part with ranges := r })
    else .next s
  | .segs part v =>
    if decide (part < 16) && s.parts.all fun e => e.1 == part || v &&& e.2.segs == 0 then .next (s.setPart part { s.part part with segs := v })
    else .next s
  | _ => .next s

end Sys2Proof.Machine
end

