-- ==== Sys2Proof/Machine/Hart.lean ====
section
/-! DEFINITION. The supervisor harts as they run (spec/01_device.md R14, R15; spec/12 R260; spec/16 R284; spec/17 R295, R297; spec/21
R342, R350): fetch, translation, and the accesses of their instructions to memory and to the register windows. What spec/ leaves to the
RISC-V documents is in assumption log 9. -/

namespace Sys2Proof.Machine

/-- The hart of a core. -/
def State.hart (s : State) (core : Nat) : Hart := (s.core core).hart

/-- Replaces the hart of a core. -/
def State.setHart (s : State) (core : Nat) (h : Hart) : State := s.setCore core { s.core core with hart := h }

/-- Whether an access is one of those that reach a register (R295): 4 or 8 bytes at the register's word. -/
def windowShape (pa size : Nat) : Bool := (size == 4 || size == 8) && pa % 8 == 0

/-- Whether an element may be reached in a window (R260): in the first only element 0; in the second every element of an
array register and nothing else. -/
def inWindow (pa i : Nat) : Bool := pa < 0xFF80000000000 || isArray i

/-- A hart's read of a register (R260, R295, R297, R333): none while it waits. -/
def State.hartRead (s : State) (core rank pa size : Nat) (at_ : Nat × Nat × Nat) : Option (Word × State) :=
  let (ctx, i, n) := at_
  if windowShape pa size && inWindow pa i && regReadable rank i n then
    match poolOf i with
    | some list => s.takePool list
    | none => some (s.readReg { ctx := ctx, core := core, who := .nobody } i n, s)
  else some (0, s)

/-- A hart's write of a register (R260, R262, R295, R333): none while it waits. -/
def State.hartWrite (s : State) (core rank pa size : Nat) (at_ : Nat × Nat × Nat) (v : Word) : Option State :=
  let (ctx, i, n) := at_
  if windowShape pa size && inWindow pa i && regWritable rank i n then s.writeReg { ctx := ctx, core := core, who := .nobody } i n v ((s.hart core).pending.bind (·.lpb))
  else some s

/-- The block that a write of LAUNCHQ that comes to wait names as it arrives (R262). -/
def State.hartNames (s : State) (pa : Nat) (v : Word) : Option Lpb :=
  (hartWindow pa).bind fun (ctx, i, _) => if i = 0x090 then some (s.namedLpb ctx v) else none

/-- Whether a hart's access to bytes of memory faults (R342): one lies in a poisoned line, or beyond the 52 bits of an address. -/
def State.badBytes (s : State) (pa n : Nat) : Bool := decide (2 ^ 52 < pa + n) || (List.range n).any fun i => s.poisoned (pa + i)

/-- A hart's exception (R342). -/
def State.hartFault (s : State) (core code : Nat) (tval : DWord) : State := s.setHart core ((s.hart core).trap false code tval)

/-! ### Interrupts -/

/-- The interrupt that a hart takes now: of those that are pending and enabled first the fault-queue interrupt, an M-mode interrupt
(R284), and then by the order of the privileged architecture; whether M mode takes it, and its code. -/
def State.hartIrq (s : State) (core : Nat) : Option (Bool × Nat) :=
  let h := s.hart core
  let st := h.reg 0x300
  let mip := putField (h.reg 0x344) 16 1 (s.faultIrq core).toNat
  let on := mip &&& putField (h.reg 0x304) 16 1 h.mie16.toNat
  let toM := if h.mode ≠ .m ∨ st.getLsbD 3 = true then on &&& ~~~(h.reg 0x303) else 0
  let toS := if h.mode = .u ∨ (h.mode = .s ∧ st.getLsbD 1 = true) then on &&& h.reg 0x303 else 0
  let order := [16, 11, 3, 7, 9, 1, 5]
  ((order.find? fun n => toM.getLsbD n).map fun n => (true, n)).or ((order.find? fun n => toS.getLsbD n).map fun n => (false, n))

/-! ### Translation -/

/-- What an access of a hart needs of its page. -/
inductive HartNeed where
  | read | write | fetch
  deriving DecidableEq, Repr

/-- Whether a leaf of the hart's page tables permits an access: in S mode a page of U mode needs SUM and is never fetched from, and MXR lets
an executable page be read; the accessed and dirty bits must be set. -/
def hartLeafOk (mode : HartMode) (st : DWord) (n : HartNeed) (e : DWord) : Bool :=
  (if e.getLsbD 4 then mode == .u || (st.getLsbD 18 && n != .fetch) else mode != .u) && e.getLsbD 6 &&
    (match n with
     | .read => e.getLsbD 1 || (st.getLsbD 19 && e.getLsbD 3)
     | .write => e.getLsbD 2 && e.getLsbD 7
     | .fetch => e.getLsbD 3)

/-- A walk of the hart's page tables from a level down: the physical address, none for a page fault. -/
def hartWalk (mem : Memory) (mode : HartMode) (st : DWord) (n : HartNeed) (va : DWord) : Nat → Nat → Option Nat
  | level, table =>
    let e := mem.read64 (table + 8 * (va.toNat / 2 ^ (12 + 9 * level) % 512))
    let ppn := (e.extractLsb' 10 44).toNat
    if !e.getLsbD 0 || (e.getLsbD 2 && !e.getLsbD 1) || e.extractLsb' 54 10 != 0 then none
    else if e.getLsbD 1 || e.getLsbD 3 then
      (if hartLeafOk mode st n e && ppn % 2 ^ (9 * level) == 0 then some (ppn * 4096 + va.toNat % 2 ^ (12 + 9 * level)) else none)
    else match level with
      | 0 => none
      | l + 1 => hartWalk mem mode st n va l (ppn * 4096)

/-- The mode in whose rights a hart accesses memory: MPRV gives loads and stores of M mode those of MPP. -/
def Hart.accessMode (h : Hart) (n : HartNeed) : HartMode :=
  if h.mode = .m ∧ (h.reg 0x300).getLsbD 17 = true ∧ n ≠ .fetch then hartModeOf ((h.reg 0x300).extractLsb' 11 2).toNat else h.mode

/-- The physical address of a hart's access (R15): in M mode, and where satp names no tables, the address itself; else that to which the
tables of Sv39, Sv48 or Sv57 lead. -/
def State.hartAddr (s : State) (core : Nat) (n : HartNeed) (va : DWord) : Option Nat :=
  let h := s.hart core
  let satp := h.reg 0x180
  let levels := match (satp.extractLsb' 60 4).toNat with
    | 8 => some 3
    | 9 => some 4
    | 10 => some 5
    | _ => none
  if h.accessMode n = .m then some va.toNat
  else match levels with
    | none => some va.toNat
    | some k =>
      if (va.setWidth (12 + 9 * k)).signExtend 64 = va then
        hartWalk s.mem (h.accessMode n) (h.reg 0x300) n va (k - 1) ((satp.extractLsb' 0 44).toNat * 4096)
      else none

/-! ### Accesses -/

/-- What an access of a hart comes to: what it returns and the state after it, that it waits (R295), or the code of its exception. -/
inductive HartGot where
  | ok (v : DWord) (s : State)
  | wait
  | fault (code : Nat)

/-- The account at the caches of the lines that an access of a hart touches (R15, R79). -/
def State.hartLines (s : State) (f : State → Nat → State) (pa n : Nat) : State :=
  (List.range ((pa % 128 + n + 127) / 128)).foldl (fun t i => f t (pa / 128 * 128 + 128 * i)) s

/-- A hart's load of physical memory or of a register (R15, R79, R295, R342). -/
def State.hartLoad (s : State) (core rank pa size : Nat) : HartGot :=
  match hartWindow pa with
  | some a =>
    (match s.hartRead core rank pa size a with
     | some (v, t) => .ok (v.setWidth 64) t
     | none => .wait)
  | none =>
    if s.badBytes pa size then .fault 5
    else .ok (BitVec.ofNat 64 (ofBytes (s.mem.readN pa size))) (s.hartLines (fun t a => t.readL2 (some core) a 0 0) pa size)

/-- A hart's store (R15, R79, R295, R342): one that waits changes nothing yet. -/
def State.hartStore (s : State) (core rank pa : Nat) (bs : List Byte) : HartGot :=
  match hartWindow pa with
  | some a =>
    (match s.hartWrite core rank pa bs.length a (BitVec.ofNat 32 (ofBytes bs)) with
     | some t => .ok 0 t
     | none => .wait)
  | none =>
    if s.badBytes pa bs.length then .fault 7
    else .ok 0 { s.hartLines (fun t a => t.writeL2 (some core) a 0) pa bs.length with mem := s.mem.writeAll (at_ pa bs) }

/-- A hart's atomic (R15, R79, R93, R342): it counts as lane 32 of its core. To the register window, where R295 names loads and stores
alone, it returns 0 and writes nothing: the model's choice (assumption log 78). -/
def State.hartAmo (s : State) (core : Nat) (op : AtomOp) (pa size : Nat) (v : DWord) : HartGot :=
  if (hartWindow pa).isSome then .ok 0 s
  else if s.badBytes pa size then .fault 7
  else
    let a := (0, pa, 64 * core + 32)
    let old : DWord := BitVec.ofNat 64 (ofBytes (s.mem.readN pa size))
    let t := ((s.arriving a).writeL2 (some core) pa 0).arrive [a]
    .ok old { t with mem := s.mem.writeAll (at_ pa (bytesOf (atomNew op size old v 0) size)) }

/-- LR of a hart: a load that leaves a reservation. At the register window, where R295 names loads and stores alone, it returns 0 and leaves
none, and SC fails with 1: the model's choice (assumption log 78). -/
def State.hartLr (s : State) (core pa size : Nat) : HartGot :=
  match s.hartLoad core 0 pa size with
  | .ok v t =>
    if (hartWindow pa).isSome then .ok 0 s else .ok v (t.setHart core { t.hart core with lr := some (pa, size, v) })
  | g => g

/-- SC of a hart: it succeeds when its reservation names these bytes and they hold what LR read (assumption log 9), and returns 0, else 1;
the reservation goes. -/
def State.hartSc (s : State) (core pa : Nat) (bs : List Byte) : HartGot :=
  let s1 := s.setHart core { s.hart core with lr := none }
  if (s.hart core).lr = some (pa, bs.length, BitVec.ofNat 64 (ofBytes (s.mem.readN pa bs.length))) then s1.hartStore core 0 pa bs
  else .ok 1 s1

/-- The rank of a mode for the access of a hart (R260): that of its rights. -/
def Hart.rank (h : Hart) (n : HartNeed) : Nat := modeRank (h.accessMode n)

/-- The memory access of an instruction: what it needs, its address and size, and whether it must be aligned to its size. -/
def Rv.access (h : Hart) : Rv → Option (HartNeed × DWord × Nat × Bool)
  | .load f _ a off => some (.read, h.xr a + off, 2 ^ (f % 4), false)
  | .store f _ a off => some (.write, h.xr a + off, 2 ^ f, false)
  | .fload d _ a off => some (.read, h.xr a + off, if d then 8 else 4, false)
  | .fstore d _ a off => some (.write, h.xr a + off, if d then 8 else 4, false)
  | .lr size _ a => some (.read, h.xr a, size, true)
  | .sc size _ a _ => some (.write, h.xr a, size, true)
  | .amo _ size _ a _ => some (.write, h.xr a, size, true)
  | _ => none

/-- What the access of an instruction does at its physical address. -/
def State.hartAt (s : State) (core pa : Nat) (i : Rv) : HartGot :=
  let h := s.hart core
  match i with
  | .load f _ _ _ => s.hartLoad core (h.rank .read) pa (2 ^ (f % 4))
  | .store f src _ _ => s.hartStore core (h.rank .write) pa (bytesOf (h.xr src) (2 ^ f))
  | .fload d _ _ _ => s.hartLoad core (h.rank .read) pa (if d then 8 else 4)
  | .fstore d src _ _ => s.hartStore core (h.rank .write) pa (bytesOf (FMap.get 0 h.f src) (if d then 8 else 4))
  | .lr size _ _ => s.hartLr core pa size
  | .sc size _ _ src => s.hartSc core pa (bytesOf (h.xr src) size)
  | .amo op size _ _ src => s.hartAmo core op pa size (h.xr src)
  | _ => .ok 0 s

/-- A hart after its instruction of `n` bytes whose access has returned `v`. -/
def Rv.lands (h : Hart) (n : Nat) (v : DWord) (i : Rv) : Hart :=
  let t := { h with pending := none }.retire n
  match i with
  | .load f rd _ _ =>
    t.setX rd (match f with
      | 0 => (v.setWidth 8).signExtend 64
      | 1 => (v.setWidth 16).signExtend 64
      | 2 => (v.setWidth 32).signExtend 64
      | _ => v)
  | .fload d rd _ _ => t.setF rd (rvBox d v.toNat)
  | .lr size rd _ | .amo _ size rd _ _ => t.setX rd (if size = 4 then (v.setWidth 32).signExtend 64 else v)
  | .sc _ rd _ _ => t.setX rd v
  | _ => t

/-- Whether a hart's access of some bytes lies in the register window from its first byte on. -/
def State.hartInWindow (s : State) (core : Nat) (n : HartNeed) (va : DWord) : Bool := ((s.hartAddr core n va).bind hartWindow).isSome

/-- The physical address of an instruction's access, or the code of its exception: an access that must be aligned and is not, or that
crosses a page, is misaligned, but for a load or store at the register window, which reads 0 or writes nothing (R295); one that waits keeps
its address. -/
def State.hartReach (s : State) (core : Nat) (n : HartNeed) (va : DWord) (size : Nat) (strict : Bool) : Except Nat Nat :=
  match (s.hart core).pending with
  | some w => .ok w.pa
  | none =>
    if va.toNat % size ≠ 0 ∧ (strict = true ∨ (4096 < va.toNat % 4096 + size ∧ s.hartInWindow core n va = false)) then .error (if n = .read then 4 else 6)
    else match s.hartAddr core n va with
      | some pa => .ok pa
      | none => .error (if n = .read then 13 else 15)

/-! ### Running -/

/-- A halfword that a hart fetches: a page fault 12, or an access fault 1 where no instruction can stand (R342). -/
def State.hartHalf (s : State) (core : Nat) (va : DWord) : Except (Nat × DWord) (BitVec 16) :=
  match s.hartAddr core .fetch va with
  | none => .error (12, va)
  | some pa =>
    if (hartWindow pa).isSome || s.badBytes pa 2 then .error (1, va) else .ok (BitVec.ofNat 16 (ofBytes (s.mem.readN pa 2)))

/-- The instruction at a hart's pc, with its length in bytes, or the exception of its fetch. -/
def State.hartFetch (s : State) (core : Nat) : Except (Nat × DWord) (Word × Nat) :=
  let pc := (s.hart core).pc
  match s.hartHalf core pc with
  | .error e => .error e
  | .ok lo =>
    if lo.toNat % 4 ≠ 3 then .ok (lo.setWidth 32, 2)
    else match s.hartHalf core (pc + 2) with
      | .error e => .error e
      | .ok hi => .ok (hi ++ lo, 4)

/-- A control and status register as the hart of a core reads it. -/
def State.csr (s : State) (core n : Nat) : DWord := (s.hart core).csrGet core (s.coreCk core) s.ns (s.faultIrq core) n

/-- A hart executes an instruction of `n` bytes with the bits `w` (R14, R15). -/
def State.hartDo (s : State) (core : Nat) (w : Word) (n : Nat) : State :=
  let h := s.hart core
  match rvOf w n with
  | none => s.setHart core (h.illegal w)
  | some i =>
    if i.usesFp && h.fpOff then s.setHart core (h.illegal w)
    else match i.access h with
      | none => s.setHart core (h.rv (s.coreCk core) (s.csr core) w n i)
      | some (need, va, size, strict) =>
        match s.hartReach core need va size strict with
        | .error c => s.hartFault core c va
        | .ok pa =>
          match s.hartAt core pa i with
          | .ok v t => t.setHart core (i.lands (t.hart core) n v)
          | .wait =>
            let lpb := ((h.pending.bind (·.lpb)).or (match i with
              | .store _ src _ _ => s.hartNames pa ((h.xr src).setWidth 32)
              | .fstore _ src _ _ => s.hartNames pa ((FMap.get 0 h.f src).setWidth 32)
              | _ => none))
            s.setHart core { h with pending := some { word := w, len := n, pa := pa, lpb := lpb } }
          | .fault c => s.hartFault core c va

/-- The next thing that a hart does (R14, R15, R284, R295): the instruction whose access waits tries again; else an interrupt is taken, or
the instruction at the pc runs. -/
def State.hartRun (s : State) (core : Nat) : State :=
  let h := s.hart core
  match h.pending with
  | some w => s.hartDo core w.word w.len
  | none =>
    match s.hartIrq core with
    | some (toM, code) => s.setHart core (if toM then h.trapM true code 0 else h.trapS true code 0)
    | none =>
      match s.hartFetch core with
      | .error (c, v) => s.hartFault core c v
      | .ok (w, n) => s.hartDo core w n

/-- Whether the hart of a core runs (R16). -/
def State.hartOn (s : State) (core : Nat) : Bool := decide (core < 512) && (s.hart core).started

/-- SUPERVISOR_HART_ACCESS (R15, R284, R295): the hart of a core does its next thing, in the mode in which it is. -/
def execSupervisorHartAccess (s : State) : Answer :=
  match s.arg with
  | .hart core => .next (if s.hartOn core then s.hartRun core else s)
  | _ => .next s

/-- REGISTER_WRITE (R261): a register that has no behaviour of its own stores what a hart writes in its mode; what that mode may not write
is ignored (R333), and a hart whose earlier window access waits has yet to come to this one (R295). -/
def execRegisterWrite (s : State) : Answer :=
  match s.arg with
  | .regWrite core ctx mode i n x =>
    if s.hartOn core && (s.hart core).mode == mode && (s.hart core).pending.isNone && decide (ctx < 4096) && regWritable (modeRank mode) i n &&
        plainReg i then
      .next (s.writePlain { ctx := ctx, core := core, who := .nobody } i n x)
    else .next s
  | _ => .next s

/-- The pool register that the next instruction of a hart reads in M mode: its list (R297). -/
def State.poolNext (s : State) (core : Nat) : Option Nat :=
  let h := s.hart core
  let next := match h.pending with
    | some w => some (w.word, w.len)
    | none => if (s.hartIrq core).isSome then none else (s.hartFetch core).toOption
  match next.bind fun (w, n) => rvOf w n with
  | some (.load f _ a off) =>
    (match s.hartReach core .read (h.xr a + off) (2 ^ (f % 4)) false with
     | .ok pa => if h.accessMode .read == .m && windowShape pa (2 ^ (f % 4)) then hartPool pa else none
     | .error _ => none)
  | _ => none

/-- A hart reads a pool register (R295, R297, R350): its next instruction is that load, which takes a frame, or waits. -/
def poolRead (s : State) (core list : Nat) : Answer := .next (if s.hartOn core && s.poolNext core == some list then s.hartRun core else s)

/-- POOL_TAKE_64K (R297). -/
def execPoolTake64k (s : State) : Answer :=
  match s.arg with
  | .num2 core tier => if tier < 3 then poolRead s core tier else .next s
  | _ => .next s

/-- POOL_TAKE_2M (R297). -/
def execPoolTake2m (s : State) : Answer :=
  match s.arg with
  | .num2 core tier => if tier < 3 then poolRead s core (tier + 3) else .next s
  | _ => .next s

/-- POOL_TAKE_1G (R297). -/
def execPoolTake1g (s : State) : Answer :=
  match s.arg with
  | .num2 core tier => if tier < 3 then poolRead s core (tier + 6) else .next s
  | _ => .next s

end Sys2Proof.Machine
end

