-- ==== Sys2Proof/Machine/System.lean ====
section
/-! DEFINITION. The system instructions (spec/12_isa_engines.md R260 to R266; spec/19 R333). -/

namespace Sys2Proof.Machine

/-- Whether the index field of a SYSRD or SYSWR is as the register asks (R261, R333). -/
def indexOk (i : Nat) (f : BitVec 7) : Bool := isArray i || f == 0

/-- The element that an index field names (R261): the value of the register in the lowest active lane for an array
register, and element 0 for any other. -/
def Iss.element (c : Iss) (i : Nat) (f : BitVec 7) (l : Nat) : Nat := if isArray i then (c.at_.lane f l).toNat else 0

/-- SYSRD (R261, R333). -/
def execSysrd (p : Pre) (w : IWord) (s : State) : Answer :=
  s.perform (.sysrd p w) fun c =>
    let i := w.imm.toNat
    if !indexOk i w.a || !regReadable c.rank i 0 then c.illegal s
    else match lowest c.active with
      | none => .next (c.done c.s)
      | some l =>
        let n := c.element i w.a l
        if !regReadable c.rank i n then c.illegal s
        else
          let v (j : Nat) : Word := if i = 0 then (if c.who.isThread then 0 else BitVec.ofNat 32 j) else c.s.readReg c.view i n
          .next (c.regs (c.rf.write w.d c.active v))

/-- SYSWR (R104, R261, R333): ordered as a relaxed device-scope store, so earlier acquires come first; a write of LAUNCHQ to a full
queue waits (R262). -/
def execSyswr (p : Pre) (w : IWord) (s : State) : Answer :=
  s.perform (.syswr p w) fun c =>
    let i := w.imm.toNat
    if !indexOk i w.d || !regWritable c.rank i 0 then c.illegal s
    else match lowest c.active with
      | none => .next (c.done c.s)
      | some l =>
        let n := if isArray i then (c.at_.lane w.d l).toNat else 0
        if !regWritable c.rank i n then c.illegal s
        else if c.acquireOwed then c.unready s .operand
        else match (c.done c.s).writeReg c.view i n (c.at_.lane w.a l) c.old.lpb with
          | some t => .next t
          | none => .next (c.block .launch fun p => { p with lpb := some (c.old.lpb.getD (c.s.namedLpb c.view.ctx (c.at_.lane w.a l))) })

/-- The range that a pair and a count name (R264). -/
def Iss.shootArea (c : Iss) (w : SWord) (l : Nat) : Nat × Nat := shootRange (c.at_.pair w.a l) (c.at_.lane w.b l).toNat

/-- TLBINV (R264). -/
def execTlbinv (p : Pre) (w : SWord) (s : State) : Answer :=
  s.perform (.tlbinv p w) fun c =>
    match lowest c.active with
    | none => .next (c.done c.s)
    | some l =>
      let (lo, hi) := c.shootArea w l
      let t := c.done c.s
      let co := t.core c.who.core
      .next (t.setCore c.who.core { co with tlb := co.tlb.filter fun e => !e.meets (c.s.blk c.who).ctx lo hi })

/-- SHOOT (R76, R264). -/
def execShoot (p : Pre) (w : SWord) (s : State) : Answer :=
  s.perform (.shoot p w) fun c =>
    match lowest c.active with
    | none => .next (c.done c.s)
    | some l =>
      let (lo, hi) := c.shootArea w l
      .next ((c.done c.s).shoot (c.s.blk c.who).ctx lo hi)

/-- Whether an issuer may name a context (R333): it has sys, and the number is below 4,096 and not that of a context of
another partition. -/
def Iss.mayName (c : Iss) (ctx : Nat) : Bool :=
  c.rank != 0 && decide (ctx < 4096) && (!(c.s.ctx ctx).created || (c.s.ctx ctx).part == (c.s.blk c.who).part)

/-- SHOOT.ctx (R264, R333). -/
def execShootCtx (p : Pre) (w : SWord) (s : State) : Answer :=
  s.perform (.shootCtx p w) fun c =>
    if c.rank = 0 then c.illegal s
    else match lowest c.active with
      | none => .next (c.done c.s)
      | some l =>
        let ctx := (c.at_.lane p.c l).toNat
        if !c.mayName ctx then c.illegal s
        else if !(c.s.ctx ctx).created then .next (c.done c.s)
        else
          let (lo, hi) := c.shootArea w l
          .next ((c.done c.s).shoot ctx lo hi)

/-- Whether a context can be staged (R265): it is spilled, or will be once it has spilled. -/
def State.stages (s : State) (ctx : Nat) : Bool :=
  let x := s.ctx ctx
  x.created && !x.killed && (decide (x.res = .spilled) || decide (x.res = .spilling))

/-- The request of a pre-emption on every core that holds a block of the context, with the context that is staged for it
(R59, R265). -/
def State.switchTo (s : State) (out : Nat) (inn : Option Nat) : State :=
  let pair (c : Core) : Core :=
    match inn with
    | some b => if c.holds out then { c with pairs := (c.pairs.filter fun p => p.1 != out) ++ [(out, b)] } else c
    | none => c
  let s1 : State := { s with cores := s.cores.map fun e => (e.1, pair e.2) }
  s1.requestPreempt out

/-- CTXSW's request (R265, R333): A is pre-empted when it is resident, and B is staged. -/
def State.ctxsw (s : State) (a b : Nat) : State :=
  let inn := if b ≠ 0xFFFFFFFF ∧ s.stages b = true then some b else none
  let s1 := match inn with
    | some n => s.setCtx n { s.ctx n with staged := true }
    | none => s
  if (s.ctx a).created && !(s.ctx a).killed && decide ((s.ctx a).res = .resident) then s1.switchTo a inn else s1

/-- CTXSW (R265, R333). -/
def execCtxsw (p : Pre) (w : SWord) (s : State) : Answer :=
  s.perform (.ctxsw p w) fun c =>
    if c.rank = 0 then c.illegal s
    else match lowest c.active with
      | none => .next (c.done c.s)
      | some l =>
        let a := (c.at_.lane w.a l).toNat
        let b := (c.at_.lane w.b l).toNat
        if !c.mayName a || (b != 0xFFFFFFFF && !c.mayName b) then c.illegal s
        else .next ((c.done c.s).ctxsw a b)

/-- UIEN (R266). -/
def execUien (p : Pre) (w : SWord) (s : State) : Answer :=
  s.perform (.uien p w) fun c =>
    match lowest c.active with
    | none => .next (c.done c.s)
    | some l =>
      let t := c.done c.s
      .next (t.setGroup c.g { t.group c.g with uien := (c.at_.lane w.a l).setWidth 8 })

end Sys2Proof.Machine
end

