-- ==== Sys2Proof/Machine/Dispatch.lean ====
section
/-! DEFINITION. The dispatcher: one arm for each constructor of `Instr`. -/

namespace Sys2Proof.Machine

def exec (i : Instr) (s : State) : Host.Outcome State Fault Refusal :=
  match i with
  | .nop => Sys2Proof.Machine.execNop s
  | .bra p w => Sys2Proof.Machine.execBra p w s
  | .braR p w => Sys2Proof.Machine.execBraR p w s
  | .brcAny p w => Sys2Proof.Machine.execBrcAny p w s
  | .brcAll p w => Sys2Proof.Machine.execBrcAll p w s
  | .brcZ p w => Sys2Proof.Machine.execBrcZ p w s
  | .brcNz p w => Sys2Proof.Machine.execBrcNz p w s
  | .brd p w => Sys2Proof.Machine.execBrd p w s
  | .brdZ p w => Sys2Proof.Machine.execBrdZ p w s
  | .brdNz p w => Sys2Proof.Machine.execBrdNz p w s
  | .call p w => Sys2Proof.Machine.execCall p w s
  | .callR p w => Sys2Proof.Machine.execCallR p w s
  | .ret p w => Sys2Proof.Machine.execRet p w s
  | .exit p w => Sys2Proof.Machine.execExit p w s
  | .wbase p w => Sys2Proof.Machine.execWbase p w s
  | .wbaseR p w => Sys2Proof.Machine.execWbaseR p w s
  | .yield p w => Sys2Proof.Machine.execYield p w s
  | .trap p w => Sys2Proof.Machine.execTrap p w s
  | .spop p w => Sys2Proof.Machine.execSpop p w s
  | .add p w => Sys2Proof.Machine.execAdd p w s
  | .addi p w => Sys2Proof.Machine.execAddi p w s
  | .sub p w => Sys2Proof.Machine.execSub p w s
  | .addSatI32 p w => Sys2Proof.Machine.execAddSatI32 p w s
  | .addSatN32 p w => Sys2Proof.Machine.execAddSatN32 p w s
  | .subSatI32 p w => Sys2Proof.Machine.execSubSatI32 p w s
  | .subSatN32 p w => Sys2Proof.Machine.execSubSatN32 p w s
  | .mul p w => Sys2Proof.Machine.execMul p w s
  | .muli p w => Sys2Proof.Machine.execMuli p w s
  | .mulhI32 p w => Sys2Proof.Machine.execMulhI32 p w s
  | .mulhN32 p w => Sys2Proof.Machine.execMulhN32 p w s
  | .mad p w => Sys2Proof.Machine.execMad p w s
  | .madwI32 p w => Sys2Proof.Machine.execMadwI32 p w s
  | .madwN32 p w => Sys2Proof.Machine.execMadwN32 p w s
  | .minI32 p w => Sys2Proof.Machine.execMinI32 p w s
  | .minN32 p w => Sys2Proof.Machine.execMinN32 p w s
  | .maxI32 p w => Sys2Proof.Machine.execMaxI32 p w s
  | .maxN32 p w => Sys2Proof.Machine.execMaxN32 p w s
  | .miniI32 p w => Sys2Proof.Machine.execMiniI32 p w s
  | .miniN32 p w => Sys2Proof.Machine.execMiniN32 p w s
  | .maxiI32 p w => Sys2Proof.Machine.execMaxiI32 p w s
  | .maxiN32 p w => Sys2Proof.Machine.execMaxiN32 p w s
  | .abs p w => Sys2Proof.Machine.execAbs p w s
  | .neg p w => Sys2Proof.Machine.execNeg p w s
  | .and p w => Sys2Proof.Machine.execAnd p w s
  | .andi p w => Sys2Proof.Machine.execAndi p w s
  | .or p w => Sys2Proof.Machine.execOr p w s
  | .ori p w => Sys2Proof.Machine.execOri p w s
  | .xor p w => Sys2Proof.Machine.execXor p w s
  | .xori p w => Sys2Proof.Machine.execXori p w s
  | .not p w => Sys2Proof.Machine.execNot p w s
  | .andn p w => Sys2Proof.Machine.execAndn p w s
  | .andni p w => Sys2Proof.Machine.execAndni p w s
  | .shl p w => Sys2Proof.Machine.execShl p w s
  | .shli p w => Sys2Proof.Machine.execShli p w s
  | .shr p w => Sys2Proof.Machine.execShr p w s
  | .shri p w => Sys2Proof.Machine.execShri p w s
  | .sha p w => Sys2Proof.Machine.execSha p w s
  | .shai p w => Sys2Proof.Machine.execShai p w s
  | .rol p w => Sys2Proof.Machine.execRol p w s
  | .roli p w => Sys2Proof.Machine.execRoli p w s
  | .ror p w => Sys2Proof.Machine.execRor p w s
  | .popc p w => Sys2Proof.Machine.execPopc p w s
  | .clz p w => Sys2Proof.Machine.execClz p w s
  | .ctz p w => Sys2Proof.Machine.execCtz p w s
  | .brev p w => Sys2Proof.Machine.execBrev p w s
  | .bfxI32 p w => Sys2Proof.Machine.execBfxI32 p w s
  | .bfxN32 p w => Sys2Proof.Machine.execBfxN32 p w s
  | .bfi p w => Sys2Proof.Machine.execBfi p w s
  | .sel p w => Sys2Proof.Machine.execSel p w s
  | .mov p w => Sys2Proof.Machine.execMov p w s
  | .movi p w => Sys2Proof.Machine.execMovi p w s
  | .movh p w => Sys2Proof.Machine.execMovh p w s
  | .lea p w => Sys2Proof.Machine.execLea p w s
  | .leai p w => Sys2Proof.Machine.execLeai p w s
  | .bfxrI32 p w => Sys2Proof.Machine.execBfxrI32 p w s
  | .bfxrN32 p w => Sys2Proof.Machine.execBfxrN32 p w s
  | .bfir p w => Sys2Proof.Machine.execBfir p w s
  | .rsubi p w => Sys2Proof.Machine.execRsubi p w s
  | .fadd p w => Sys2Proof.Machine.execFadd p w s
  | .fsub p w => Sys2Proof.Machine.execFsub p w s
  | .fmul p w => Sys2Proof.Machine.execFmul p w s
  | .ffma p w => Sys2Proof.Machine.execFfma p w s
  | .ffms p w => Sys2Proof.Machine.execFfms p w s
  | .fnma p w => Sys2Proof.Machine.execFnma p w s
  | .fmin p w => Sys2Proof.Machine.execFmin p w s
  | .fmax p w => Sys2Proof.Machine.execFmax p w s
  | .frcp p w => Sys2Proof.Machine.execFrcp p w s
  | .frsq p w => Sys2Proof.Machine.execFrsq p w s
  | .fsqrt p w => Sys2Proof.Machine.execFsqrt p w s
  | .fexp2 p w => Sys2Proof.Machine.execFexp2 p w s
  | .flog2 p w => Sys2Proof.Machine.execFlog2 p w s
  | .fclass p w => Sys2Proof.Machine.execFclass p w s
  | .faddX2 p w => Sys2Proof.Machine.execFaddX2 p w s
  | .fsubX2 p w => Sys2Proof.Machine.execFsubX2 p w s
  | .fmulX2 p w => Sys2Proof.Machine.execFmulX2 p w s
  | .ffmaX2 p w => Sys2Proof.Machine.execFfmaX2 p w s
  | .fminX2 p w => Sys2Proof.Machine.execFminX2 p w s
  | .fmaxX2 p w => Sys2Proof.Machine.execFmaxX2 p w s
  | .frcpX2 p w => Sys2Proof.Machine.execFrcpX2 p w s
  | .frsqX2 p w => Sys2Proof.Machine.execFrsqX2 p w s
  | .fsqrtX2 p w => Sys2Proof.Machine.execFsqrtX2 p w s
  | .fexp2X2 p w => Sys2Proof.Machine.execFexp2X2 p w s
  | .flog2X2 p w => Sys2Proof.Machine.execFlog2X2 p w s
  | .cvtFromF32 p w => Sys2Proof.Machine.execCvtFromF32 p w s
  | .cvtFromF16 p w => Sys2Proof.Machine.execCvtFromF16 p w s
  | .cvtFromBf16 p w => Sys2Proof.Machine.execCvtFromBf16 p w s
  | .cvtFromE4m3 p w => Sys2Proof.Machine.execCvtFromE4m3 p w s
  | .cvtFromE5m2 p w => Sys2Proof.Machine.execCvtFromE5m2 p w s
  | .cvtFromI32 p w => Sys2Proof.Machine.execCvtFromI32 p w s
  | .cvtFromN32 p w => Sys2Proof.Machine.execCvtFromN32 p w s
  | .cvtFromI64 p w => Sys2Proof.Machine.execCvtFromI64 p w s
  | .cvtFromN64 p w => Sys2Proof.Machine.execCvtFromN64 p w s
  | .cvtFromI16 p w => Sys2Proof.Machine.execCvtFromI16 p w s
  | .cvtFromN16 p w => Sys2Proof.Machine.execCvtFromN16 p w s
  | .cvtFromI8 p w => Sys2Proof.Machine.execCvtFromI8 p w s
  | .cvtFromN8 p w => Sys2Proof.Machine.execCvtFromN8 p w s
  | .cvtFromI4 p w => Sys2Proof.Machine.execCvtFromI4 p w s
  | .cvtPk p w => Sys2Proof.Machine.execCvtPk p w s
  | .cvtPkHi p w => Sys2Proof.Machine.execCvtPkHi p w s
  | .cmpI32 p w => Sys2Proof.Machine.execCmpI32 p w s
  | .cmpN32 p w => Sys2Proof.Machine.execCmpN32 p w s
  | .cmpF32 p w => Sys2Proof.Machine.execCmpF32 p w s
  | .cmpiI32 p w => Sys2Proof.Machine.execCmpiI32 p w s
  | .cmpiN32 p w => Sys2Proof.Machine.execCmpiN32 p w s
  | .pand p w => Sys2Proof.Machine.execPand p w s
  | .por p w => Sys2Proof.Machine.execPor p w s
  | .pxor p w => Sys2Proof.Machine.execPxor p w s
  | .pnot p w => Sys2Proof.Machine.execPnot p w s
  | .pmov p w => Sys2Proof.Machine.execPmov p w s
  | .shflIdx p w => Sys2Proof.Machine.execShflIdx p w s
  | .shflUp p w => Sys2Proof.Machine.execShflUp p w s
  | .shflDown p w => Sys2Proof.Machine.execShflDown p w s
  | .shflXor p w => Sys2Proof.Machine.execShflXor p w s
  | .shfliIdx p w => Sys2Proof.Machine.execShfliIdx p w s
  | .shfliUp p w => Sys2Proof.Machine.execShfliUp p w s
  | .shfliDown p w => Sys2Proof.Machine.execShfliDown p w s
  | .shfliXor p w => Sys2Proof.Machine.execShfliXor p w s
  | .voteAny p w => Sys2Proof.Machine.execVoteAny p w s
  | .voteAll p w => Sys2Proof.Machine.execVoteAll p w s
  | .voteEq p w => Sys2Proof.Machine.execVoteEq p w s
  | .ballot p w => Sys2Proof.Machine.execBallot p w s
  | .reduxAdd p w => Sys2Proof.Machine.execReduxAdd p w s
  | .reduxMinI32 p w => Sys2Proof.Machine.execReduxMinI32 p w s
  | .reduxMinN32 p w => Sys2Proof.Machine.execReduxMinN32 p w s
  | .reduxMaxI32 p w => Sys2Proof.Machine.execReduxMaxI32 p w s
  | .reduxMaxN32 p w => Sys2Proof.Machine.execReduxMaxN32 p w s
  | .reduxAnd p w => Sys2Proof.Machine.execReduxAnd p w s
  | .reduxOr p w => Sys2Proof.Machine.execReduxOr p w s
  | .reduxXor p w => Sys2Proof.Machine.execReduxXor p w s
  | .ld p w => Sys2Proof.Machine.execLd p w s
  | .ldB128 p w => Sys2Proof.Machine.execLdB128 p w s
  | .st p w => Sys2Proof.Machine.execSt p w s
  | .stB128 p w => Sys2Proof.Machine.execStB128 p w s
  | .ldfeKeep p w => Sys2Proof.Machine.execLdfeKeep p w s
  | .ldfeClr p w => Sys2Proof.Machine.execLdfeClr p w s
  | .stfe p w => Sys2Proof.Machine.execStfe p w s
  | .feset p w => Sys2Proof.Machine.execFeset p w s
  | .feclr p w => Sys2Proof.Machine.execFeclr p w s
  | .ldt p w => Sys2Proof.Machine.execLdt p w s
  | .pref p w => Sys2Proof.Machine.execPref p w s
  | .rld p w => Sys2Proof.Machine.execRld p w s
  | .rset p w => Sys2Proof.Machine.execRset p w s
  | .rget p w => Sys2Proof.Machine.execRget p w s
  | .rmov p w => Sys2Proof.Machine.execRmov p w s
  | .atomAdd p w => Sys2Proof.Machine.execAtomAdd p w s
  | .atomMin p w => Sys2Proof.Machine.execAtomMin p w s
  | .atomMax p w => Sys2Proof.Machine.execAtomMax p w s
  | .atomAnd p w => Sys2Proof.Machine.execAtomAnd p w s
  | .atomOr p w => Sys2Proof.Machine.execAtomOr p w s
  | .atomXor p w => Sys2Proof.Machine.execAtomXor p w s
  | .atomXchg p w => Sys2Proof.Machine.execAtomXchg p w s
  | .atomCas p w => Sys2Proof.Machine.execAtomCas p w s
  | .atomIncw p w => Sys2Proof.Machine.execAtomIncw p w s
  | .redAdd p w => Sys2Proof.Machine.execRedAdd p w s
  | .redMin p w => Sys2Proof.Machine.execRedMin p w s
  | .redMax p w => Sys2Proof.Machine.execRedMax p w s
  | .redAnd p w => Sys2Proof.Machine.execRedAnd p w s
  | .redOr p w => Sys2Proof.Machine.execRedOr p w s
  | .redXor p w => Sys2Proof.Machine.execRedXor p w s
  | .atomfAdd p w => Sys2Proof.Machine.execAtomfAdd p w s
  | .atomfMin p w => Sys2Proof.Machine.execAtomfMin p w s
  | .atomfMax p w => Sys2Proof.Machine.execAtomfMax p w s
  | .fence p w => Sys2Proof.Machine.execFence p w s
  | .xfence p w => Sys2Proof.Machine.execXfence p w s
  | .bar => Sys2Proof.Machine.execBar s
  | .bara => Sys2Proof.Machine.execBara s
  | .barw => Sys2Proof.Machine.execBarw s
  | .gbar => Sys2Proof.Machine.execGbar s
  | .qpush p w => Sys2Proof.Machine.execQpush p w s
  | .qpop p w => Sys2Proof.Machine.execQpop p w s
  | .qtry p w => Sys2Proof.Machine.execQtry p w s
  | .qallow p w => Sys2Proof.Machine.execQallow p w s
  | .qinit p w => Sys2Proof.Machine.execQinit p w s
  | .evwait p w => Sys2Proof.Machine.execEvwait p w s
  | .evset p w => Sys2Proof.Machine.execEvset p w s
  | .evclr p w => Sys2Proof.Machine.execEvclr p w s
  | .evtest p w => Sys2Proof.Machine.execEvtest p w s
  | .mma p w => Sys2Proof.Machine.execMma p w s
  | .mmaW p w => Sys2Proof.Machine.execMmaW p w s
  | .cmma p w => Sys2Proof.Machine.execCmma p w s
  | .aclr p w => Sys2Proof.Machine.execAclr p w s
  | .adrain p w => Sys2Proof.Machine.execAdrain p w s
  | .afill p w => Sys2Proof.Machine.execAfill p w s
  | .ast p w => Sys2Proof.Machine.execAst p w s
  | .astW p w => Sys2Proof.Machine.execAstW p w s
  | .astI p w => Sys2Proof.Machine.execAstI p w s
  | .amov p w => Sys2Proof.Machine.execAmov p w s
  | .amovGet p w => Sys2Proof.Machine.execAmovGet p w s
  | .amovPut p w => Sys2Proof.Machine.execAmovPut p w s
  | .bndrd p w => Sys2Proof.Machine.execBndrd p w s
  | .bndrdK p w => Sys2Proof.Machine.execBndrdK p w s
  | .bndwr p w => Sys2Proof.Machine.execBndwr p w s
  | .bndthr p w => Sys2Proof.Machine.execBndthr p w s
  | .bndchk p w => Sys2Proof.Machine.execBndchk p w s
  | .cvtq p w => Sys2Proof.Machine.execCvtq p w s
  | .srseed p w => Sys2Proof.Machine.execSrseed p w s
  | .smerge p w => Sys2Proof.Machine.execSmerge p w s
  | .fork p w => Sys2Proof.Machine.execFork p w s
  | .forkHandle p w => Sys2Proof.Machine.execForkHandle p w s
  | .rdv p w => Sys2Proof.Machine.execRdv p w s
  | .rdvAll p w => Sys2Proof.Machine.execRdvAll p w s
  | .acopy p w => Sys2Proof.Machine.execAcopy p w s
  | .acopyA p w => Sys2Proof.Machine.execAcopyA p w s
  | .acopyB p w => Sys2Proof.Machine.execAcopyB p w s
  | .mfill p w => Sys2Proof.Machine.execMfill p w s
  | .bcopy p w => Sys2Proof.Machine.execBcopy p w s
  | .cacopy p w => Sys2Proof.Machine.execCacopy p w s
  | .acwait p w => Sys2Proof.Machine.execAcwait p w s
  | .bcwait p w => Sys2Proof.Machine.execBcwait p w s
  | .cains p w => Sys2Proof.Machine.execCains p w s
  | .cainsN p w => Sys2Proof.Machine.execCainsN p w s
  | .caget p w => Sys2Proof.Machine.execCaget p w s
  | .carefInc p w => Sys2Proof.Machine.execCarefInc p w s
  | .carefDec p w => Sys2Proof.Machine.execCarefDec p w s
  | .carefPin p w => Sys2Proof.Machine.execCarefPin p w s
  | .caswap p w => Sys2Proof.Machine.execCaswap p w s
  | .kvwalk p w => Sys2Proof.Machine.execKvwalk p w s
  | .cawalk p w => Sys2Proof.Machine.execCawalk p w s
  | .launch p w => Sys2Proof.Machine.execLaunch p w s
  | .sysrd p w => Sys2Proof.Machine.execSysrd p w s
  | .syswr p w => Sys2Proof.Machine.execSyswr p w s
  | .tlbinv p w => Sys2Proof.Machine.execTlbinv p w s
  | .shoot p w => Sys2Proof.Machine.execShoot p w s
  | .shootCtx p w => Sys2Proof.Machine.execShootCtx p w s
  | .ctxsw p w => Sys2Proof.Machine.execCtxsw p w s
  | .uien p w => Sys2Proof.Machine.execUien p w s
  | .userInterruptDelivery => Sys2Proof.Machine.execUserInterruptDelivery s
  | .splitMerge => Sys2Proof.Machine.execSplitMerge s
  | .stackPop => Sys2Proof.Machine.execStackPop s
  | .yieldTimeout => Sys2Proof.Machine.execYieldTimeout s
  | .launchTake => Sys2Proof.Machine.execLaunchTake s
  | .gangPlace => Sys2Proof.Machine.execGangPlace s
  | .blockRetire => Sys2Proof.Machine.execBlockRetire s
  | .gridRetire => Sys2Proof.Machine.execGridRetire s
  | .barrierPhaseComplete => Sys2Proof.Machine.execBarrierPhaseComplete s
  | .queueRetry => Sys2Proof.Machine.execQueueRetry s
  | .ldfeRetry => Sys2Proof.Machine.execLdfeRetry s
  | .preemptSwap => Sys2Proof.Machine.execPreemptSwap s
  | .spill => Sys2Proof.Machine.execSpill s
  | .restoreLoad => Sys2Proof.Machine.execRestoreLoad s
  | .stagedSwap => Sys2Proof.Machine.execStagedSwap s
  | .stallReport => Sys2Proof.Machine.execStallReport s
  | .hangReport => Sys2Proof.Machine.execHangReport s
  | .quarterBind => Sys2Proof.Machine.execQuarterBind s
  | .passStart => Sys2Proof.Machine.execPassStart s
  | .passPromote => Sys2Proof.Machine.execPassPromote s
  | .completion => Sys2Proof.Machine.execCompletion s
  | .copyLanding => Sys2Proof.Machine.execCopyLanding s
  | .pageWalk => Sys2Proof.Machine.execPageWalk s
  | .homeSliceAtomic => Sys2Proof.Machine.execHomeSliceAtomic s
  | .readWindowClose => Sys2Proof.Machine.execReadWindowClose s
  | .park => Sys2Proof.Machine.execPark s
  | .faultRecordPost => Sys2Proof.Machine.execFaultRecordPost s
  | .redrive => Sys2Proof.Machine.execRedrive s
  | .inboundPostedWrite => Sys2Proof.Machine.execInboundPostedWrite s
  | .inboundRead => Sys2Proof.Machine.execInboundRead s
  | .inboundTimeout => Sys2Proof.Machine.execInboundTimeout s
  | .peerFailureCompletion => Sys2Proof.Machine.execPeerFailureCompletion s
  | .relaxedFlushAck => Sys2Proof.Machine.execRelaxedFlushAck s
  | .pageInJob => Sys2Proof.Machine.execPageInJob s
  | .bulkCopyJob => Sys2Proof.Machine.execBulkCopyJob s
  | .cacopyJob => Sys2Proof.Machine.execCacopyJob s
  | .caInsert => Sys2Proof.Machine.execCaInsert s
  | .lovageReclaim => Sys2Proof.Machine.execLovageReclaim s
  | .savoryScrub => Sys2Proof.Machine.execSavoryScrub s
  | .wsRefreshOpen => Sys2Proof.Machine.execWsRefreshOpen s
  | .wsRefreshClose => Sys2Proof.Machine.execWsRefreshClose s
  | .congestionMark => Sys2Proof.Machine.execCongestionMark s
  | .injectionRateRecover => Sys2Proof.Machine.execInjectionRateRecover s
  | .eccCorrected => Sys2Proof.Machine.execEccCorrected s
  | .eccUncorrectable => Sys2Proof.Machine.execEccUncorrectable s
  | .linkCheckFail => Sys2Proof.Machine.execLinkCheckFail s
  | .portDown => Sys2Proof.Machine.execPortDown s
  | .mmioReadTimeout => Sys2Proof.Machine.execMmioReadTimeout s
  | .cxlPoisonCompletion => Sys2Proof.Machine.execCxlPoisonCompletion s
  | .clockIslandSwitch => Sys2Proof.Machine.execClockIslandSwitch s
  | .throttleRaise => Sys2Proof.Machine.execThrottleRaise s
  | .throttleLower => Sys2Proof.Machine.execThrottleLower s
  | .thermalReset => Sys2Proof.Machine.execThermalReset s
  | .powerOnBoot => Sys2Proof.Machine.execPowerOnBoot s
  | .powerRemove => Sys2Proof.Machine.execPowerRemove s
  | .sidebandReset => Sys2Proof.Machine.execSidebandReset s
  | .attestation => Sys2Proof.Machine.execAttestation s
  | .sidebandNack => Sys2Proof.Machine.execSidebandNack s
  | .launchq => Sys2Proof.Machine.execLaunchq s
  | .killctx => Sys2Proof.Machine.execKillctx s
  | .careset => Sys2Proof.Machine.execCareset s
  | .caframe => Sys2Proof.Machine.execCaframe s
  | .uiraise => Sys2Proof.Machine.execUiraise s
  | .stallstClear => Sys2Proof.Machine.execStallstClear s
  | .ctxerrClear => Sys2Proof.Machine.execCtxerrClear s
  | .lrefuseClear => Sys2Proof.Machine.execLrefuseClear s
  | .mfreezeFreeze => Sys2Proof.Machine.execMfreezeFreeze s
  | .mfreezeDiscard => Sys2Proof.Machine.execMfreezeDiscard s
  | .xpcWrite => Sys2Proof.Machine.execXpcWrite s
  | .fqheadAdvance => Sys2Proof.Machine.execFqheadAdvance s
  | .poolTake64k => Sys2Proof.Machine.execPoolTake64k s
  | .poolTake2m => Sys2Proof.Machine.execPoolTake2m s
  | .poolTake1g => Sys2Proof.Machine.execPoolTake1g s
  | .plango => Sys2Proof.Machine.execPlango s
  | .portRetrain => Sys2Proof.Machine.execPortRetrain s
  | .portRearm => Sys2Proof.Machine.execPortRearm s
  | .portstClear => Sys2Proof.Machine.execPortstClear s
  | .memerrClear => Sys2Proof.Machine.execMemerrClear s
  | .ctxderrClear => Sys2Proof.Machine.execCtxderrClear s
  | .trustWriteRefused => Sys2Proof.Machine.execTrustWriteRefused s
  | .registerWrite => Sys2Proof.Machine.execRegisterWrite s
  | .contextCreate => Sys2Proof.Machine.execContextCreate s
  | .partitionRangesSet => Sys2Proof.Machine.execPartitionRangesSet s
  | .supervisorHartAccess => Sys2Proof.Machine.execSupervisorHartAccess s
  | .portRetrained => Sys2Proof.Machine.execPortRetrained s

end Sys2Proof.Machine
end

