-- ==== Sys2Proof/Machine/Auto.lean ====
section
/-! DEFINITION. The events of the machine whose conditions hold, in the order in which the model takes them when no choice is
given (assumption log 1): each is an operation or event of the table and the object it is about. -/

namespace Sys2Proof.Machine

/-- An event and its object. -/
abbrev Due := Instr × Arg

/-- The event of a request, when one is due. -/
def State.reqDue (s : State) (r : Req) : Option Due :=
  match r.st with
  | .needWalk => if r.translated then some (.pageWalk, .num r.id) else none
  | .done _ _ => if (s.landReq r).isSome then some (.completion, .num r.id) else none
  | .failed _ _ _ | .routed => if s.canPark r then some (.park, .num r.id) else none
  | .mapped _ _ _ =>
    if s.mayGo r then some ((if r.inserts then .caInsert else if r.atSlice then .homeSliceAtomic else .completion), .num r.id)
    else if s.canPark r then some (.park, .num r.id)
    else none

/-- The landing of a copy whose bytes are all there. -/
def State.copyDue (s : State) (x : Copy) : Option Due :=
  if x.left = 0 && (s.landCopy x 0).isSome then some (.copyLanding, .num2 x.id 0) else none

/-- Whether a page-in can move on. -/
def State.pageInDue (s : State) (j : Job) : Bool :=
  j.left == 0 && (j.frame.isSome || (!s.pageOwed j && s.engineFree && (!s.stillFar j || !(FMap.get [] s.pools (poolList 0 j.size)).isEmpty)))

/-- The step of a job, when one is due. -/
def State.jobDue (s : State) (j : Job) : Option Due :=
  match j.kind with
  | .pageIn => if s.pageInDue j then some (.pageInJob, .num j.id) else none
  | k =>
    if (j.phase == 0 && s.jobStarts j) || (j.phase != 0 && j.left == 0) then
      some ((if k = .tree then .cacopyJob else .bulkCopyJob), .num j.id)
    else none

/-- The window access of a hart that has waited and need wait no longer (R295). -/
def State.hartDue (s : State) (core : Nat) (h : Hart) : Option Due :=
  match h.pending with
  | some _ => if ((s.hartRun core).hart core).pending.isNone then some (.supervisorHartAccess, .hart core) else none
  | none => none

/-- The events of memory: requests, copies, jobs, fault records, reclaims, scrubbing, ports and inbound timeouts. -/
def State.memoryDue (s : State) : List Due :=
  s.reqs.filterMap s.reqDue ++ s.copies.filterMap s.copyDue ++ s.jobs.filterMap s.jobDue ++
    (s.parts.filterMap fun e => if !e.2.faults.isEmpty && e.2.queueRoom then some (Instr.faultRecordPost, Arg.num e.1) else none) ++
    (s.parts.filterMap fun e => if !e.2.dying.isEmpty then some (Instr.lovageReclaim, Arg.num e.1) else none) ++
    (if s.savory.isEmpty then [] else [(.savoryScrub, .flag true)]) ++
    (s.ports.filterMap fun e => if !e.2.relaxed.isEmpty && e.2.state == 0 then some (Instr.relaxedFlushAck, Arg.num e.1) else none) ++
    (s.parked.filterMap fun p =>
      if p.req.inbound && decide (p.since + inboundLimit ≤ s.ns) then some (Instr.inboundTimeout, Arg.num p.req.id) else none) ++
    s.cores.filterMap fun e => s.hartDue e.1 e.2.hart

/-- The events of a group: a merge, a pop, a user interrupt, the end of a YIELD. -/
def State.groupDue (s : State) (g : GroupAt) : List Due :=
  let gr := s.group g
  (s.merges g).map (fun (i, j) => (.splitMerge, .splits g i j)) ++
    (if (s.popsNow g).isSome then [(.stackPop, .group g)] else []) ++
    ((s.interruptee g).toList.map fun k => (.userInterruptDelivery, .split g k)) ++
    (gr.liveSplits.filterMap fun e => match e.2.yield with
      | some (_, _, stop) => if stop ≤ s.coreCk g.core then some (Instr.yieldTimeout, Arg.split g e.1) else none
      | none => none)

/-- The events of the groups of a core, which come before its turns (R28, R31, R189, R309). -/
def State.groupsDue (s : State) (core : Nat) (c : Core) : List Due :=
  c.act.flatMap fun e => if e.2.live then (e.2.groups.filter fun g => g.2.live).flatMap fun g => s.groupDue { core := core, block := e.1, ix := g.1 } else []

/-- The events of the groups and barriers of a block, and its retirement. -/
def State.blockDue (s : State) (core b : Nat) (bl : Block) : List Due :=
  if !bl.live then []
  else
    ((bl.groups.filter fun e => e.2.live).flatMap fun e => s.groupDue { core := core, block := b, ix := e.1 }) ++
      (if s.phaseDone (.block core b) then [(.barrierPhaseComplete, .barrier (.block core b))] else []) ++
      (if s.canRetire core b then [(.blockRetire, .num2 core b)] else [])

/-- Whether an op binds an entry now (R226). -/
def State.bindsNow (s : State) (core : Nat) (o : QOp) : Bool :=
  let c := s.core core
  !s.fifosAway core (c.block o.block).part &&
    (match (c.bindA o).op? o.id with
     | some o1 => (o.a.isNone && o1.a.isSome) || (o1.b.isNone && (match ((c.bindA o).bindB (s.coreCk core) o1).op? o.id with
       | some o2 => o2.b.isSome
       | none => false))
     | none => false)

/-- The events of a core's matrix array. -/
def State.arrayDue (s : State) (core : Nat) (c : Core) : List Due :=
  (match c.pass with
   | some p => if p.stop ≤ s.coreCk core then [(.passPromote, .num core)] else []
   | none => []) ++
    (c.mq.filterMap fun o => if s.bindsNow core o then some (Instr.quarterBind, Arg.num2 core o.id) else none) ++
    (if s.issueCycle core && c.canStart (s.coreCk core) && !(c.form.any fun o => s.fifosAway core (c.block o.block).part) then [(.passStart, .num core)] else [])

/-- The events of a core: those of its blocks and its array, and swaps, spills and loads. -/
def State.coreDue (s : State) (core : Nat) (c : Core) : List Due :=
  (c.act.flatMap fun e => s.blockDue core e.1 e.2) ++ s.arrayDue core c ++
    ((c.preempt.filter (s.canSwap core)).map fun x => (.preemptSwap, .num2 core x)) ++
    (((bankContexts c.sha).filter (s.canSpill core)).map fun x => (.spill, .num2 core x)) ++
    (((bankContexts c.sha).filter (s.canStage core)).map fun x => (.stagedSwap, .num2 core x))

/-- The events of a context: takes, reports, and loads of what it has saved. -/
def State.ctxDue (s : State) (n : Nat) (x : Ctx) : List Due :=
  (((List.range 4).filter (s.canTake n)).map fun p => (.launchTake, .num2 n p)) ++
    (if s.stalls n then [(.stallReport, .num n)] else []) ++ (if s.hangs n then [(.hangReport, .num n)] else []) ++
    ((((x.image.getD []).map (·.core)).filter fun c => s.canLoad c n).map fun c => (.restoreLoad, .num2 c n))

/-- The events of the dispatcher: grids that retire, gang barriers, placements, and what contexts and cores have due. -/
def State.dispatchDue (s : State) : List Due :=
  (s.cores.flatMap fun e => s.coreDue e.1 e.2) ++
    (s.grids.filterMap fun e => if s.gridDone e.1 then some (Instr.gridRetire, Arg.num e.1) else none) ++
    (s.gangs.filterMap fun e => if s.phaseDone (.gang e.1) then some (Instr.barrierPhaseComplete, Arg.barrier (.gang e.1)) else none) ++
    (s.ctxs.flatMap fun e => s.ctxDue e.1 e.2) ++
    (s.parts.filterMap fun e => (s.nextPlacement e.1).map fun x => (Instr.gangPlace, Arg.places x.1 x.2)) ++
    (s.switching.take 1).map fun i => (.clockIslandSwitch, .island i)

/-- The events that are due. -/
def State.due (s : State) : List Due := s.memoryDue ++ s.dispatchDue

end Sys2Proof.Machine
end

