-- ==== Sys2Proof/Machine/Blocked.lean ====
section
/-! DEFINITION. Which groups are blocked, and what waits for a parked request (spec/02_execution.md R65; spec/16_parking.md R283;
spec/18 R317). -/

namespace Sys2Proof.Machine

/-- Whether a wait is one of those in which a group is blocked (R65). -/
def Wait.blocks : Wait → Bool
  | .qpush | .qpop | .bar | .barw | .gbar | .ldfe | .event | .rdv | .acwait | .bcwait | .fork | .copy | .launch
  | .matrixFull | .tile => true
  | _ => false

/-- The requests that can be performed only once a parked one has been (R65, R283): those that are parked, those that wait for a place in the
ring of their partition, and those that the order of their party holds behind such a one (R102, R104, R108, R280). -/
def State.stuckReqs (s : State) : List Req :=
  s.reqs.foldl (fun l r =>
    let t : State := { s with reqs := l, parked := [], copies := [], ports := [] }
    if !r.performed && ((s.toSorrel r && s.ringFull r.part) || t.arrivalHolds r || !({ t with cores := [] } : State).orderFree r) then l ++ [r] else l)
    (s.parked.map (·.req))

/-- Whether such a request is one of a copy, a job or a fetch. -/
def State.partStuck (s : State) (l : Land) : Bool := s.stuckReqs.any fun r => r.land == l

/-- The value of a register in the lowest lane that a waiting instruction acts in. -/
def Split.operand (p : Split) (pre : Pre) (f : BitVec 7) : Nat :=
  match p.snap with
  | some r => ((lowest (activeOf r p.mask pre)).map fun l => (r.lane f l).toNat).getD 0
  | none => 0

/-- The tiles that an instruction names, other than a quarter op (R223). -/
def tilesNamed : Instr → List Nat
  | .aclr _ w => (List.range (w.a.toNat + 1)).map (· + w.d.toNat)
  | .amov _ w => [w.d.toNat, w.a.toNat]
  | .amovGet _ w | .bndrd _ w | .bndrdK _ w => [w.a.toNat]
  | .amovPut _ w | .bndwr _ w => [w.d.toNat]
  | .bndthr _ w => [w.d.toNat]
  | .bndchk _ w => [w.d.toNat]
  | .adrain _ w | .afill _ w | .ast _ w | .astI _ w => [w.d.toNat]
  | .astW _ w => [w.d.toNat, w.d.toNat + 4]
  | _ => []

/-- Whether an entry of a FIFO of a block waits for a line of its copy that is stuck. -/
def State.entryStuck (s : State) (core block f e : Nat) : Bool :=
  s.copies.any fun x => x.core == core && x.block == block && x.kind == .fifo f e && s.partStuck (.copy x.id)

/-- Whether an op has yet to bind an entry of a FIFO. -/
def QOp.toBind (o : QOp) (f : Nat) : Bool := (o.a.isNone && o.fa == f) || (o.b.isNone && o.fb == f)

/-- The ops of a core that bind their entries only once a parked request has been performed (R226), in issue order: the entry at the bind
position is stuck, or an op before it at a FIFO where it has yet to bind is such a one. -/
def State.bindStuck (s : State) (core : Nat) : List QOp :=
  let c := s.core core
  c.mq.foldl (fun l o =>
    let behind := l.any fun q => q.block == o.block && ((o.a.isNone && q.toBind o.fa) || (o.b.isNone && q.toBind o.fb))
    let at_ := o.b.isNone && (((c.block o.block).stream o.fb).find? fun e => !e.past).any fun e => s.entryStuck core o.block o.fb e.id
    if behind || at_ then l ++ [o] else l) []

/-- Whether a landing in a tile of a group is stuck. -/
def State.tileStuck (s : State) (core block ix n : Nat) : Bool :=
  s.stuckReqs.any fun r => r.party == .group core block ix && (match r.land with
    | .regs _ _ _ _ dst _ _ _ _ => dst.contains (some (.tile n))
    | _ => false)

/-- The ops of a core that are promoted only once a parked request has been performed (R223, R226, R227), in issue order: an entry, a
landing of its tile, or an op of its group before it that names its tile is stuck. -/
def State.opsStuck (s : State) (core : Nat) : List QOp :=
  let bs := s.bindStuck core
  (s.core core).mq.foldl (fun l o =>
    if !o.begun && (bs.contains o || (o.a.any fun e => s.entryStuck core o.block o.fa e) || (o.b.any fun e => s.entryStuck core o.block o.fb e) ||
        (o.tiles.any fun n => s.tileStuck core o.block o.group n) ||
        l.any fun q => q.block == o.block && q.group == o.group && q.tiles.any o.tiles.contains) then l ++ [o] else l) []

/-- The entries of a FIFO of a block that retire only once a parked request has been performed (R226, R227): their own copy or an op that
has bound them is stuck, or an entry before them, which no op can bind, keeps them from being bound as B entries. -/
def State.entriesStuck (s : State) (core block f : Nat) : List FifoEntry :=
  let ops := (s.opsStuck core).filter fun o => o.block == block
  (((s.core core).block block).stream f).foldl (fun (acc : List FifoEntry × Bool) e =>
    let own := s.entryStuck core block f e.id
    let held := ops.any fun o => (o.fa == f && o.a == some e.id) || (o.fb == f && o.b == some e.id)
    (if own || held || (acc.2 && e.isB && !e.past) then acc.1 ++ [e] else acc.1, acc.2 || (own && !e.past))) ([], false) |>.1

/-- The granules that a waiting LDFE awaits (R208): core, block and granule of those that are empty, in the lanes that have taken no
step. -/
def State.ldfeAwaits (s : State) (w : Who) : List (Nat × Nat × Nat) :=
  let p := s.sp w
  let awaits (q : Pre) (m : MWord) : List (Nat × Nat × Nat) :=
    match p.snap with
    | none => []
    | some r =>
      let size := tySize q.ty
      let ts : Targets := (lanesOf (activeOf r p.mask q)).map fun l => (l, s.target w (r.rcd m.k) (r.lane m.x l) m.e size)
      ts.pads.flatMap fun (c, b, all) =>
        ((padGranules (all.filter fun e => !p.got.getLsbD e.1) size).filter fun g => !(s.block c b).full g).map fun g => (c, b, g)
  match p.waitsIn with
  | some (.ldfeKeep q m) => awaits q m
  | some (.ldfeClr q m) => awaits q m
  | _ => []

/-- Whether a copy that is stuck will set a granule full (R246, R250). -/
def State.granuleStuck (s : State) (core block g : Nat) : Bool :=
  s.copies.any fun x => s.partStuck (.copy x.id) && (match x.kind with
    | .scratch dst true ts => ts.contains (core, block) && (granules dst x.size).contains g
    | _ => false)

/-- Whether an LDFE in which an issuer waits is stuck (R208). -/
def State.ldfeStuck (s : State) (w : Who) : Bool :=
  (s.sp w).wait == some .ldfe && (s.ldfeAwaits w).any fun (c, b, g) => s.granuleStuck c b g

/-- Whether an ACOPY or MFILL that is not ready waits for a parked request (R247, R248): the copies that are stuck leave it too few of the 256
slots, or the entries that are stuck leave it no room in its FIFO or in the pool of its partition. -/
def State.copyStuck (s : State) (w : Who) (i : Instr) : Bool :=
  let copies := (s.copies.filter fun x => !x.isWalk && x.core == w.core && s.partStuck (.copy x.id)).length
  let lanes (q : Pre) : Nat := (lanesOf (activeOf (s.rf w) (s.sp w).mask q)).length
  let part := (s.blk w).part
  let pool : Nat := (((s.core w.core).act.filter fun b => b.2.live && b.2.part == part).flatMap fun b =>
    b.2.fifos.flatMap fun q => (s.entriesStuck w.core b.1 q.1).map (·.size)).sum
  let room (isB : Bool) (m : MWord) : Bool :=
    let ty := recFormat ((s.rf w).rcd m.k)
    decide (4 ≤ (s.entriesStuck w.core w.block (m.d.setWidth 5).toNat).length) ||
      decide (8192 * (s.part part).ranges.fifos < pool + (entryShape isB ty).1 * rowBytesOf isB ty)
  match i with
  | .acopy q _ => decide (256 < copies + lanes q)
  | .mfill q _ => decide (256 < copies + lanes q)
  | .acopyA _ m => decide (256 < copies + 1) || room false m
  | .acopyB _ m => decide (256 < copies + 1) || room true m
  | _ => false

/-- The instruction that an issuer has yet to issue. -/
def State.nextOf (s : State) (w : Who) : Option Instr :=
  match s.fetched w with
  | .ok i _ _ => some i
  | _ => none

/-- Whether the end of a thread waits for a parked request (R58, R245): the fetch of its next instruction, the instruction in which it waits, or
a line of a copy that it has issued. -/
def State.threadStuck (s : State) (core block t : Nat) : Bool :=
  let w : Who := .thread core block t
  s.partStuck (.fetch w) || s.ldfeStuck w || ((s.sp w).wait == some .copy && (s.nextOf w).any (s.copyStuck w)) ||
    s.copies.any fun x => x.party == .thread core block t && s.partStuck (.copy x.id)

/-- The handles that a waiting RDV names (R245). -/
def State.rdvAwaits (s : State) (core block ix : Nat) (p : Split) : List Word :=
  match p.waitsIn with
  | some (.rdv q w) => [BitVec.ofNat 32 (p.operand q w.a)]
  | some (.rdvAll _ _) => (s.group ⟨core, block, ix⟩).forks
  | _ => []

/-- Whether a group that has arrived at a barrier has an access that its arrival releases and that is stuck (R108, R217): a request, a line of a
walk, or an LDFE. -/
def State.arrivalStuck (s : State) (core block : Nat) (e : Nat × Group) (phase : Nat) (arr : Option Nat) (before : Nat) : Bool :=
  let party : Party := .group core block e.1
  arr == some phase &&
    ((s.stuckReqs.any fun r => r.party == party && r.cls == 0 && decide (r.seq < before)) ||
      (s.copies.any fun x => x.isWalk && x.party == party && decide (x.id < before) && s.partStuck (.copy x.id)) ||
      e.2.liveSplits.any fun p => (p.2.accessing.any fun a => decide (a.1 < before)) && s.ldfeStuck (.split ⟨core, block, e.1⟩ p.1))

/-- The quarters of an instruction of the matrix family in which an issuer has an active lane (R224). -/
def State.quarters (s : State) (w : Who) (i : Instr) : Nat :=
  ((List.range 4).filter fun q => (activeOf (s.rf w) (s.sp w).mask (preOf i)).extractLsb' (8 * q) 8 != 0).length

/-- Whether the wait of a split can end only once a parked request has been performed (R65, R283): that of the copy, job, granule, thread,
entry, tile or access that its instruction waits for. -/
def State.parkedBehind (s : State) (core block ix sid : Nat) (p : Split) : Bool :=
  let w : Who := .split ⟨core, block, ix⟩ sid
  let bl := s.block core block
  let party : Party := .group core block ix
  match p.wait with
  | some .acwait =>
    let n := (s.copies.filter fun x => !x.isWalk && x.party == party && s.partStuck (.copy x.id)).length
    (match p.waitsIn with
     | some (.acwait q m) => decide (p.operand q m.a < n)
     | _ => false)
  | some .bcwait =>
    (match p.waitsIn with
     | some (.bcwait q m) => s.jobs.any fun j =>
         j.kind != .pageIn && j.party == party && decide (j.handle ≤ p.operand q m.a) && s.partStuck (.job j.id)
     | _ => false)
  | some .event => s.jobs.any fun j => j.ctx == bl.ctx && (j.ev.any fun b => p.walks == some b) && s.partStuck (.job j.id)
  | some .ldfe => s.ldfeStuck w
  | some .rdv => (s.rdvAwaits core block ix p).any fun h => (bl.threadOf h).any fun t => s.threadStuck core block t
  | some .bar | some .barw => bl.groups.any fun e => s.arrivalStuck core block e bl.phase e.2.arrB e.2.arrBAt
  | some .gbar => (s.gang bl.gang).blocks.any fun b =>
      (s.block b.1 b.2).groups.any fun e => s.arrivalStuck b.1 b.2 e (s.gang bl.gang).phase e.2.arrG e.2.arrGAt
  | some .copy => (s.nextOf w).any (s.copyStuck w)
  | some .fork =>
    let live := (s.core core).act.flatMap fun b => (b.2.threads.filter fun t => t.2.live).map fun t => (b.1, t.1)
    decide (8 ≤ live.length) && live.all fun t => s.threadStuck core t.1 t.2
  | some .matrixFull => (s.nextOf w).any fun i => decide (64 < (s.opsStuck core).length + s.quarters w i)
  | some .tile => !(s.group ⟨core, block, ix⟩).freeze && (s.nextOf w).any fun i =>
      (s.opsStuck core).any fun o => o.block == block && o.group == ix && o.tiles.any (tilesNamed i).contains
  | _ => false

/-- Whether a group is blocked (R65). -/
def State.blocked (s : State) (core block ix : Nat) (g : Group) : Bool :=
  g.liveSplits.all fun e => e.2.wait.any Wait.blocks && !s.parkedBehind core block ix e.1 e.2

/-- Whether every resident group of a context is blocked (R65, R317). That a context without a resident group does not count as
one whose groups are all blocked is the model's choice (assumption log 70). -/
def State.allBlocked (s : State) (ctx : Nat) : Bool :=
  let gs := s.groupsOf ctx
  !gs.isEmpty && gs.all fun (c, b, i, g) => s.blocked c b i g

end Sys2Proof.Machine
end

