-- ==== Sys2Proof/Machine/Issue.lean ====
section
/-! DEFINITION. What moves next (spec/02_execution.md R46, R49, R57, R59, R65; spec/04 R83; spec/16 R278; spec/21 R357): a choice
that the agenda gives, or, when it gives none, an event that is due, the next split or feed thread that issues, or the end of
the cycle (assumption log 1). -/

namespace Sys2Proof.Machine

/-- What comes next: an instruction or event runs in a state, the turns of a cycle are lined up, or the state moves on with an
answer. -/
inductive Plan where
  | run (i : Instr) (s : State)
  | lineUp (s : State)
  | done (o : Answer)

/-- Whether an instruction of the table is an operation or event that nobody issues. -/
def isEvent (i : Instr) : Bool := (shapeOf i).fam == .event

/-- Whether the fetch of a word for an issuer is on its way or parked. -/
def State.fetching (s : State) (w : Who) (va : DWord) : Bool :=
  let is (r : Req) : Bool := r.land == .fetch w && r.va + BitVec.ofNat 64 ((r.pieces.headD ⟨0, 0, 0, 0⟩).off) == va
  s.reqs.any is || s.parked.any fun p => is p.req

/-- The request of a fetch (R278, R282): of the core, for one word. -/
def State.fetchReq (s : State) (w : Who) (va : DWord) : Req :=
  let bl := s.blk w
  let o := va.toNat % 128
  { id := 0, ctx := bl.ctx, part := bl.part, party := .job 0, core := w.core, gslot := s.gslotOf w, feed := w.isThread, grid := bl.grid,
    cls := 0, instr := s.issues, held := false, kind := .fetch, space := .global, va := va - BitVec.ofNat 64 o, root := 0, extent := 0,
    order := 0, scope := 2, st := .needWalk, pieces := [{ lane := 0, off := o, n := 4, first := 0 }], land := .fetch w, gen := 0, policy := 0,
    uses := 0 }

/-- An issuer waits for the fetch of a word (R278). -/
def State.awaitFetch (s : State) (w : Who) (va : DWord) : State :=
  let t := s.setSp w { s.sp w with wait := some .fetch, tried := true }
  if s.fetching w va then t else t.send [s.fetchReq w va]

/-- The active lanes of a word that is no instruction (R157, R302). -/
def State.lanesAt (s : State) (w : Who) (first : Word) : Mask :=
  activeOf (s.rf w) (s.sp w).mask (if isPrefixWord first then some (Prefix.ofBits first) else none)

/-- The turn of an issuer (R49, R56, R83, R167, R278): a waiting queue instruction or LDFE tries again, its instruction runs, it
takes the illegal-instruction trap, or it waits for a word. -/
def State.turn (s : State) (w : Who) : Plan :=
  match (s.sp w).wait with
  | some .qpush | some .qpop => .run .queueRetry { s with arg := .who w }
  | some .ldfe => .run .ldfeRetry { s with arg := .who w }
  | _ =>
    match s.fetched w with
    | .ok i v n => .run i (s.hand w i v n)
    | .illegal v => .done ({ s with cur := w, iword := v, iinstr := v, ilen := 4 }.trap 1 v (s.lanesAt w v) (s.sp w).pc)
    | .wait va => .done (.next (s.awaitFetch w va))

/-- Whether an issuer stands in a wait of an instruction that is not ready. -/
def State.unreadyNow (s : State) (w : Who) : Bool := s.lives w && (s.sp w).wait.any fun x => !x.blocking

/-- What the turn of an issuer would do at the start of the cycle: where its instruction is not ready, the state in which that is
noted; `ex` is what instructions do (R49). -/
def State.tryTurn (ex : Instr → State → Answer) (s : State) (w : Who) : Option State :=
  let out := match s.turn w with
    | .run i t => ex i t
    | .done o => o
    | .lineUp t => .next t
  match out with
  | .next u => if u.unreadyNow w then some u else none
  | _ => none

/-- The issuers among some that are ready, with the waits of the others noted (R49). -/
def State.readyOf (ex : Instr → State → Answer) (s : State) (ws : List Who) : State × List Who :=
  ws.foldl (fun (t, ok) w => match t.tryTurn ex w with
    | some u => (u, ok)
    | none => (t, ok ++ [w])) (s, [])

/-- Whether the instruction of an issuer goes through the gang window (R84); the entry of an ACOPY into a FIFO takes its place as it
issues, with those of the other groups (R247). -/
def State.viaGang (s : State) (w : Who) : Bool :=
  match s.fetched w with
  | .ok i _ _ =>
    let r := ((s.sp w).snap.filter fun _ => s.resuming w).getD (s.rf w)
    (match i with
     | .acopyA _ _ | .acopyB _ _ => false
     | _ => true) && (classOf i).isSome && (shapeOf i).krd.any fun k => recSpace (r.rcd k) == .gang
  | _ => false

/-- The splits whose readiness decides where a user interrupt goes (R309): those of the groups with a line that is pending and enabled,
before the turns of a cycle. -/
def State.asked (s : State) : List Who :=
  if s.lined then []
  else s.cores.flatMap fun (c, co) => co.act.flatMap fun (b, bl) =>
    if bl.live then
      (bl.groups.filter fun g => g.2.live && g.2.lines != 0).flatMap fun g => g.2.liveSplits.map fun e => Who.split ⟨c, b, g.1⟩ e.1
    else []

/-- An issuer whose instruction has yet to issue, with what it waits for now noted (R49). -/
def State.noteReady (ex : Instr → State → Answer) (s : State) (w : Who) : State :=
  if s.resuming w then s
  else s.setSp w { s.sp w with wait := (s.tryTurn ex w).bind fun u => (u.sp w).wait }

/-- The state in which a step is chosen: the waits that decide where a user interrupt goes are those of now (R49, R309). -/
def State.noted (ex : Instr → State → Answer) (s : State) : State := s.asked.foldl (State.noteReady ex) s

/-- The turns of a core in a cycle (R49, R56, R57, R83, R84): of each issue slot the first ready split of its order, with the
splits that try again, by group slot and split position; then the feed threads that try again and the one that issues. Those
through the gang window come last, as landings of the next cycle. -/
def State.lineCore (ex : Instr → State → Answer) (s : State) (core : Nat) : State :=
  let slots := (List.range 4).map fun k => ((s.turns core k).map fun c => Who.split c.g c.sid).partition s.resuming
  let again := slots.flatMap (·.1)
  let (s1, firsts, ready) := slots.foldl (fun (t, a, r) x =>
    let (u, ok) := t.readyOf ex x.2
    (u, a ++ ok.take 1, r ++ ok)) (s, [], [])
  let (fAgain, fNew) := (s.feedTurns core).partition s.resuming
  let (s2, fOk) := s1.readyOf ex fNew
  let go := again ++ (if s.issueCycle core then firsts else [])
  let all := (sortBy (fun x y => decide (4 * x.slot + x.sp.pos ≤ 4 * y.slot + y.sp.pos)) ((List.range 4).flatMap (s.onSlot core))).map fun c => Who.split c.g c.sid
  let line := all.filter go.contains ++ fAgain ++ (if s.issueCycle core then fOk.take 1 else [])
  let (late, first) := line.partition s.viaGang
  s2.setCore core { s2.core core with line := first, late := late, ready := ready }

/-- The turns of every core that has a cycle now are lined up (R24, R49). -/
def State.lineUp (ex : Instr → State → Answer) (s : State) : State :=
  { ((s.cores.filter fun e => !e.2.sits).map (·.1)).foldl (State.lineCore ex) s with lined := true }

/-- A turn of an issuer that stood in a line: it passes when the issuer is gone or has had it. -/
def State.takeTurn (s : State) (w : Who) : Plan := if s.lives w && !(s.sp w).tried then s.turn w else .done (.next s)

/-- Whether every core has had its turns but for those through the gang window. -/
def State.lateNow (s : State) : Bool := s.cores.all fun e => e.2.line.isEmpty

/-- Whether the turns through the gang window of every core before one are over: they land in ascending core id (R93). -/
def State.lateBefore (s : State) (core : Nat) : Bool := s.cores.all fun e => decide (core ≤ e.1) || e.2.late.isEmpty

/-- The next turn of a core: none while it has none, or has to wait with it for other cores (R84, R93). -/
def State.turnOf (s : State) (core : Nat) : Option Plan :=
  let c := s.core core
  match c.line, c.late with
  | w :: rest, _ => some ((s.setCore core { c with line := rest }).takeTurn w)
  | [], w :: rest => if s.lateNow && s.lateBefore core then some ((s.setCore core { c with late := rest }).takeTurn w) else none
  | [], [] => none

/-- The event vector at the end of a cycle (R46): the clears of the cycle, then its sets. -/
def Ctx.nextEv (x : Ctx) : BitVec 256 := (x.ev &&& ~~~x.evClear) ||| x.evSet

/-- A split at the end of a cycle: its next turn comes, and the bit that it waits for may be set (R221). -/
def Split.endCycle (p : Split) (ev : BitVec 256) : Split :=
  let w := match p.wait, p.walks with
    | some .event, some n => if n < 256 ∧ ev.getLsbD n = true then some 256 else some n
    | _, w => w
  { p with tried := false, walks := w }

/-- A block at the end of a cycle. -/
def Block.endCycle (b : Block) (ev : BitVec 256) : Block :=
  { b with
    groups := b.groups.map fun e => (e.1, { e.2 with splits := e.2.splits.map fun p => (p.1, p.2.endCycle ev), popped := false })
    threads := b.threads.map fun e => (e.1, { e.2 with sp := e.2.sp.endCycle ev }) }

/-- Whether a context counts a ck in this cycle (R5, R65, R317): the slowest core that holds a block of it runs one (assumption log 7). -/
def State.ctxRuns (s : State) (ctx : Nat) : Bool :=
  match sortBy (fun x y => decide (x.khz ≤ y.khz)) ((s.cores.map (·.2)).filter (·.holds ctx)) with
  | c :: _ => !c.sits
  | [] => true

/-- A context at the end of a cycle (R46, R65, R317): the count of ck begins again when what the context has yet to have
placed begins or ceases to be. -/
def State.ctxEndCycle (s : State) (n : Nat) (x : Ctx) : Ctx :=
  let owes := s.undispatched n
  { x with ev := x.nextEv, evClear := 0, evSet := 0, owes := owes,
           idle := if s.allBlocked n then (if owes = x.owes then x.idle else 0) + (s.ctxRuns n).toNat else 0 }

/-- The fastest arithmetic clock of a core, in kHz: one ck of the model is a cycle of it (R5, R24; assumption log 22). A core that is
not listed runs at the clock of the reset plan. -/
def State.topKhz (s : State) : Nat := s.cores.foldl (fun m e => max m e.2.khz) (if s.cores.length < 512 then Core.reset.khz else 1)

/-- The length of a cycle of the fastest core in ns as a fraction (R5, R22), with spread spectrum on `down` millionths below the plan,
at most 5,000. -/
def State.period (s : State) (down : Nat) : Nat × Nat :=
  (10 ^ 12, max 1 (s.topKhz * (10 ^ 6 - if s.ssc then min down 5000 else 0)))

/-- A core at the end of a ck (R5, R24): its island counts the next one when it has run a whole cycle of its own clock by then, and
else sits it out. -/
def Core.clocked (c : Core) (top : Nat) : Core :=
  if c.phase + c.khz < top then { c with phase := c.phase + c.khz, behind := c.behind + 1, sits := true }
  else { c with phase := (c.phase + c.khz - top) % max 1 top, sits := false }

/-- The time after a cycle: whole ns and the rest, in lowest terms. -/
def State.elapse (s : State) (down : Nat) : Nat × Nat × Nat :=
  let (n, d) := s.period down
  let num := s.frac.1 * d + n * s.frac.2
  let den := s.frac.2 * d
  let r := num % den
  (s.ns + num / den, r / Nat.gcd r den, den / Nat.gcd r den)

/-- The end of a cycle (R5, R46, R49, R59, R65, R93, R318). -/
def State.tick (s : State) (down : Nat) : State :=
  let core (c : Core) : Core :=
    { c.clocked s.topKhz with line := [], late := [], ready := [], act := c.act.map fun e => (e.1, e.2.endCycle (s.ctx e.2.ctx).nextEv) }
  let (ns, frac) := s.elapse down
  let t : State := { s with
    ck := s.ck + 1
    ns := ns
    frac := frac
    lined := false
    applied := []
    ctxs := s.ctxs.map fun e => (e.1, s.ctxEndCycle e.1 e.2)
    cores := s.cores.map fun e => (e.1, core e.2) }
  t.endSwaps.killStep

/-- The beginning of the turns of a cycle: what its groups do before them comes first (R28, R31, R189, R309). -/
def State.toLine (s : State) : Plan :=
  match s.cores.flatMap fun e => s.groupsDue e.1 e.2 with
  | (i, a) :: _ => .run i { s with arg := a, cur := .nobody }
  | [] => .lineUp s

/-- The cycle goes on: its turns begin, the next of them is taken, or it ends. -/
def State.progress (s : State) : Plan :=
  if s.lined then
    match s.cores.findSome? fun e => s.turnOf e.1 with
    | some p => p
    | none => .done (.next (s.tick 0))
  else s.toLine

/-- What comes next when the agenda gives nothing: an event that is due, or the cycle goes on. -/
def State.default (s : State) : Plan :=
  if s.lined then s.progress
  else match s.due with
    | (i, a) :: _ => .run i { s with arg := a, cur := .nobody }
    | [] => s.progress

/-- Whether the turns of a cycle are over. -/
def State.cycleOver (s : State) : Bool := s.lined && s.cores.all fun e => e.2.line.isEmpty && e.2.late.isEmpty

/-- Whether an event of the table can come from outside or from the module's hardware while no firmware runs (R16, R358): the module then
answers only the sideband. -/
def bareEvent : Instr → Bool
  | .powerOnBoot | .powerRemove | .sidebandReset | .attestation | .sidebandNack | .trustWriteRefused | .thermalReset | .throttleRaise | .throttleLower
  | .linkCheckFail | .portRetrained | .portDown | .eccCorrected | .eccUncorrectable | .wsRefreshOpen | .wsRefreshClose | .savoryScrub => true
  | _ => false

/-- The register whose write an event of the table is. -/
def registerOf : Instr → Option Nat
  | .stallstClear => some 0x040
  | .caframe => some 0x052
  | .careset => some 0x053
  | .uiraise => some 0x058
  | .launchq => some 0x090
  | .fqheadAdvance => some 0x0A3
  | .redrive => some 0x0B1
  | .xpcWrite => some 0x0D3
  | .mfreezeFreeze | .mfreezeDiscard => some 0x0D5
  | .killctx => some 0x0D8
  | .ctxerrClear => some 0x0DA
  | .lrefuseClear => some 0x0DC
  | .plango => some 0x0E4
  | .portRetrain | .portRearm | .portstClear => some 0x0F4
  | .memerrClear => some 0x0F8
  | .ctxderrClear => some 0x0F9
  | _ => none

/-- Whether a hart runs in a mode of at least a rank (R15), and no access of it waits (R295). -/
def State.hartAbove (s : State) (rank : Nat) : Bool :=
  s.cores.any fun e => decide (e.1 < 512) && e.2.hart.started && e.2.hart.pending.isNone && decide (rank ≤ modeRank e.2.hart.mode)

/-- Whether anyone may make a write of a register now (R15, R260, R261, R295): a hart in a mode that reaches it, none whose access waits, or
a group of a context that does. -/
def State.hasWriter (s : State) (i : Nat) : Bool :=
  (s.cores.any fun e => decide (e.1 < 512) && e.2.hart.started && e.2.hart.pending.isNone && regWritable (modeRank e.2.hart.mode) i 0) ||
    s.cores.any fun e => e.2.act.any fun b => b.2.live && regWritable (s.ctx b.2.ctx).sys.toNat i 0

/-- Whether the agents that an event of the table comes from may bring it about now (R15, R37, R39). -/
def State.hasAgent (s : State) (i : Instr) : Bool :=
  (registerOf i).all s.hasWriter &&
    (match i with
     | .contextCreate => s.hartAbove 1
     | .partitionRangesSet => s.hartAbove 2
     | _ => true)

/-- Whether an event may come now (R15, R16, R358): what firmware, the resident kernel, a context or a port does needs firmware that has been
started, and a module whose boot ROM has found no image answers only the sideband. -/
def State.admits (s : State) (i : Instr) : Bool :=
  isEvent i && (bareEvent i || s.firmware == .running || !s.ctxs.isEmpty) && s.hasAgent i

/-- What comes next in a state: the first choice of the agenda, when it can be taken now; until then the cycle goes on. -/
def State.plan (s : State) : Plan :=
  match s.agenda with
  | [] => s.default
  | c :: rest =>
    let t : State := { s with agenda := rest }
    match c with
    | .event i a =>
      if !s.admits i then .done (.next t) else if s.lined then s.progress else .run i { t with arg := a, cur := .nobody }
    | .turn core =>
      if !s.lined then s.progress
      else match t.turnOf core with
        | some p => p
        | none => if (s.core core).late.isEmpty then .done (.next t) else s.progress
    | .net => .done (.next t.netTick)
    | .tick down => if s.cycleOver then .done (.next (t.tick down)) else s.progress

end Sys2Proof.Machine
end

