-- ==== Sys2Proof/Machine/Place.lean ====
section
/-! DEFINITION. A machine in which one group issues next (assumption log 16): the group, its block and its context stand as the
dispatcher leaves them after a placement (spec/02_execution.md R27, R33, R42), and its instruction is in memory behind a
translation (R74, R168). -/

namespace Sys2Proof.Machine

/-- The address at which the placed group stands, virtual and physical. -/
def placePc : Nat := 0x10000

/-- The split of a placed group: all lanes, at the placed address (R27, R42). -/
def placeSplit : Split := { Split.empty with live := true, pc := BitVec.ofNat 64 placePc, mask := 0xFFFFFFFF }

/-- The placed group: one split, 16 rows of registers (R34). -/
def placeGroup : Group :=
  { Group.empty with live := true, rf := { RegFile.empty with units := 1 }, gen := Row.make genInit, splits := [(0, placeSplit)], nextSplit := 1 }

/-- The placed block: one group on slot 0, with a scratchpad row, tiles and FIFOs (R34). -/
def placeBlock (grid gang : Nat) : Block :=
  { Block.empty with live := true, grid := grid, gang := gang, g := 1, u := 1, sp := 1, t := 8, f := 8, groups := [(0, placeGroup)] }

/-- The translation of the placed page. -/
def placeTlb : TlbEntry :=
  { ctx := 0, va := placePc, size := 65536, pa := placePc, cls := 0, tier := 0, x := true, w := false, rd := true, d := false }

/-- The core of the placed group: the block is alone in its active bank, and its turn is next. -/
def placeCore (c : Core) (id grid gang : Nat) : Core :=
  { c with act := [(id, placeBlock grid gang)], preempt := [], swaps := [], last := [], tlb := [placeTlb],
           line := [.split { core := 0, block := id, ix := 0 } 0], late := [] }

/-- The placed group on core 0 of a module, in context 0, about to issue. -/
def State.placed (s : State) : State :=
  let n := s.nextId
  let t : State := { s with
    nextId := n + 3
    level := 0
    agenda := .turn 0 :: s.agenda
    lined := true
    poison := s.poison.filter fun e => e.1 != placePc / 128 }
  let t1 := t.setCore 0 (placeCore (t.core 0) (n + 2) n (n + 1))
  let t2 := t1.setCtx 0 { t1.ctx 0 with created := true, killed := false, res := .resident }
  let t3 := t2.setGrid n { live := true, ctx := 0, lpb := 0, next := 1, retired := 0 }
  t3.setGang (n + 1) { Gang.empty with live := true, grid := n, blocks := [(0, n + 2)], left := 1 }

/-- The same with two instruction words at the group's address. -/
def State.withWords (s : State) (v u : BitVec 32) : State :=
  let t := s.placed
  { t with mem := t.mem.writeAll (at_ placePc (wordBytes v ++ wordBytes u)) }

end Sys2Proof.Machine
end

