-- ==== Sys2Proof/Machine/Step.lean ====
section
/-! DEFINITION. One step of the machine. -/

namespace Sys2Proof.Machine

/-- One step: what comes next runs. -/
def step (s : State) : Host.Outcome State Fault Refusal :=
  match (s.noted exec).plan with
  | .run i t => exec i t
  | .lineUp t => .next (t.lineUp exec)
  | .done o => o

/-- The state with an instruction placed where the next step fetches (assumption log 16): its bits numbered as the opcode table
numbers them. -/
def State.withFetchWord (s : State) (nbits w : Nat) : State :=
  let v := w % 2 ^ nbits
  s.withWords (BitVec.ofNat 32 v) (BitVec.ofNat 32 (v / 2 ^ 32))

end Sys2Proof.Machine
end

