-- ==== Sys2Proof/Machine/Terms.lean ====
section
/-! DEFINITION. The terms in which statements about instructions are written: when an instruction may issue, the instruction
in hand as it issues, and what a state keeps when an issuer writes its own registers and nothing else. -/

namespace Sys2Proof.Machine

/-- The condition under which an instruction runs (R27, R49, R157, R201, R204, R244): its issuer exists; and it has issued and
waits, so that this turn is a retry, or it may issue: for a split, the operands are available and no fence of another split of the
group orders the instruction after itself; for a feed thread, the instruction is one that feed threads execute. -/
def State.mayIssue (s : State) (i : Instr) : Prop := s.hasIssuer = true ∧ (s.resuming s.cur = true ∨ s.readyFor i = true)

/-- The instruction in hand as its turn begins: the state after the core's account of the issue, the registers, the latches, the
mask, the active lanes and the operands. -/
def State.issued (s : State) (i : Instr) : Iss := (s.entered s.cur (shapeOf i)).inHand s.cur (preOf i) (s.sp s.cur)

/-- The registers as the instruction takes its operands from them (R201, R204, R208): those of this turn, or, for one that has issued
and waits and for an LDFE that was left after it had taken a step, those that stood when it issued. -/
def State.operands (s : State) : RegFile :=
  if s.resuming s.cur || (s.sp s.cur).got != 0 then (s.sp s.cur).snap.getD (s.rf s.cur) else s.rf s.cur

/-- The lanes that the instruction in hand acts in (R157). -/
def State.activeFor (s : State) (i : Instr) : Mask := activeOf s.operands (s.sp s.cur).mask (preOf i)

/-- The generator states of the issuer's group (R124). -/
def State.gens (s : State) : Row := (s.group (s.groupOf s.cur)).gen

/-- What a split keeps when it issues (R49): its existence, lanes, age and trap depth. -/
def Split.stays (x y : Split) : Prop := y.live = x.live ∧ y.mask = x.mask ∧ y.age = x.age ∧ y.depth = x.depth

/-- What a state keeps when an issuer changes only itself: everything but the core's account of issues and, of the issuer's
group, its registers, latches, generators and the issuing split; for a feed thread, all but the thread. In particular all
of memory, the weight store, the scratchpad, the tiles, the bound and exception registers and every context. Blocks are
compared as they read, by core and number. -/
def State.keptBut (s t : State) : Prop :=
  { t with cores := s.cores, issues := s.issues } = s ∧
  (∀ k, k ≠ s.cur.core → { t.core k with act := (s.core k).act } = s.core k ∧ ∀ b, t.block k b = s.block k b) ∧
  { t.core s.cur.core with act := (s.core s.cur.core).act, last := (s.core s.cur.core).last, feedLast := (s.core s.cur.core).feedLast } = s.core s.cur.core ∧
  (∀ b, b ≠ s.cur.block → t.block s.cur.core b = s.block s.cur.core b) ∧
  { t.blk s.cur with groups := (s.blk s.cur).groups, threads := (s.blk s.cur).threads } = s.blk s.cur ∧
  match s.cur with
  | .split g sid =>
    (∀ n, (t.blk s.cur).thread n = (s.blk s.cur).thread n) ∧
    (∀ n, n ≠ g.ix → (t.blk s.cur).group n = (s.blk s.cur).group n) ∧
    { t.group g with rf := (s.group g).rf, b := (s.group g).b, gen := (s.group g).gen, splits := (s.group g).splits, last := (s.group g).last } = s.group g ∧
    (∀ n, n ≠ sid → (t.group g).split n = (s.group g).split n) ∧
    ((s.group g).split sid).stays ((t.group g).split sid)
  | .thread _ _ n =>
    (∀ m, (t.blk s.cur).group m = (s.blk s.cur).group m) ∧
    (∀ m, m ≠ n → (t.blk s.cur).thread m = (s.blk s.cur).thread m) ∧
    { (t.blk s.cur).thread n with sp := ((s.blk s.cur).thread n).sp, rf := ((s.blk s.cur).thread n).rf } = (s.blk s.cur).thread n ∧
    ((s.blk s.cur).thread n).sp.stays ((t.blk s.cur).thread n).sp
  | .nobody => True

/-- The registers, latches and generators of the issuer stand at these values, and all else that an issuer does not change of
itself is kept. -/
def State.keepsOwn (s : State) (rf : RegFile) (b : Vector Row 4) (gen : Row) (t : State) : Prop :=
  t.rf s.cur = rf ∧ t.latches s.cur = b ∧ t.gens = gen ∧ s.keptBut t

/-- The effect of an instruction that writes registers, latches and generators of its issuer and goes to the instruction after
it: these values stand there, and everything else is kept. -/
def State.wrote (s : State) (rf : RegFile) (b : Vector Row 4) (gen : Row) (t : State) : Prop :=
  t.rf s.cur = rf ∧ t.latches s.cur = b ∧ t.gens = gen ∧ (t.sp s.cur).pc = (s.sp s.cur).pc + BitVec.ofNat 64 s.ilen ∧
  s.keptBut t

/-- The latches of the issuer as an instruction reads them: those of its group, cleared when another split of the group issued
last and the instruction issues now (R53); a feed thread has none. -/
def State.readLatches (s : State) : Vector Row 4 :=
  match s.cur with
  | .split g sid => if s.resuming s.cur = true ∨ (s.group g).last = some sid then (s.group g).b else noLatches
  | _ => noLatches

/-- The instruction is not ready (R49): nothing of the machine has changed but that the issuer waits. -/
def State.waits (s t : State) (w : Wait) : Prop :=
  (t.sp s.cur).wait = some w ∧ (t.sp s.cur).pc = (s.sp s.cur).pc ∧ s.keepsOwn (s.rf s.cur) (s.latches s.cur) s.gens t

/-- The instruction has issued and waits (R49, R201, R204): its operands are kept, and nothing of the machine has changed but the
account of the issue and that the issuer waits. -/
def State.blocks (s t : State) (w : Wait) : Prop :=
  (t.sp s.cur).wait = some w ∧ (t.sp s.cur).pc = (s.sp s.cur).pc ∧ (t.sp s.cur).snap = some s.operands ∧
    s.keepsOwn (s.rf s.cur) s.readLatches s.gens t

/-- The latch shift of R50 with a value for each active lane; a feed thread has no latches. -/
def State.shifted (s : State) (i : Instr) (v : Nat → Word) : Vector Row 4 :=
  match s.cur with
  | .split _ _ => #v[Row.make fun l => if (s.activeFor i).getLsbD l then v l else 0, s.readLatches[0], s.readLatches[1], s.readLatches[2]]
  | _ => noLatches

/-- Operand a of an R word in a lane (R153): a latch or a register. -/
def State.valA (s : State) (w : RWord) (l : Nat) : Word :=
  if w.la then (s.readLatches[(w.a.setWidth 2).toNat]'(by omega)).lane l else (s.rf s.cur).lane w.a l

/-- Operand b of an R word in a lane (R153). -/
def State.valB (s : State) (w : RWord) (l : Nat) : Word :=
  if w.lb then (s.readLatches[(w.b.setWidth 2).toNat]'(by omega)).lane l else (s.rf s.cur).lane w.b l

/-- An instruction of a latch family completes with a 32-bit result in each active lane (R50, R153, R182). -/
def State.gives32 (s : State) (i : Instr) (nw : Bool) (d : BitVec 7) (v : Nat → Word) : Prop :=
  s.mayIssue i → ∃ t, exec i s = .next t ∧
    s.wrote (if nw then s.rf s.cur else (s.rf s.cur).write d (s.activeFor i) v) (s.shifted i v) s.gens t

/-- An instruction of a latch family completes with a 64-bit result in a pair (R182). -/
def State.gives64 (s : State) (i : Instr) (nw : Bool) (d : BitVec 7) (v : Nat → DWord) : Prop :=
  s.mayIssue i → ∃ t, exec i s = .next t ∧
    s.wrote (if nw then s.rf s.cur else (s.rf s.cur).writePair d (s.activeFor i) v) (s.shifted i fun l => (v l).setWidth 32) s.gens t

/-- An instruction of a latch family completes with a predicate result (R182): it enters b0 as 1 or 0. -/
def State.givesPred (s : State) (i : Instr) (nw : Bool) (d : BitVec 7) (v : Mask) : Prop :=
  s.mayIssue i → ∃ t, exec i s = .next t ∧
    s.wrote (if nw then s.rf s.cur else (s.rf s.cur).writePred (d.setWidth 3) (s.activeFor i) v)
      (s.shifted i fun l => if v.getLsbD l then 1 else 0) s.gens t

/-- An instruction of no latch family completes: these registers stand, and the issuer goes on (R50). -/
def State.givesRegs (s : State) (i : Instr) (rf : RegFile) : Prop :=
  s.mayIssue i → ∃ t, exec i s = .next t ∧ s.wrote rf s.readLatches s.gens t

/-- An instruction with two operands and a 32-bit result (R182). -/
def GivesTwo (mk : Pre → RWord → Instr) (f : Pre → Word → Word → Word) : Prop :=
  ∀ (s : State) (p : Pre) (w : RWord), s.gives32 (mk p w) w.nw w.d fun l => f p (s.valA w l) (s.valB w l)

/-- An instruction with one operand and a 32-bit result (R182). -/
def GivesOne (mk : Pre → RWord → Instr) (f : Pre → Word → Word) : Prop :=
  ∀ (s : State) (p : Pre) (w : RWord), s.gives32 (mk p w) w.nw w.d fun l => f p (s.valA w l)

/-- An instruction with three operands, the third in the prefix, and a 32-bit result (R182). -/
def GivesThree (mk : Pre → RWord → Instr) (f : Pre → Word → Word → Word → Word) : Prop :=
  ∀ (s : State) (p : Pre) (w : RWord), s.gives32 (mk p w) w.nw w.d fun l => f p (s.valA w l) (s.valB w l) ((s.rf s.cur).lane p.c l)

/-- An instruction with an immediate and a 32-bit result (R192). -/
def GivesImm (mk : Pre → IWord → Instr) (imm : Pre → IWord → Word) (f : Word → Word → Word) : Prop :=
  ∀ (s : State) (p : Pre) (w : IWord), s.gives32 (mk p w) false w.d fun l => f ((s.rf s.cur).lane w.a l) (imm p w)

/-- The generators of the issuer's group after those of the active lanes have stepped `n` times, under .sr (R124). -/
def State.gensAfter (s : State) (i : Instr) (rm : BitVec 3) (n : Nat) : Row :=
  if rm = 4 then s.gens.merge (s.activeFor i) fun l => genNext^[n] (s.gens.lane l) else s.gens

/-- A conversion of one value in each lane completes (R236): a 64-bit result goes to a pair, and under .sr each active lane
draws one random word. -/
def State.converts (s : State) (i : Instr) (p : Pre) (w : RWord) (src : Nat) (x : Nat → DWord) : Prop :=
  let v (l : Nat) : DWord := cvt src (cvtDst p) (Rm.ofCode p.rm (genWord (s.gens.lane l))) (x l)
  s.mayIssue i → ∃ t, exec i s = .next t ∧
    s.wrote
      (if w.nw then s.rf s.cur
       else if tyRegs p.ty = 2 then (s.rf s.cur).writePair w.d (s.activeFor i) v
       else (s.rf s.cur).write w.d (s.activeFor i) fun l => (v l).setWidth 32)
      (s.shifted i fun l => (v l).setWidth 32) (s.gensAfter i p.rm 1) t

/-- A conversion from a 32-bit source (R236). -/
def ConvertsWord (mk : Pre → RWord → Instr) (src : Nat) : Prop :=
  ∀ (s : State) (p : Pre) (w : RWord), s.converts (mk p w) p w src fun l => (s.valA w l).setWidth 64

/-- Where a lane of the issuing split goes on (R183): in a split of the group, or in a divergence entry that was pushed. -/
def Group.goesTo (g : Group) (pushed : List StackEntry) (l : Nat) (pc : DWord) : Prop :=
  (∃ n, (g.split n).live = true ∧ (g.split n).mask.getLsbD l = true ∧ (g.split n).pc = pc) ∨
    ∃ e ∈ pushed, e.mask.getLsbD l = true ∧ e.pc = pc

/-- The state with what the division of a split changes put back: the splits, the stack and the core's age counter. -/
def State.undivided (s : State) (g : GroupAt) (t : State) : State :=
  let u := t.setGroup g { t.group g with splits := (s.group g).splits, nextSplit := (s.group g).nextSplit, stack := (s.group g).stack }
  u.setCore g.core { u.core g.core with age := (s.core g.core).age }

/-- The address after the instruction in hand (R182). -/
def State.fall (s : State) : DWord := (s.sp s.cur).pc + BitVec.ofNat 64 s.ilen

/-- The parts into which next addresses divide the issuing split, in the order of R183: each distinct address with its lanes; those that
leave the fall-through come first, by ascending lowest lane, and the part at the fall-through comes last. -/
def State.orderedParts (s : State) (next : Nat → DWord) (ps : List (DWord × Mask)) : Prop :=
  (∀ e ∈ ps, e.2 ≠ 0 ∧ ∀ l, e.2.getLsbD l = ((s.sp s.cur).mask.getLsbD l && next l == e.1)) ∧
  (∀ l, (s.sp s.cur).mask.getLsbD l = true → ∃ e ∈ ps, e.1 = next l) ∧
  ps.Pairwise fun x y => x.1 ≠ y.1 ∧ x.1 ≠ s.fall ∧ (y.1 ≠ s.fall → ∃ i j, lowest x.2 = some i ∧ lowest y.2 = some j ∧ i < j)

/-- The result of a control instruction (R183): the issuing split goes on with the first part, at its own age stamp; the next parts become
splits, each with the next age stamp of the core and the depth of the split, while the group has fewer than four; the rest are pushed as
divergence entries on the old stack, the first of them on top. So every lane of the split's mask goes on at its next address; no lane
from outside the mask comes in; the other splits stay; the registers are `rf`; and everything else is kept. A feed thread has one
lane. The group is taken as its split issues. -/
def State.divided (s : State) (i : Instr) (rf : RegFile) (next : Nat → DWord) (t : State) : Prop :=
  match s.cur with
  | .split g sid =>
    ∃ (ps : List (DWord × Mask)) (pushed : List StackEntry), s.orderedParts next ps ∧
      (let free := 4 - ((s.issued i).s.group g).liveSplits.length
       (∀ e, ps.head? = some e → (t.sp s.cur).pc = e.1 ∧ (t.sp s.cur).mask = e.2 ∧ (t.sp s.cur).age = (s.sp s.cur).age) ∧
       (∀ k e, (ps.drop 1)[k]? = some e → k < free → ∃ n, n ≠ sid ∧ ((s.group g).split n).live = false ∧
         ((t.group g).split n).live = true ∧ ((t.group g).split n).pc = e.1 ∧ ((t.group g).split n).mask = e.2 ∧
         ((t.group g).split n).age = (s.core g.core).age + k ∧ ((t.group g).split n).depth = (s.sp s.cur).depth) ∧
       pushed = ((ps.drop 1).drop free).map fun e => { pc := e.1, mask := e.2, trap := false }) ∧
      (t.group g).stack = pushed ++ (s.group g).stack ∧
      (∀ l, l < 32 → (s.sp s.cur).mask.getLsbD l = true → (t.group g).goesTo pushed l (next l)) ∧
      (∀ l, (s.sp s.cur).mask.getLsbD l = false → (∀ e ∈ pushed, e.mask.getLsbD l = false) ∧
        ∀ n, ((t.group g).split n).live = true → ((t.group g).split n).mask.getLsbD l = true →
          ((s.group g).split n).live = true ∧ ((s.group g).split n).mask.getLsbD l = true) ∧
      (∀ n, n ≠ sid → ((s.group g).split n).live = true → (t.group g).split n = (s.group g).split n) ∧
      s.keepsOwn rf s.readLatches s.gens (s.undivided g t)
  | _ => s.keepsOwn rf s.readLatches s.gens t ∧ (t.sp s.cur).pc = next 0

/-- Whether the parts of a division find room (R308): splits up to four, and beyond them at most 15 entries on the stack. The
group is taken as its split issues. -/
def State.hasRoom (s : State) (i : Instr) (next : Nat → DWord) : Prop :=
  match s.cur with
  | .split g _ =>
    let gr := (s.issued i).s.group g
    let k := (partsOf (s.sp s.cur).mask next).length - 1 - (4 - gr.liveSplits.length)
    k = 0 ∨ gr.stack.length + k ≤ 15
  | _ => True

/-- A control instruction completes (R183). -/
def State.branches (s : State) (i : Instr) (rf : RegFile) (next : Nat → DWord) : Prop :=
  s.mayIssue i → s.hasRoom i next → ∃ t, exec i s = .next t ∧ s.divided i rf next t

/-- The next address of each lane of a branch (R185). -/
def State.nextIf (s : State) (i : Instr) (target : DWord) (taken : Nat → Bool) (l : Nat) : DWord :=
  if (s.activeFor i).getLsbD l && taken l then target else s.fall

/-- Whether a split may enter the handler (R303, R304): no split of the group holds it back, the stack has room, and the
context has a handler. -/
def State.canTrap (s : State) (g : GroupAt) (sid : Nat) : Prop :=
  (((s.group g).split sid).depth = 0 → (s.group g).othersInHandler sid = false) ∧ (s.group g).stack.length < 16 ∧
    (s.ctx (s.block g.core g.block).ctx).handler ≠ 0

/-- Trap entry (R303), from the state in which the instruction has issued (`State.trapping`): the entry is pushed, XCAUSE, XINFO and XMASK are written, the split goes to the handler one deeper than
the trap entries below, the latches are 0, and nothing else of the machine changes, nor the other splits. -/
def State.entersTrap (s : State) (g : GroupAt) (sid cause : Nat) (info : Word) (lanes : Mask) (ret : DWord) (t : State) : Prop :=
  (t.group g).stack = { pc := ret, mask := ((s.group g).split sid).mask, trap := true, got := ((s.group g).split sid).got,
                            walks := ((s.group g).split sid).held, snap := ((s.group g).split sid).kept } :: (s.group g).stack ∧
  (t.group g).xcause = BitVec.ofNat 32 cause ∧ (t.group g).xinfo = info ∧ (t.group g).xmask = lanes ∧
  ((t.group g).split sid).pc = (s.ctx (s.block g.core g.block).ctx).handler ∧
  ((t.group g).split sid).live = ((s.group g).split sid).live ∧ ((t.group g).split sid).mask = ((s.group g).split sid).mask ∧
  ((t.group g).split sid).age = ((s.group g).split sid).age ∧
  ((t.group g).split sid).depth = trapDepth (s.group g).stack + 1 ∧
  (∀ b, b < 4 → (t.group g).b[b]? = some Row.zero) ∧
  (∀ n, n ≠ sid → (t.group g).split n = (s.group g).split n) ∧
  { t.group g with stack := (s.group g).stack, xcause := (s.group g).xcause, xinfo := (s.group g).xinfo, xmask := (s.group g).xmask,
                   b := (s.group g).b, last := (s.group g).last, splits := (s.group g).splits, uipend := (s.group g).uipend } = s.group g ∧
  { t with cores := s.cores } = s ∧
  (∀ c b, ¬(c = g.core ∧ b = g.block) → t.block c b = s.block c b) ∧ (∀ c, { t.core c with act := (s.core c).act } = s.core c) ∧
  { t.block g.core g.block with groups := (s.block g.core g.block).groups } = s.block g.core g.block ∧
  ∀ n, n ≠ g.ix → (t.block g.core g.block).group n = (s.block g.core g.block).group n

/-- A control instruction that would push k entries onto a stack of n entries, with n + k beyond 15, takes cause 5 with XINFO = k at its
own address, before any effect (R308). The group is taken as its split issues. -/
def State.overflows (s : State) (i : Instr) (next : Nat → DWord) : Prop :=
  ∀ g sid, s.cur = .split g sid → s.mayIssue i → s.canTrap g sid →
    let k := (partsOf (s.sp s.cur).mask next).length - 1 - (4 - ((s.issued i).s.group g).liveSplits.length)
    k ≠ 0 → 15 < (s.group g).stack.length + k → ∃ t, exec i s = .next t ∧
      (s.trapping g sid).entersTrap g sid 5 (BitVec.ofNat 32 k) (s.activeFor i) (s.sp s.cur).pc t

/-- The halt of a context (R307): CTXERR takes the halted bit, the slot, the core and the cause, a hung bit stays, the interrupt
is raised, and every core that holds a block of the context is asked to pre-empt it; nothing else changes. -/
def State.halted (s : State) (ctx core slot cause : Nat) (t : State) : Prop :=
  (t.ctx ctx).ctxerr = ((s.ctx ctx).ctxerr &&& 0x80000000) ||| 0x40000000 ||| BitVec.ofNat 32 (slot % 32 * 2 ^ 25) |||
    BitVec.ofNat 32 (core % 512 * 2 ^ 16) ||| BitVec.ofNat 32 (cause % 16) ∧
  { t.ctx ctx with ctxerr := (s.ctx ctx).ctxerr } = s.ctx ctx ∧ (∀ n, n ≠ ctx → t.ctx n = s.ctx n) ∧
  t.ctxIrq = true ∧ { t with ctxs := s.ctxs, ctxIrq := s.ctxIrq, cores := s.cores } = s ∧
  ∀ c, { t.core c with preempt := (s.core c).preempt } = s.core c ∧ ((s.core c).holds ctx = true → ctx ∈ (t.core c).preempt) ∧
    ∀ n, n ≠ ctx → (n ∈ (t.core c).preempt ↔ n ∈ (s.core c).preempt)

/-- The targets of the active lanes of an access (R68, R203). -/
def State.targetsOf (s : State) (i : Instr) (k : BitVec 5) (x : BitVec 7) (e : Bool) (size : Nat) : Targets :=
  (lanesOf (s.activeFor i)).map fun l => (l, s.target s.cur (s.operands.rcd k) (s.operands.lane x l) e size)

/-- An instruction whose access takes the bounds trap in some lane takes cause 2 with its record slot and the lanes that take it, at its
own address, and performs no lane (R302). -/
def State.boundsTraps (s : State) (i : Instr) (k : BitVec 5) (ts : Targets) : Prop :=
  ∀ g sid, s.cur = .split g sid → s.mayIssue i → s.canTrap g sid → (∃ x ∈ ts, x.2 = .bounds) → ∃ t, exec i s = .next t ∧
    (s.trapping g sid).entersTrap g sid 2 (k.setWidth 32) (maskOf fun l => ts.any fun x => x.1 == l && x.2 == .bounds) (s.sp s.cur).pc t

/-- The number before which the accesses lie that an instruction with a release covers (R104, R108): for one that has come to wait
for them, the number that it noted as it issued; for one that waits for something else, none are left. -/
def State.covers (s : State) : Nat :=
  match (s.sp s.cur).wait with
  | some (.fence _ _) | some (.xfence _) | some .release => (s.sp s.cur).walks.getD s.nextId
  | some w => if w.blocking then 0 else s.nextId
  | none => s.nextId

/-- Whether no acquire holds the instruction back as it issues (R104). -/
def State.acquired (s : State) : Prop := s.resuming s.cur = true ∨ s.acquireOwed s.cur = false

/-- Whether nothing is left that goes before an access to a scratchpad as it issues (R18, R104): no acquire, and for a release nothing that it
covers, at system scope in the relaxed channels too, has yet to be performed. -/
def State.padsFree (s : State) (rel : Bool) (scope : BitVec 2) (cls : Nat) : Prop :=
  s.acquired ∧ (rel = true → s.resuming s.cur = true ∨
    s.clsOwed s.cur cls s.nextId = false ∧ (scope = 3 → s.relaxedOwed s.cur.party s.nextId = false))

/-- Whether an access passes its checks at issue (R18, R104, R302): no lane takes the bounds trap or reaches for a scratchpad that
has left its bank, and what goes before scratchpad lanes has been performed. -/
def State.accessFree (s : State) (rel : Bool) (scope : BitVec 2) (ts : Targets) (cls : Nat) : Prop :=
  (∀ x ∈ ts, x.2 ≠ .bounds ∧ x.2 ≠ .away) ∧ ((∃ x ∈ ts, x.2.isScratch = true) → s.padsFree rel scope cls)

/-- Whether a full/empty instruction passes its checks at issue (R18, R104, R208, R302): no lane takes the bounds trap, and what goes before
its lanes in scratchpads, also in those that have left their banks, has been performed. -/
def State.feFree (s : State) (rel : Bool) (scope : BitVec 2) (ts : Targets) : Prop :=
  (∀ x ∈ ts, x.2 ≠ .bounds) ∧ ((∃ x ∈ ts, x.2.isPad = true) → s.padsFree rel scope 0)

/-- Whether the scoreboard of the issuing group has room (R205), or the instruction has issued. -/
def State.boardFree (s : State) : Prop :=
  match s.cur with
  | .split g _ => s.resuming s.cur = true ∨ ((s.group g).sb.filter (·.counts)).length < 16
  | _ => True

/-- The state with what the sending of requests changes put back: the next number, the requests and the group's scoreboard. -/
def State.unsent (s t : State) : State :=
  match s.cur with
  | .split g _ => { t with nextId := s.nextId, reqs := s.reqs }.setGroup g { t.group g with sb := (s.group g).sb }
  | _ => { t with nextId := s.nextId, reqs := s.reqs }

/-- The state with the scratchpad bytes and granules of targets put back. -/
def State.unstored (s : State) (ts : Targets) (t : State) : State :=
  ts.foldl (fun u x => match x.2 with
    | .scratch c b _ => u.setBlock c b { u.block c b with scratch := (s.block c b).scratch, fe := (s.block c b).fe }
    | _ => u) t

/-- The requests that an instruction sends (R282): these, each with its kind, line and pieces, from the issuer, of an engine
class, and with the order and scope of the instruction. -/
def State.sends (s t : State) (sp : Space) (cls : Nat) (order scope : BitVec 2) (xs : List (ReqKind × DWord × List Piece)) : Prop :=
  ∃ qs, t.reqs = s.reqs ++ qs ∧ (qs.map fun q => (q.kind, q.va, q.pieces)) = xs ∧
    ∀ q ∈ qs, q.ctx = (s.blk s.cur).ctx ∧ q.part = (s.blk s.cur).part ∧ q.party = s.cur.party ∧ q.core = s.cur.core ∧ q.cls = cls ∧
      q.space = sp ∧ q.order = order ∧ q.scope = scope ∧ q.held = false ∧ s.nextId ≤ q.id

/-- The scoreboard entry of an instruction whose results are to land (R205): one with these destinations, which waits for so
many requests; none when nothing was sent. -/
def State.posts (s t : State) (dsts : List Loc) (n : Nat) : Prop :=
  match s.cur with
  | .split g _ =>
    if n = 0 then (t.group g).sb = (s.group g).sb
    else ∃ e, (t.group g).sb = (s.group g).sb ++ [e] ∧ e.dsts = dsts ∧ e.left = n ∧ e.returned = 0 ∧ e.id = s.nextId
  | _ => True

/-- The lanes in which a destination is written at once (R160): of a uniform register, the lowest active lane alone. -/
def onceIn (d : BitVec 7) (active m : Mask) : Mask :=
  if 112 ≤ d.toNat then (match lowest active with
    | some l => m &&& (1#32 <<< l)
    | none => 0) else m

/-- The bytes of a scratchpad target; elsewhere zeros (R203). -/
def State.bytesAt (s : State) (t : Tgt) (n : Nat) : List Byte :=
  match t with
  | .scratch core block a => (s.block core block).bytes a n
  | _ => List.replicate n 0

/-- The registers of the issuer with a result of some lanes written at once, under the window base of the operands (R159, R160, R201). -/
def State.landsOnce (s : State) (i : Instr) (d : BitVec 7) (n : Nat) (m : Mask) (v : Nat → List Word) : RegFile :=
  (s.rf s.cur).under s.operands.wbase fun r => r.writeRun d n (onceIn d (s.activeFor i) m) v

/-- A load completes (R202, R203, R206): a lane whose bytes stand in a scratchpad receives them, a dropped lane receives 0,
and the bytes of the others are asked for line by line. -/
def State.loads (s : State) (i : Instr) (w : MWord) (ty : BitVec 5) (size : Nat) : Prop :=
  let ts := s.targetsOf i w.k w.x w.e size
  let lines := gatherLines (ts.lines size)
  s.mayIssue i → s.boardFree → s.accessFree (orderRel w.order) w.scope ts 0 → ∃ t, exec i s = .next t ∧
    s.wrote (s.landsOnce i w.d (regCount size) (ts.mask fun t => !t.isLine) fun l => loadWords ty size (s.bytesAt (ts.of l) size))
      s.readLatches s.gens (s.unsent t) ∧
    s.sends t (recSpace (s.operands.rcd w.k)) 0 w.order w.scope (lines.map fun x => (.load, x.1, x.2)) ∧
    s.posts t ((s.operands.dest w.d (regCount size)).filterMap id) lines.length

/-- The scratchpads after the lanes of a store have written theirs in turn (R203). -/
def State.stored (s : State) (ts : Targets) (bytes : Nat → List Byte) : State := ts.foldl (fun u x => u.put x.2 (bytes x.1)) s

/-- A store completes (R202, R203, R206): scratchpad lanes write theirs in lane order, the bytes of the others leave line by
line; every other scratchpad byte, and every granule, is as before. -/
def State.storesOf (s : State) (i : Instr) (w : MWord) (size : Nat) : Prop :=
  let ts := s.targetsOf i w.k w.x w.e size
  let bytes := s.operands.storeBytes w.d size
  s.mayIssue i → noWrites (s.operands.rcd w.k) = false → s.accessFree (orderRel w.order) w.scope ts 0 → ∃ t, exec i s = .next t ∧
    s.wrote (s.rf s.cur) s.readLatches s.gens (s.unstored ts (s.unsent t)) ∧
    s.sends t (recSpace (s.operands.rcd w.k)) 0 w.order w.scope
      ((gatherLines (ts.lines size)).map fun x => (.store (storePieces x.2 bytes), x.1, x.2)) ∧
    (∀ c b, (t.block c b).scratch = ((s.stored ts bytes).block c b).scratch ∧ (t.block c b).fe = (s.block c b).fe) ∧
    ∀ c b a, (∀ x ∈ ts, ∀ a0, x.2 = .scratch c b a0 → a < a0 ∨ a0 + size ≤ a) →
      FMap.get 0 (t.block c b).scratch a = FMap.get 0 (s.block c b).scratch a

/-- The state with a context put back. -/
def State.unctx (s t : State) : State := { t with ctxs := s.ctxs }

/-- The state with what the issuer's block holds for its groups together put back: scratchpad, granules, queues and FIFOs. -/
def State.unblock (s t : State) : State :=
  t.setBlk s.cur { t.blk s.cur with scratch := (s.blk s.cur).scratch, fe := (s.blk s.cur).fe, q := (s.blk s.cur).q, fifos := (s.blk s.cur).fifos }

/-- The state with the turns put back that the splits and feed threads of the issuer's block have had or have yet to have. -/
def State.unskipped (s t : State) : State :=
  let b := s.blk s.cur
  let c := t.blk s.cur
  t.setBlk s.cur { c with
    groups := c.groups.map fun e => (e.1, { e.2 with splits := e.2.splits.map fun p =>
      (p.1, { p.2 with tried := ((b.group e.1).split p.1).tried }) })
    threads := c.threads.map fun e => (e.1, { e.2 with sp := { e.2.sp with tried := (b.thread e.1).sp.tried } }) }

/-- Whether two register files read the same. -/
def RegFile.same (r r' : RegFile) : Prop :=
  (∀ n l, (FMap.get Row.zero r'.rows n).lane l = (FMap.get Row.zero r.rows n).lane l) ∧
    { r' with rows := r.rows } = r

/-- The lanes in which an LDFE takes its step now (R208): those that have taken none, in the scratchpads in which every granule that
such lanes touch is full. -/
def State.stepsNow (s : State) (ts : Targets) (size : Nat) : Mask :=
  maskOf fun l => ts.pads.any fun x =>
    let ls := x.2.2.filter fun e => !(s.sp s.cur).got.getLsbD e.1
    (ls.any fun e => e.1 == l) && (padGranules ls size).all (s.block x.1 x.2.1).full

/-- The state with the scoreboard of the issuing group put back. -/
def State.unboarded (s t : State) : State :=
  match s.cur with
  | .split g _ => t.setGroup g { t.group g with sb := (s.group g).sb }
  | _ => t

/-- The scoreboard of the issuing group after its LDFE has ended (R205): the entry of one that has waited is gone. -/
def State.ldfeFreed (s : State) (g : GroupAt) : List SbEntry :=
  match (s.sp s.cur).wait, (s.sp s.cur).walks with
  | some .ldfe, some id => (s.group g).sb.filter fun e => e.id != id
  | _, _ => (s.group g).sb

/-- An LDFE, at its first turn or a later one (R208). Each scratchpad in which every granule is full that its lanes touch serves those
lanes: they receive their bytes, and `.clr` empties those granules, and these alone. Once all lanes in scratchpads are served the
instruction completes, and dropped lanes receive 0; until then, and while a scratchpad has left its bank (R60), it waits, with the served lanes noted, its operands kept and, from its
first turn on, a scoreboard entry. The result is in general registers or in uniform ones. -/
def State.ldfeOf (s : State) (i : Instr) (p : Pre) (w : MWord) (clr : Bool) : Prop :=
  let size := tySize p.ty
  let ts := s.targetsOf i w.k w.x w.e size
  let now := s.stepsNow ts size
  let got := (s.sp s.cur).got ||| now
  let loaded (l : Nat) : List Word := if (ts.of l).isScratch then loadWords p.ty size (s.bytesAt (ts.of l) size) else []
  let pads (t : State) : Prop := ∀ c b, (t.block c b).scratch = (s.block c b).scratch ∧
    (t.block c b).fe = ((if clr then s.markAll (ts.filter fun x => now.getLsbD x.1) size false else s).block c b).fe
  s.mayIssue i → fePlace (s.operands.rcd w.k) = true → s.boardFree → s.feFree (orderRel w.order) w.scope ts →
    (s.issued i).strays ts = false → w.d.toNat + regCount size ≤ 112 ∨ 112 ≤ w.d.toNat →
    (ts.padded &&& ~~~got = 0 → ∃ t, exec i s = .next t ∧
      s.wrote (t.rf s.cur) s.readLatches s.gens (s.unstored ts (s.unboarded t)) ∧
      (s.landsOnce i w.d (regCount size) (now ||| ts.mask fun x => !x.isPad) loaded).same (t.rf s.cur) ∧ pads t ∧
      ∀ g sid, s.cur = .split g sid → (t.group g).sb = s.ldfeFreed g) ∧
    (ts.padded &&& ~~~got ≠ 0 → ∃ t, exec i s = .next t ∧
      s.keepsOwn (t.rf s.cur) s.readLatches s.gens (s.unstored ts (s.unsent t)) ∧
      (s.landsOnce i w.d (regCount size) now loaded).same (t.rf s.cur) ∧ pads t ∧
      (t.sp s.cur).wait = some .ldfe ∧ (t.sp s.cur).pc = (s.sp s.cur).pc ∧ (t.sp s.cur).snap = some s.operands ∧ (t.sp s.cur).got = got ∧
      (if s.resuming s.cur then (t.sp s.cur).walks = some ((s.sp s.cur).walks.getD 0) ∧ ∀ g sid, s.cur = .split g sid → (t.group g).sb = (s.group g).sb
       else (t.sp s.cur).walks = some s.nextId ∧ s.posts t ((s.operands.dest w.d (regCount size)).filterMap id) 1))

/-- STFE, FESET and FECLR complete (R208): the data is written, and every granule that the lanes touch becomes full or empty. While a
scratchpad has left its bank (R60) the instruction waits: the lanes in the others have taken their steps, and are noted. -/
def State.marksOf (s : State) (i : Instr) (w : MWord) (size : Nat) (full rel data : Bool) : Prop :=
  let ts := s.targetsOf i w.k w.x w.e size
  let now := ts.without (s.sp s.cur).got
  let bytes := s.operands.storeBytes w.d size
  let pads (t : State) : Prop := ∀ c b, (t.block c b).scratch = ((if data then s.stored now bytes else s).block c b).scratch ∧
    (t.block c b).fe = ((s.markAll now size full).block c b).fe
  s.mayIssue i → fePlace (s.operands.rcd w.k) = true → s.feFree (rel || orderRel w.order) (if orderRel w.order then w.scope else 0) ts →
    (s.issued i).strays ts = false →
    ((∀ x ∈ ts, x.2 ≠ .away) → ∃ t, exec i s = .next t ∧ s.wrote (s.rf s.cur) s.readLatches s.gens (s.unstored now t) ∧ pads t) ∧
    ((∃ x ∈ ts, x.2 = .away) → ∃ t, exec i s = .next t ∧
      s.keepsOwn (s.rf s.cur) s.readLatches s.gens (s.unstored now { t with nextId := s.nextId }) ∧ pads t ∧
      (t.sp s.cur).wait = some .away ∧ (t.sp s.cur).pc = (s.sp s.cur).pc ∧ (t.sp s.cur).snap = some s.operands ∧
      (t.sp s.cur).got = (s.sp s.cur).got ||| now.mask Tgt.isScratch ∧
      (t.sp s.cur).walks = some (if s.resuming s.cur then (s.sp s.cur).walks.getD 0 else s.nextId))

/-- The scratchpads after scratchpad lanes of an atomic have acted in turn, each on what those before it left (R93, R214). -/
def State.atoms (s : State) (size : Nat) (new : Nat → DWord → DWord) (ts : Targets) : State :=
  ts.foldl (fun t x => if x.2.isScratch then
    t.put x.2 (bytesOf (new x.1 (BitVec.ofNat 64 (ofBytes (t.bytesAt x.2 size)))) size) else t) s

/-- The value that an atomic lane returns: what its bytes held when its turn came (R214). -/
def State.oldOf (s : State) (size : Nat) (new : Nat → DWord → DWord) (ts : Targets) (l : Nat) : List Byte :=
  (s.atoms size new (ts.takeWhile fun x => x.1 != l)).bytesAt (ts.of l) size

/-- What becomes of lanes that the core holds until their walks have ended (R201, R205, R301): they are those held for the instruction
from an earlier try, or else are sent now, and a returning form then takes its scoreboard entry. While one walks, the issuer waits; a
lane at MMIO is cause 3 and no lane leaves; else they leave together. -/
def State.leavesHeld (s : State) (i : Instr) (k : BitVec 5) (fresh : List Req) (dsts : List Loc) (ret : Bool) : Prop :=
  let again : Option Nat := if (s.sp s.cur).wait = some .walks then (s.sp s.cur).walks else none
  let n := again.getD s.nextId
  let u : State := match again with
    | some _ => s
    | none => ({ s with nextId := s.nextId + if ret then 1 else 0 } : State).send (fresh.map fun q => { q with held := true, instr := n })
  let qs := u.heldOf n
  let board (t : State) : Prop := if again = none ∧ ret = true then s.posts t dsts fresh.length
    else ∀ g sid, s.cur = .split g sid → (t.group g).sb = (s.group g).sb
  let place (q : Req) : Req := { q with land := .none }
  ((∃ q ∈ qs, q.walking = true) → ∃ t, exec i s = .next t ∧ (t.sp s.cur).walks = some n ∧
    t.reqs.map place = u.reqs.map place ∧ board t ∧ s.blocks (s.unsent t) .walks) ∧
  ((∀ q ∈ qs, q.walking = false) → (∀ q ∈ qs, q.mmio = false) → ∃ t, exec i s = .next t ∧
    s.wrote (s.rf s.cur) s.readLatches s.gens (s.unsent t) ∧ board t ∧
    t.reqs.map place = u.reqs.map fun q => place { q with held := q.held && q.instr != n }) ∧
  ((∀ q ∈ qs, q.walking = false) → (∃ q ∈ qs, q.mmio = true) → ∀ g sid, s.cur = .split g sid →
    (s.dropHeld s.cur n).canTrap g sid → ∃ t, exec i s = .next t ∧
      ((s.dropHeld s.cur n).trapping g sid).entersTrap g sid 3 (k.setWidth 32) (piecesMask ((qs.filter (·.mmio)).flatMap (·.pieces))) (s.sp s.cur).pc t)

/-- An atomic completes (R213, R214, R301). In scratchpads its lanes act at issue, in lane order, once the group's earlier atomics have been
performed (R106), and a returning form gives the old values. At lines its lanes leave as requests that the core holds until their walks have ended; then they leave
together. A lane at MMIO traps. -/
def State.atomOf (s : State) (i : Instr) (w : MWord) (ty : BitVec 5) (op : AtomOp) (cf : BitVec 7) (ret : Bool) : Prop :=
  let r := s.operands.rcd w.k
  let size := tySize ty
  let ts := s.targetsOf i w.k w.x w.e size
  let v := s.operands.wide w.d size
  let x := s.operands.wide cf size
  let new (l : Nat) (m : DWord) : DWord := atomNew op size m (v l) (x l)
  s.mayIssue i → noWrites r = false → (∀ l, (s.activeFor i).getLsbD l = true → odd r (s.operands.lane w.x l) w.e size = false) →
    (ret = true → s.boardFree) → s.accessFree (orderRel w.order) w.scope ts 0 →
    ((∃ x ∈ ts, x.2.isScratch = true) → s.resuming s.cur = true ∨ s.atomicOwed s.cur = false) →
    (ts.lines size = [] → ∃ t, exec i s = .next t ∧
      s.wrote (if ret then s.landsOnce i w.d (regCount size) (ts.mask (·.isScratch)) fun l =>
          loadWords 0 size (s.oldOf size new ts l)
        else s.rf s.cur) s.readLatches s.gens (s.unstored ts t) ∧
      ∀ c b, (t.block c b).scratch = ((s.atoms size new ts).block c b).scratch ∧ (t.block c b).fe = (s.block c b).fe) ∧
    let fresh : List Req := (ts.lines size).map fun y => { (s.issued i).request r w.order w.scope 0 with
      kind := .atom op size (v y.1) (x y.1), va := y.2.1 - BitVec.ofNat 64 (y.2.1.toNat % 128),
      pieces := [{ lane := y.1, off := y.2.1.toNat % 128, n := size, first := 0 }] }
    ts.lines size ≠ [] → s.leavesHeld i w.k fresh ((s.operands.dest w.d (regCount size)).filterMap fun x => x) ret

/-- The state with the arrivals of the issuing group put back. -/
def State.unarrived (s t : State) : State :=
  match s.cur with
  | .split g _ =>
    let x := s.group g
    t.setGroup g { t.group g with arrB := x.arrB, arrBAt := x.arrBAt, bara := x.bara, arrG := x.arrG, arrGAt := x.arrGAt }
  | _ => t

/-- Whether every lane that the group has left waits at the block barrier or has executed BARA since it last arrived (R217). -/
def Group.allAtBar (g : Group) (phase : Nat) (bara : Mask) : Prop :=
  g.lanesLeft ≠ 0 ∧ g.lanesLeft &&& ~~~(g.waitingAt .bar phase ||| bara) = 0

/-- Whether every lane that the group has left waits at the gang barrier (R217). -/
def Group.allAtGbar (g : Group) (phase : Nat) : Prop := g.lanesLeft ≠ 0 ∧ g.lanesLeft &&& ~~~(g.waitingAt .gbar phase) = 0

/-- What a queue instruction leaves in its block (R54, R55): this queue, this scratchpad; other queues, granules and FIFOs stay. -/
def State.queued (s t : State) (n : Nat) (q : Queue) : Prop :=
  (t.blk s.cur).queue n = q ∧ (∀ m, m ≠ n → (t.blk s.cur).queue m = (s.blk s.cur).queue m) ∧
    (t.blk s.cur).fe = (s.blk s.cur).fe ∧ (t.blk s.cur).fifos = (s.blk s.cur).fifos

/-- The event bit that an event instruction names in a lane (R220). -/
def State.eventBit (s : State) (w : IWord) (l : Nat) : Nat :=
  let n := (w.imm.extractLsb' 0 8).toNat
  if w.imm.getLsbD 9 then ((s.operands.lane w.a l).toNat + n) % 256 else n

/-- Only these sets and clears of this cycle differ in the context of the issuer (R46). -/
def State.eventsOf (s t : State) (sets clears : BitVec 256) : Prop :=
  let c := (s.blk s.cur).ctx
  t.ctx c = { s.ctx c with evSet := sets, evClear := clears } ∧ ∀ n, n ≠ c → t.ctx n = s.ctx n

/-- Whether an instruction on tiles may act (R222, R223): they are the group's, and nothing before it owes them. -/
def State.tilesFree (s : State) (g : GroupAt) (ns : List Nat) : Prop :=
  (∀ n ∈ ns, n < (s.blk s.cur).t) ∧ s.tileOwed g ns = false ∧ ∀ n ∈ ns, (s.group g).pending.contains (.tile n) = false

/-- The state with the tiles, bound registers and thresholds of the issuing group put back. -/
def State.untiled (s t : State) : State :=
  match s.cur with
  | .split g _ => t.setGroup g { t.group g with tiles := (s.group g).tiles, bounds := (s.group g).bounds, thr := (s.group g).thr }
  | _ => t

/-- What an instruction on tiles does apart from its effect (R222, R223): a tile beyond the group's is illegal; with no
active lane nothing happens; as it issues, while a quarter op before it names a tile, it waits. -/
def State.tileRule (s : State) (i : Instr) (ns : List Nat) : Prop :=
  ∀ g sid, s.cur = .split g sid → s.mayIssue i →
    ((∃ n ∈ ns, (s.blk s.cur).t ≤ n) → s.canTrap g sid → ∃ t, exec i s = .next t ∧ (s.trapping g sid).entersTrap g sid 1 s.iword (s.activeFor i) (s.sp s.cur).pc t) ∧
    ((∀ n ∈ ns, n < (s.blk s.cur).t) → s.activeFor i = 0 → ∃ t, exec i s = .next t ∧ s.wrote (s.rf s.cur) s.readLatches s.gens t) ∧
    ((∀ n ∈ ns, n < (s.blk s.cur).t) → s.activeFor i ≠ 0 → s.resuming s.cur = false → s.tileOwed g ns = true → ∃ t, exec i s = .next t ∧ s.waits t .tile)

/-- An instruction on tiles completes: its group's tiles, bound registers and thresholds read so. -/
def State.tilesAfter (s : State) (i : Instr) (ns : List Nat) (rf : RegFile) (tile : Group → Nat → Tile) (bnd : Group → Nat → DWord)
    (thr : Group → Nat → BitVec 8) : Prop :=
  s.tileRule i ns ∧ ∀ g sid, s.cur = .split g sid → s.mayIssue i → s.activeFor i ≠ 0 → s.tilesFree g ns → ∃ t, exec i s = .next t ∧
    s.wrote rf s.readLatches s.gens (s.untiled t) ∧
    ∀ n, (t.group g).tile n = tile (s.group g) n ∧ (t.group g).bnd n = bnd (s.group g) n ∧ (t.group g).threshold n = thr (s.group g) n

/-- MMA, MMA.W and CMMA complete (R224, R226): each quarter with an active lane becomes a quarter op at the end of the queue. -/
def State.queuesOps (s : State) (i : Instr) (w : SWord) (kind : MatKind) (ty : BitVec 5) : Prop :=
  ∀ g sid, s.cur = .split g sid → s.mayIssue i →
    let b := s.blk s.cur
    let qs := (List.range 4).filter fun q => (s.activeFor i).extractLsb' (8 * q) 8 != 0
    let top := w.d.toNat + if kind = .mmaW then 7 else 3
    let fits := top < b.t ∧ w.a.toNat + 3 < b.g * b.f ∧ w.b.toNat < b.g * b.f
    (fits → (s.core g.core).mq.length + qs.length ≤ 64 → ∃ t, exec i s = .next t ∧
      (let u := { t with nextId := s.nextId }
       s.wrote (s.rf s.cur) s.readLatches s.gens (u.setCore g.core { u.core g.core with mq := (s.core g.core).mq })) ∧
      (t.core g.core).mq = (s.core g.core).mq ++ qs.zipIdx.map fun (q, n) =>
        { id := s.nextId + n, block := g.block, group := g.ix, q := q, kind := kind, ty := ty, tile := w.d.toNat + q,
          fa := w.a.toNat + q, fb := w.b.toNat, a := none, b := none, tb := 0, begun := false }) ∧
    (fits → 64 < (s.core g.core).mq.length + qs.length → ∃ t, exec i s = .next t ∧ s.waits t .matrixFull) ∧
    (¬fits → s.canTrap g sid → ∃ t, exec i s = .next t ∧ (s.trapping g sid).entersTrap g sid 1 s.iword (s.activeFor i) (s.sp s.cur).pc t)

/-- The writes of a matrix instruction (R114, R231, R235): those at scratchpads are done in turn, and those at lines leave as
requests of class .mat for the lowest active lane. -/
def State.matStores (s t : State) (i : Instr) (w : MWord) (ws : MatWrites) : Prop :=
  let l0 := (lowest (s.activeFor i)).getD 0
  let xs := ws.zipIdx.filterMap fun x => match x.1.1 with
    | .line _ va => some (x.2, va, x.1.2.length)
    | _ => none
  (∀ c b, (t.block c b).scratch = ((ws.foldl (fun u x => u.put x.1 x.2) s).block c b).scratch ∧ (t.block c b).fe = (s.block c b).fe) ∧
  s.sends t (recSpace (s.operands.rcd w.k)) 2 w.order w.scope ((gatherLines xs).map fun x =>
    (.store (storePieces x.2 fun n => (ws.getD n (.drop, [])).2), x.1, x.2.map fun p => { p with lane := l0 }))

/-- A store of a tile completes (R223, R231, R233, R235): these writes are made, and an over-threshold tile traps instead (R133). -/
def State.tileStore (s : State) (i : Instr) (w : MWord) (ns : List Nat) (ws : MatWrites) (gen : Row) : Prop :=
  s.tileRule i ns ∧ ∀ g sid, s.cur = .split g sid → s.mayIssue i → s.activeFor i ≠ 0 → s.tilesFree g ns →
    let ts : Targets := ws.map fun x => ((lowest (s.activeFor i)).getD 0, x.1)
    s.accessFree (orderRel w.order) w.scope ts 2 →
    (bndOvf ((s.group g).bnd w.d.toNat) = false → ∃ t, exec i s = .next t ∧
      s.wrote (s.rf s.cur) s.readLatches gen (s.unstored ts (s.unsent t)) ∧ s.matStores t i w ws) ∧
    (bndOvf ((s.group g).bnd w.d.toNat) = true → s.canTrap g sid → ∃ t, exec i s = .next t ∧
      (s.trapping g sid).entersTrap g sid 4 (BitVec.ofNat 32 w.d.toNat) (s.activeFor i) (s.sp s.cur).pc t)

/-- The group that issues. -/
def State.issuer (s : State) : Group := s.group (s.groupOf s.cur)

/-- The state with copies, requests and the next number put back. -/
def State.uncopied (s t : State) : State := { t with nextId := s.nextId, copies := s.copies, reqs := s.reqs }

/-- The line accesses of the parts of a copy: where each begins in the buffer, its address and its size. -/
def partLines (xs : List (Nat × Tgt × Nat)) : List (DWord × List Piece) :=
  gatherLines (xs.filterMap fun x => match x.2.1 with
    | .line _ va => some (x.1, va, x.2.2)
    | _ => none)

/-- The bytes of a copy that are there at once: those of scratchpads, and zeros for what is dropped, over what stood before. -/
def State.gathered (s : State) (buf : FMap Byte) (xs : List (Nat × Tgt × Nat)) : FMap Byte :=
  xs.foldl (fun m x => match x.2.1 with
    | .line _ _ => m
    | g => (s.bytesAt g x.2.2).zipIdx.foldl (fun m y => FMap.set 0 m (x.1 + y.2) y.1) m) buf

/-- The copies that an instruction starts (R246, R248): for each, its kind, its size, the buffer before it and its parts. What
stands at lines is asked for through requests of class .async. -/
def State.copied (s t : State) (sp : Space) (scope : BitVec 2) (xs : List (CopyKind × Nat × FMap Byte × List (Nat × Tgt × Nat))) : Prop :=
  ∃ cs qs, t.copies = s.copies ++ cs ∧ t.reqs = s.reqs ++ qs ∧
    cs.map (fun c => (c.kind, c.size, c.buf, c.left)) =
      xs.map (fun x => (x.1, x.2.1, s.gathered x.2.2.1 x.2.2.2, (partLines x.2.2.2).length)) ∧
    (∀ c ∈ cs, c.ctx = (s.blk s.cur).ctx ∧ c.party = s.cur.party ∧ c.core = s.cur.core ∧ c.block = s.cur.block) ∧
    qs.map (fun q => (q.va, q.pieces.map fun p => (p.first, p.off, p.n))) =
      xs.flatMap (fun x => (partLines x.2.2.2).map fun y => (y.1, y.2.map fun p => (p.lane + p.first, p.off, p.n))) ∧
    (∀ q ∈ qs, q.kind = .load ∧ q.space = sp ∧ q.scope = scope ∧ q.cls = 1 ∧ ∃ c ∈ cs, q.land = .copy c.id) ∧
    ∀ c ∈ cs, s.nextId ≤ c.id

/-- Whether the issuing core has room for copies (R248). -/
def State.copiesFit (s : State) (n : Nat) : Prop := (s.copies.filter fun x => !x.isWalk && x.core == s.cur.core).length + n ≤ 256

/-- Whether an entry fits in a FIFO of the block and in the pool of its partition on the core (R247). -/
def State.entryFits (s : State) (i : Instr) (f size : Nat) : Prop :=
  let b := s.blk s.cur
  (b.stream f).length < 4 ∧ ((s.issued i).s.core s.cur.core).poolUsed b.part + size ≤ 8192 * (s.part b.part).ranges.fifos

/-- ACOPY into an operand FIFO completes (R225, R247): the entry takes its place in the stream, and its copy starts. -/
def State.entersFifo (s : State) (i : Instr) (p : Pre) (w : MWord) (isB : Bool) : Prop :=
  ∀ l, lowest (s.activeFor i) = some l → s.mayIssue i →
    let r := s.operands.rcd w.k
    let f := (w.d.setWidth 5).toNat
    let b := s.blk s.cur
    let ty := recFormat r
    let rows := (entryShape isB ty).1
    let size := rows * rowBytesOf isB ty
    let x := s.operands.lane w.x l
    let parts := s.entryParts s.cur r isB (laneOffset r x w.e) (entrySpots r x w.e rows (rowBytesOf isB ty))
    f < b.g * b.f → (matK ty).isSome = true → (∀ y ∈ parts, y.2.1 ≠ .bounds ∧ y.2.1 ≠ .away) → s.acquired →
      s.fifosAway s.cur.core b.part = false →
      (s.copiesFit 1 → s.entryFits i f size → ∃ t e, exec i s = .next t ∧
        s.wrote (s.rf s.cur) s.readLatches s.gens (s.unblock (s.uncopied t)) ∧
        (t.blk s.cur).stream f = b.stream f ++ [e] ∧ (∀ n, n ≠ f → (t.blk s.cur).stream n = b.stream n) ∧
        (t.blk s.cur).scratch = b.scratch ∧ (t.blk s.cur).fe = b.fe ∧ (t.blk s.cur).q = b.q ∧
        e.isB = isB ∧ e.ty.toNat = ty % 256 ∧ e.size = size ∧ e.present = false ∧ e.taken = false ∧ e.bound = 0 ∧ e.spent = false ∧
        (let n := (s.operands.lane p.c l).toNat % 256
         e.count = if isB = true ∧ n ≠ 0 then n else 1) ∧
        s.copied t (recSpace r) w.scope [(.fifo f e.id, size, entryBuf size (if isB then 1 else rows), parts)]) ∧
      (¬(s.copiesFit 1 ∧ s.entryFits i f size) → ∃ t, exec i s = .next t ∧ s.waits t .copy)

/-- A bulk job starts (R251): its lanes receive the group's next number; a job of no bytes only sets its event bit, and any
other joins the jobs. The content of a tree is held by one count more, and the job notes whether its name was there to be held (R150). -/
def State.starts (s : State) (i : Instr) (p : Pre) (w : SWord) (kind : JobKind) (dst src : BufRec) (len : Nat) : Prop :=
  let b := s.blk s.cur
  let n := s.issuer.jobs + 1
  ∃ t, exec i s = .next t ∧
    (let u := { t with nextId := s.nextId, jobs := s.jobs, parts := s.parts, ctxs := s.ctxs, applied := s.applied }
     s.wrote ((s.rf s.cur).write w.d (s.activeFor i) fun _ => BitVec.ofNat 32 n) s.readLatches s.gens
       (u.setGroup (s.groupOf s.cur) { u.group (s.groupOf s.cur) with jobs := s.issuer.jobs })) ∧
    (t.group (s.groupOf s.cur)).jobs = n ∧
    (∀ k, k ≠ b.ctx → t.ctx k = s.ctx k) ∧ (∀ k, k ≠ b.part → t.part k = s.part k) ∧
    (len = 0 → t.jobs = s.jobs ∧ t.part b.part = s.part b.part ∧ t.ctx b.ctx = { s.ctx b.ctx with
      evSet := if p.sub.getLsbD 0 then (s.ctx b.ctx).evSet ||| 1#256 <<< (recEvent dst % 256) else (s.ctx b.ctx).evSet }) ∧
    (len ≠ 0 → t.ctx b.ctx = s.ctx b.ctx ∧
      t.part b.part = (if kind = .tree then (s.part b.part).inc (recBase src) else s.part b.part) ∧
      ∃ j, t.jobs = s.jobs ++ [j] ∧ j.kind = kind ∧ j.ctx = b.ctx ∧ j.part = b.part ∧ j.party = s.cur.party ∧ j.handle = n ∧ j.src = src ∧
        j.dst = dst ∧ j.len = len ∧ j.phase = 0 ∧ j.holds = (decide (kind = .tree) && ((s.part b.part).entry? (recBase src)).isSome) ∧ j.wsr = b.wsr ∧ j.ev = if p.sub.getLsbD 0 then [recEvent dst] else [])

/-- A launch is refused with a reason (R332). -/
def State.refuses (s : State) (i : Instr) (why : Nat) : Prop :=
  let c := (s.blk s.cur).ctx
  ∃ t, exec i s = .next t ∧ s.wrote (s.rf s.cur) s.readLatches s.gens (s.unctx t) ∧
    t.ctx c = { s.ctx c with lrefuse := refusedReg (s.ctx c).lrefuse why } ∧ ∀ n, n ≠ c → t.ctx n = s.ctx n

/-- A launch that has passed its checks joins its queue, or waits for room (R44, R259). -/
def State.enqueues (s : State) (i : Instr) (b : Lpb) : Prop :=
  let c := (s.blk s.cur).ctx
  let q := (s.ctx c).queue (lpbPrio b)
  (q.length < 64 → ∃ t, exec i s = .next t ∧ s.wrote (s.rf s.cur) s.readLatches s.gens (s.unctx t) ∧
    { t.ctx c with lq := (s.ctx c).lq } = s.ctx c ∧ (t.ctx c).queue (lpbPrio b) = q ++ [b] ∧
    (∀ n, n ≠ lpbPrio b → (t.ctx c).queue n = (s.ctx c).queue n) ∧ ∀ n, n ≠ c → t.ctx n = s.ctx n) ∧
  (64 ≤ q.length → ∃ t, exec i s = .next t ∧ s.blocks t .launch ∧ (t.sp s.cur).lpb = some b)

/-- A launch whose block has been read (R44, R259, R332): it is refused, first where its offset is no multiple of 128, and else joins its queue
or waits for room; one that waits for room has been checked. -/
def State.offered (s : State) (i : Instr) (aligned : Bool) (b : Lpb) : Prop :=
  if (s.sp s.cur).wait = some .launch then s.enqueues i b
  else if aligned = false then s.refuses i 1
  else match lpbRefused (s.part (s.ctx (s.blk s.cur).ctx).part).ranges b with
    | some why => s.refuses i why
    | none => s.enqueues i b

/-- The view of the system registers that an issuer has (R260, R262). -/
def State.viewOf (s : State) : RegView := { ctx := (s.blk s.cur).ctx, core := s.cur.core, who := s.cur }

/-- The rank of the issuer's context (R260). -/
def State.rank (s : State) : Nat := if (s.ctx (s.blk s.cur).ctx).sys then 1 else 0

/-- The element that an index field names in a lane (R261). -/
def State.element (s : State) (i : Nat) (f : BitVec 7) (l : Nat) : Nat := if isArray i then (s.operands.lane f l).toNat else 0

/-- The state with the translations of every core put back. -/
def State.untranslated (s t : State) : State := { t with cores := t.cores.map fun e => (e.1, { e.2 with tlb := (s.core e.1).tlb }) }

/-- The state with the pre-emptions that are requested of every core put back. -/
def State.unswitched (s t : State) : State :=
  { t with cores := t.cores.map fun e => (e.1, { e.2 with preempt := (s.core e.1).preempt, pairs := (s.core e.1).pairs }) }

/-- A SHOOT of a range of a context completes (R76): its generation grows by one, no TLB holds a translation of it that
overlaps the range, and its requests in the range that were translated walk again. -/
def State.shoots (s : State) (i : Instr) (ctx lo hi : Nat) : Prop :=
  ∃ t, exec i s = .next t ∧
    s.wrote (s.rf s.cur) s.readLatches s.gens (s.untranslated { t with ctxs := s.ctxs, reqs := s.reqs }) ∧
    t.ctx ctx = { s.ctx ctx with tgen := (s.ctx ctx).tgen + 1 } ∧ (∀ n, n ≠ ctx → t.ctx n = s.ctx n) ∧
    (∀ k, (t.core k).tlb = (s.core k).tlb.filter fun e => !(e.ctx == ctx && decide (e.va < hi) && decide (lo < e.va + e.size))) ∧
    t.reqs = s.reqs.map fun r => match r.st with
      | .mapped _ _ _ =>
        if r.ctx = ctx ∧ (r.space = .global ∨ r.space = .peer) ∧ lo < r.va.toNat % 2 ^ 57 + 128 ∧ r.va.toNat % 2 ^ 57 < hi then
          { r with st := .needWalk } else r
      | _ => r

/-- An illegal-instruction trap of a split (R301, R320). -/
def State.illegalAt (s : State) (i : Instr) : Prop :=
  ∀ g sid, s.cur = .split g sid → s.canTrap g sid → ∃ t, exec i s = .next t ∧ (s.trapping g sid).entersTrap g sid 1 s.iword (s.activeFor i) (s.sp s.cur).pc t

/-- The fate "illegal" of an instruction that runs (R320, R325, R326, R330). -/
def State.illegalFate (s : State) (i : Instr) : Prop := s.mayIssue i → s.illegalAt i

/-- Whether the issuer may name a context (R333). -/
def State.mayName (s : State) (ctx : Nat) : Prop :=
  s.rank = 1 ∧ ctx < 4096 ∧ ((s.ctx ctx).created = true → (s.ctx ctx).part = (s.blk s.cur).part)

/-- The lane that a shuffle reads (R195). -/
def shuffleFrom (act : Mask) (j : Int) (l : Nat) : Nat := if 0 ≤ j ∧ j ≤ 31 ∧ act.getLsbD j.toNat = true then j.toNat else l

/-- What every step keeps (R13, R342, R357, R358, R362): memory, the weight store and the marks of poisoned lines in their
canonical forms, the throttle level within its range, and the saturating counts of MEMERR within their fields. -/
def State.inv (s : State) : Prop :=
  s.mem.wf = true ∧ FMap.wf 0 s.ws = true ∧ FMap.wf false s.poison = true ∧ FMap.wf false s.wsPoison = true ∧
    s.level ≤ 12 ∧ s.trust ≤ 255 ∧ s.retired ≤ 255 ∧ s.corrected ≤ 65535

/-- Whether the TLB of an issuer's core lets it fetch the word at an address from a physical address (R74, R168), which is not
poisoned (R342). -/
def State.fetchable (s : State) (w : Who) (va : DWord) (pa : Nat) : Prop :=
  (∃ x, s.tlb? w.core (s.blk w).ctx va (fun e => e.x && e.cls == 0) = some (pa, x)) ∧ s.poisoned pa = false

/-- Everything but one group is kept. -/
def State.onlyGroup (s : State) (g : GroupAt) (t : State) : Prop :=
  { t with cores := s.cores } = s ∧ (∀ c b, ¬(c = g.core ∧ b = g.block) → t.block c b = s.block c b) ∧
    (∀ c, { t.core c with act := (s.core c).act } = s.core c) ∧
    { t.block g.core g.block with groups := (s.block g.core g.block).groups } = s.block g.core g.block ∧
    ∀ n, n ≠ g.ix → (t.block g.core g.block).group n = (s.block g.core g.block).group n

/-- The initial state of group `i` of block `k` of a newly placed gang (R42, R124). -/
def Group.initial (x : Group) (b : Lpb) (at_ : Nat × Nat × Nat) (k i : Nat) : Prop :=
  (x.live = true ∧ x.stack = [] ∧ (x.split 0).live = true ∧ (x.split 0).pc = lpbEntry b ∧ (x.split 0).mask = 0xFFFFFFFF ∧
    ∀ m, m ≠ 0 → (x.split m).live = false) ∧
  (x.rf.wbase = 0 ∧ x.rf.units = lpbUnits b ∧
    ∀ (f : BitVec 7) l, lpbUnits b ≠ 0 → f.toNat < 112 → x.rf.lane f l = if f = 0 ∧ l < 32 then BitVec.ofNat 32 l else 0) ∧
  x.rf.s = #v[(lpbArg b).setWidth 32, (lpbArg b).extractLsb' 32 32, BitVec.ofNat 32 at_.1, BitVec.ofNat 32 at_.2.1, BitVec.ofNat 32 at_.2.2,
    BitVec.ofNat 32 k, BitVec.ofNat 32 i, 0, 0, 0, 0, 0, 0, 0, 0, 0] ∧
  ((∀ q, x.rf.pred q = 0) ∧ (∀ q, x.rf.rcd q = 0) ∧ x.b = Vector.replicate 4 Row.zero ∧
    ∀ l, l < 32 → x.gen.lane l = 0x2545F491 + BitVec.ofNat 32 l) ∧
  (∀ m, x.tile m = [] ∧ x.bnd m = 0 ∧ x.threshold m = 0) ∧
  (x.uien = 0 ∧ x.uipend = 0 ∧ x.xcause = 0 ∧ x.xinfo = 0 ∧ x.xmask = 0 ∧ x.freeze = false ∧ x.sb = [] ∧ x.forks = [])

/-- The initial state of block `k` of a newly placed gang of grid `n` (R33, R42). -/
def Block.initial (x : Block) (g : Grid) (part n gang k : Nat) (p : Place) : Prop :=
  let b := g.lpb
  (x.live = true ∧ x.ctx = g.ctx ∧ x.part = part ∧ x.grid = n ∧ x.gang = gang ∧ x.ix = k ∧ x.place = p) ∧
  (x.g = lpbGroups b ∧ x.u = lpbUnits b ∧ x.sp = lpbSprows b ∧ x.t = lpbTiles b ∧ x.f = lpbFifos b ∧ x.prio = lpbPrio b ∧ x.wsr = lpbWsr b) ∧
  (x.phase = 0 ∧ x.threads = [] ∧ x.fifos = [] ∧ (∀ a, FMap.get 0 x.scratch a = 0 ∧ x.full a = false) ∧
    ∀ q, (x.queue q).cap = 0 ∧ (x.queue q).count = 0 ∧ (x.queue q).allow = 0) ∧
  ∀ i, i < lpbGroups b → (x.group i).initial b (gangIndex b g.next) k i

/-- The bytes that a read of a line gives, each at its place in a copy, a job or an answer (R246, R251). -/
def Req.bytesFrom (r : Req) (f : Nat → Byte) : List (Nat × Byte) :=
  r.pieces.flatMap fun p => (List.range p.n).map fun i => (p.first + i, f (p.off + i))

/-- Whether a request's result lands in no save image (R63). -/
def State.homely (s : State) (r : Req) : Prop :=
  match r.land with
  | .regs core block _ _ _ _ _ _ _ => s.home r.ctx core block ≠ .image
  | _ => True

/-- Sorrel's records stand, but that one may have come on chip (R283). -/
def State.recordsStand (s t : State) : Prop := t.parked.map (fun p => { p with ring := none }) = s.parked.map fun p => { p with ring := none }

/-- Of the markers, only some whose granule holds no record have gone (R280). -/
def State.markersStand (s t : State) : Prop :=
  (∀ m ∈ t.markers, m ∈ s.markers) ∧ ∀ m ∈ s.markers, m ∈ t.markers ∨ ∀ p ∈ t.parked, p.req.inGranule m.1 m.2 = false

/-- Everything is kept but the requests, what the caches hold, and at Sorrel the places of records and markers that have no record. -/
def State.served (s t : State) : Prop :=
  (∀ c, { t.core c with l1 := (s.core c).l1 } = s.core c) ∧ s.recordsStand t ∧ s.markersStand t ∧
    { t with reqs := s.reqs, l2 := s.l2, cores := s.cores, parked := s.parked, markers := s.markers } = s

/-- The result of a request has a place to land, or it has none (R63): the registers of its group, whose banked state is there. -/
def State.settles (s : State) (r : Req) : Prop :=
  match r.land with
  | .none => True
  | .regs core block _ _ _ _ _ _ _ => s.home r.ctx core block = .act
  | _ => False

/-- Register writes of a request have landed in its group and its scoreboard entry (R63, R205, R287), and everything else is kept but the
requests, what the caches hold, and at Sorrel the places of records and markers that have no record. -/
def State.landed (s : State) (r : Req) (ws : List RegWrite) (t : State) : Prop :=
  (∀ c b, match r.land with
    | .regs core block ix sb _ _ _ _ _ => if c = core ∧ b = block then
        (t.block c b).group ix = ((s.block c b).group ix).landAll sb r.lanes ws ∧
          (∀ n, n ≠ ix → (t.block c b).group n = (s.block c b).group n) ∧ { t.block c b with groups := (s.block c b).groups } = s.block c b
      else t.block c b = s.block c b
    | _ => t.block c b = s.block c b) ∧
  (∀ c, { t.core c with act := (s.core c).act, l1 := (s.core c).l1 } = s.core c) ∧ s.recordsStand t ∧ s.markersStand t ∧
  { t with reqs := s.reqs, l2 := s.l2, cores := s.cores, parked := s.parked, markers := s.markers } = s

/-- A context has written bytes, each at its offset from an address (R25, R206): it reads them there, and every other byte as before;
outside the 16-byte blocks of memory off the package that they touch, which are then under the context's key, memory itself is as it
was. -/
def State.wroteFor (s : State) (ctx pa : Nat) (bs : List (Nat × Byte)) (t : State) : Prop :=
  (∀ e ∈ bs, (∀ x ∈ bs, x.1 = e.1 → x = e) → t.seenBy ctx (pa + e.1) = e.2) ∧
    ∀ a, (∀ e ∈ bs, a ≠ pa + e.1) →
      (Config.isCxl a = false ∨ (∀ e ∈ bs, (pa + e.1) / 16 ≠ a / 16) → t.mem.read a = s.mem.read a) ∧
      ((∀ e ∈ bs, (pa + e.1) / 16 = a / 16 → Config.isCxl (pa + e.1) = true) → t.seenBy ctx a = s.seenBy ctx a) ∧
      ∀ n, FMap.get none t.cipher n =
        if bs.any (fun e => Config.isCxl (pa + e.1) && (pa + e.1) / 16 == n) then some (s.ctxKey ctx) else FMap.get none s.cipher n

/-- The request with a number has left, and the others stand. -/
def State.onlyReq (s : State) (id : Nat) (t : State) : Prop := t.req? id = none ∧ ∀ n, n ≠ id → t.req? n = s.req? n

/-- The request with a number is in a new state, and the others stand. -/
def State.moves (s : State) (r : Req) (st : ReqSt) (t : State) : Prop :=
  t.req? r.id = some { r with st := st } ∧ ∀ n, n ≠ r.id → t.req? n = s.req? n

/-- A request cannot be performed and goes to Sorrel (R278), and nothing else changes but the places there of records, and markers that have
no record. -/
def State.failsTo (s : State) (r : Req) (cause : Nat) (e : DWord) (t : State) : Prop :=
  s.moves r (.failed cause 0 e) t ∧ s.recordsStand t ∧ s.markersStand t ∧
    { t with reqs := s.reqs, parked := s.parked, markers := s.markers } = s

/-- A request of ordinary memory that may be performed now on a line that is not poisoned (R104, R342). -/
def State.ready (s : State) (r : Req) (pa tier : Nat) : Prop :=
  s.req? r.id = some r ∧ r.st = .mapped pa 0 tier ∧ s.mayGo r = true ∧ s.poisoned pa = false ∧ (r.space = .global ∨ r.space = .peer)

/-- A launch parameter block that a write of LAUNCHQ names has been read (R44, R262, R332): it is refused with its reason, it
joins its queue, or the write waits for room and has changed nothing. -/
def State.takesBlock (s : State) (ctx : Nat) (b : Lpb) (t : State) : Prop :=
  let x := s.ctx ctx
  let q := x.queue (lpbPrio b)
  (∀ n, n ≠ ctx → t.ctx n = s.ctx n) ∧ { t with ctxs := s.ctxs } = s ∧
    match lpbRefused (s.part x.part).ranges b with
    | some why => t.ctx ctx = { x with lrefuse := refusedReg x.lrefuse why }
    | none => { t.ctx ctx with lq := x.lq } = x ∧
      ∀ n, (t.ctx ctx).queue n = if n = lpbPrio b ∧ q.length < 64 then q ++ [b] else x.queue n

/-- The next thing that the hart of a core does is its instruction of `n` bytes with the bits `w`: the one whose access waits, or, where no
interrupt is due, the one at its pc (R14, R295). -/
def State.hartNext (s : State) (core : Nat) (w : Word) (n : Nat) : Prop :=
  s.hartOn core = true ∧ match (s.hart core).pending with
    | some p => p.word = w ∧ p.len = n
    | none => s.hartIrq core = none ∧ s.hartFetch core = .ok (w, n)

/-- Of the cores, only the hart of one has changed, and what its L1 holds. -/
def State.onlyHart (s : State) (core : Nat) (x : Hart) (t : State) : Prop :=
  { t.core core with l1 := (s.core core).l1 } = { s.core core with hart := x } ∧ ∀ c, c ≠ core → t.core c = s.core c

/-- The bytes that a store of a hart with an integer or a floating-point source writes. -/
def Rv.storeBytes (h : Hart) (size : Nat) : Rv → Option (List Byte)
  | .store _ src _ _ => some (bytesOf (h.xr src) size)
  | .fstore _ src _ _ => some (bytesOf (FMap.get 0 h.f src) size)
  | _ => none

/-- Whether an instruction of a hart is a load, of an integer or a floating-point register. -/
def Rv.isLoad : Rv → Bool
  | .load _ _ _ _ | .fload _ _ _ _ => true
  | _ => false

/-- Only one context has changed. -/
def State.onlyCtx (s : State) (ctx : Nat) (x : Ctx) (t : State) : Prop :=
  t.ctx ctx = x ∧ (∀ n, n ≠ ctx → t.ctx n = s.ctx n) ∧ { t with ctxs := s.ctxs } = s

/-- Only one partition has changed. -/
def State.onlyPart (s : State) (part : Nat) (x : Part) (t : State) : Prop :=
  t.part part = x ∧ (∀ n, n ≠ part → t.part n = s.part n) ∧ { t with parts := s.parts } = s

end Sys2Proof.Machine
end

