-- ==== Sys2Proof/Certificates/Slice0/Obligations.lean ====
section
/-! DEFINITION. The statements for the provers. -/

open Sys2Proof Sys2Proof.Machine


/-- R151, R152, R154, R165, R166: decoding the bytes of a well-formed instruction gives the instruction back and leaves the bytes
after it, with every field at every value that the encoding admits. -/
def Obligations.DecodeOfEncode : Prop :=
  ∀ (i : Instr) (rest : List Byte), i.wf = true → i.words?.isSome = true → decode (encode i ++ rest) = .ok (i, rest)

/-- R151, R155, R167: bytes that decode are four or eight, hold a well-formed instruction, and are that instruction's encoding, but
for the instructions without fields, before which a prefix may stand that has no effect on them. -/
def Obligations.EncodeOfDecode : Prop :=
  ∀ (bs : List Byte) (i : Instr) (rest : List Byte), decode bs = .ok (i, rest) →
    i.wf = true ∧ i.words?.isSome = true ∧ (bs.length = rest.length + 4 ∨ bs.length = rest.length + 8) ∧
      (i ∈ [Instr.nop, .bar, .bara, .barw, .gbar] ∨ bs = encode i ++ rest)

/-- R155, R165, R166, R167: the words that are no instruction whatever their fields hold, each refused by name. -/
def Obligations.ReservedWordsRefused : Prop :=
  ∀ (v u : BitVec 32) (rest : List Byte),
    let op := (v.extractLsb' 24 8).toNat
    (v = 0 ∨ v = 0xFFFFFFFF → decode (wordBytes v ++ rest) = .error .reservedWord) ∧
    (v ≠ 0 → v ≠ 0xFFFFFFFF →
      op = 0 ∨ 0x14 ≤ op ∧ op < 0x20 ∨ 0x5B ≤ op ∧ op < 0x60 ∨ 0x88 ≤ op ∧ op < 0x90 ∨ op ∈ [0xAE, 0xAF, 0xCF, 0xDF, 0xEF, 0xFF] →
        decode (wordBytes v ++ rest) = .error .reservedOpcode) ∧
    (isPrefixWord v = true → isPrefixWord u = true → decode (wordBytes v ++ wordBytes u ++ rest) = .error .doublePrefix) ∧
    (op ∈ [0xF4, 0xF5, 0xF6, 0xF9] → 4 ≤ (v.extractLsb' 0 3).toNat → v.getLsbD 0 = false →
      decode (wordBytes v ++ rest) = .error .reservedSelector) ∧
    (op ∈ [0x03, 0x0C, 0x0D, 0x10, 0xBE, 0xD2, 0xD3, 0xD4, 0xD5, 0xD6, 0xD7, 0xD8, 0xE0, 0xE1, 0xE2, 0xE3, 0xE7, 0xE8, 0xE9, 0xEB, 0xEC,
        0xED, 0xEE, 0xF1, 0xF4, 0xF5, 0xF6, 0xF7, 0xF9, 0xFA, 0xFD] → v.getLsbD 0 = true →
      decode (wordBytes v ++ rest) = .error .reservedField)

/-- Words that the spec writes out (under R169, R200, R221, R240 and R266) decode to what they stand for. -/
def Obligations.DecodesTheseWords : Prop :=
  let one (v : BitVec 32) (i : Instr) : Prop := decode (wordBytes v) = .ok (i, [])
  let two (p v : BitVec 32) (i : Instr) : Prop := decode (wordBytes p ++ wordBytes v) = .ok (i, [])
  let pre (ext : BitVec 19) : Pre := some { gn := false, gp := 0, ge := false, ext := ext }
  one 0x200A0818 (.add none { d := 5, a := 2, b := 3, la := false, lb := false, nw := false }) ∧
  one 0x6000004D (.fadd none { d := 0, a := 0, b := 9, la := true, lb := false, nw := true }) ∧
  one 0xB008206C (.ld none { d := 4, x := 8, k := 3, order := 1, scope := 2, e := false }) ∧
  two 0xFEA80061 0x210C06A0 (.addi (some { gn := true, gp := 2, ge := true, ext := 97 }) { d := 6, a := 1, imm := 0x2A0 }) ∧
  one 0x080603FB (.brd none { d := 3, a := 0, imm := 0x3FB }) ∧
  one 0x90221028 (.cmpI32 none { d := 17, a := 4, b := 5, la := false, lb := false, nw := false }) ∧
  two 0xFE000030 0x630E0410 (.ffma (pre 0x30) { d := 7, a := 1, b := 2, la := false, lb := false, nw := false }) ∧
  one 0xBF0C0821 (.atomAdd none { d := 6, x := 2, k := 1, order := 0, scope := 0, e := true }) ∧
  one 0xD000001E (.fence none { d := 0, x := 0, k := 0, order := 3, scope := 3, e := false }) ∧
  one 0xD6061C00 (.qpush none { d := 3, a := 7, b := 0 }) ∧
  one 0xE1100040 (.mmaW none { d := 8, a := 0, b := 8 }) ∧
  two 0xFE000001 0xE70A0BC0 (.amovGet (pre 1) { d := 5, a := 2, b := 120 }) ∧
  one 0xF000000C (.fork none 12) ∧
  two 0xFE00000D 0xF20A2064 (.acopy (pre 13) { d := 5, x := 8, k := 3, order := 0, scope := 2, e := false }) ∧
  one 0xF6140862 (.cainsN none { d := 10, a := 2, b := 12 }) ∧
  two 0xFE000060 0xF8080834 (.caswap (pre 0x60) { d := 4, x := 2, k := 1, order := 2, scope := 2, e := false }) ∧
  one 0xFB060020 (.sysrd none { d := 3, a := 0, imm := 0x20 }) ∧
  one 0xFD000406 (.uien none { d := 0, a := 1, b := 0 })

/-- R46, R49, R56, R57, R167: the step runs what the agenda gives. While no turns are lined up, an event of the table runs about its
object when it may come, and does nothing otherwise; with nothing due, the turns of the cycle are lined up. The turn of a core then is
that of the first issuer of its line: its instruction runs as exec does with it in hand, a waiting queue instruction or LDFE tries
again, and a word that is no instruction traps; an issuer that is gone or has had its turn is passed over. When the lines are empty, the
cycle ends. Before the turns of a cycle the step notes what the splits that a user interrupt may go to wait for now, and changes nothing
else of them (R309). The agenda is the model's own (log entries 1 and 21). -/
def Obligations.StepRunsDecoded : Prop :=
  ∀ (s : State) (rest : List Choice),
    let t : State := { s with agenda := rest }
    let n := s.noted exec
    let m : State := { n with agenda := rest }
    (∀ w, { n.sp w with wait := (s.sp w).wait } = s.sp w ∧ (w ∉ s.asked → n.sp w = s.sp w)) ∧ (s.asked = [] → n = s) ∧
    (∀ core w ws, s.agenda = .turn core :: rest → s.lined = true → (s.core core).line = w :: ws →
      let u := t.setCore core { s.core core with line := ws }
      (t.lives w = false ∨ (t.sp w).tried = true → step s = .next u) ∧
      (t.lives w = true → (t.sp w).tried = false →
        ((t.sp w).wait ≠ some .qpush → (t.sp w).wait ≠ some .qpop → (t.sp w).wait ≠ some .ldfe →
          (∀ i v n, u.fetched w = .ok i v n → step s = exec i (u.hand w i v n)) ∧
          (∀ v, u.fetched w = .illegal v →
            step s = ({ u with cur := w, iword := v, iinstr := v, ilen := 4 } : State).trap 1 v (u.lanesAt w v) (u.sp w).pc) ∧
          (∀ va, u.fetched w = .wait va → step s = .next (u.awaitFetch w va))) ∧
        (∀ p x v n, (t.sp w).wait = some .qpush → u.fetched w = .ok (.qpush p x) v n →
          step s = exec (.qpush p x) (({ u with arg := .who w } : State).hand w (.qpush p x) v n)) ∧
        (∀ p x v n, (t.sp w).wait = some .qpop → u.fetched w = .ok (.qpop p x) v n →
          step s = exec (.qpop p x) (({ u with arg := .who w } : State).hand w (.qpop p x) v n)) ∧
        (∀ p x v n, (t.sp w).wait = some .ldfe → u.fetched w = .ok (.ldfeKeep p x) v n →
          step s = exec (.ldfeKeep p x) (({ u with arg := .who w } : State).hand w (.ldfeKeep p x) v n)) ∧
        (∀ p x v n, (t.sp w).wait = some .ldfe → u.fetched w = .ok (.ldfeClr p x) v n →
          step s = exec (.ldfeClr p x) (({ u with arg := .who w } : State).hand w (.ldfeClr p x) v n)))) ∧
    (∀ i a, s.agenda = .event i a :: rest → (n.admits i = false → step s = .next m) ∧
      (n.admits i = true → s.lined = false → step s = exec i { m with arg := a, cur := .nobody })) ∧
    (∀ down, s.agenda = .tick down :: rest → s.cycleOver = true → step s = .next (t.tick down)) ∧
    (s.agenda = [] → s.lined = false → n.due = [] → (n.cores.flatMap fun e => n.groupsDue e.1 e.2) = [] → step s = .next (n.lineUp exec)) ∧
    (s.agenda = [] → s.lined = true → (∀ e ∈ s.cores, (s.core e.1).line = [] ∧ (s.core e.1).late = []) → step s = .next (s.tick 0))

/-- R3, R25, R151, R155, R167, R168, R342: an issuer reads its instruction from memory as its context reads it, through the translations of
its core, one word or two; bytes that do not decode are illegal; an address that is no instruction address is illegal; without a
translation, and at a poisoned line, it waits for the word. An instruction that may begin a chain span waits for the words of the span
too (R52; log entry 66). That a fetch gives the current value is the model's choice (log entry 11). -/
def Obligations.FetchReadsMemory : Prop :=
  ∀ (s : State) (w : Who) (i : Instr) (pa pb : Nat),
    let pc := (s.sp w).pc
    let ctx := (s.blk w).ctx
    let f := s.fetch w.core ctx (s.sp w) pc
    let bytes (a : Nat) : List Byte := s.seenBytes ctx a 4
    let v : Word := BitVec.ofNat 32 (ofBytes (bytes pa))
    let held (a : DWord) : Option (Nat × Nat × Nat) := s.tlb? w.core ctx a fun e => e.x && e.cls == 0
    ((∀ a n, (∀ k, k < n → Config.isCxl (a + k) = false) → s.seenBytes ctx a n = s.mem.readN a n) ∧
      (∀ g sid j u n, w = .split g sid → f = .ok j u n →
        ((shapeOf j).fam ≠ .latch → s.fetched w = f) ∧ (∀ va, s.spanLacks g sid = some va → s.fetched w = .wait va) ∧
        (s.spanLacks g sid = none → s.fetched w = f)) ∧
      ((∀ g sid, w ≠ .split g sid) ∨ (∀ j u n, f ≠ .ok j u n) → s.fetched w = f)) ∧
    (instrAddr pc = false → f = .illegal 0) ∧
    (instrAddr pc = true → (s.sp w).words = [] →
      (held pc = none → f = .wait pc) ∧
      (∀ x, held pc = some (pa, x) → s.poisoned pa = true → f = .wait pc) ∧
      (s.fetchable w pc pa →
        (decode (bytes pa) = .ok (i, []) → f = .ok i v 4) ∧
        (∀ e, e ≠ .truncated → decode (bytes pa) = .error e → f = .illegal v) ∧
        (isPrefixWord v = true → held (pc + 4) = none → f = .wait (pc + 4)) ∧
        (∀ x, isPrefixWord v = true → held (pc + 4) = some (pb, x) → s.poisoned pb = true → f = .wait (pc + 4)) ∧
        (s.fetchable w (pc + 4) pb →
          (decode (bytes pa ++ bytes pb) = .ok (i, []) → f = .ok i v 8) ∧
          (∀ e, isPrefixWord v = true → decode (bytes pa ++ bytes pb) = .error e → f = .illegal v))))

/-- Every step answers a next state, in every state; so does exec of every event, and of every instruction that has an issuer.
Without an issuer an instruction is the fault of that name, which no step reaches. That no state stops the machine is the
model's, with the events that do nothing (log entry 2). -/
def Obligations.AnswersNext : Prop :=
  (∀ s : State, ∃ t, step s = .next t) ∧
  ∀ (s : State) (i : Instr), (isEvent i = true ∨ s.hasIssuer = true → ∃ t, exec i s = .next t) ∧
    (isEvent i = false → s.hasIssuer = false → exec i s = .fault .noIssuer)

/-- R49, R201, R204, R244, R334: a split whose operands are not available, or that a fence of another split of its group holds back,
waits and has used its turn; a feed thread that issues an instruction that feed threads do not execute halts its context with
cause 1. That the slot's issue goes on to another split is the model's reading (log entry 25). -/
def Obligations.NotReadyWaits : Prop :=
  ∀ (s : State) (i : Instr), isEvent i = false → s.hasIssuer = true → ¬s.mayIssue i →
    (∀ g sid, s.cur = .split g sid → exec i s = .next (s.setSp s.cur { s.sp s.cur with wait := some .operand, tried := true })) ∧
    ∀ c b n, s.cur = .thread c b n → ∃ t, exec i s = .next t ∧ s.halted (s.blk s.cur).ctx c (s.slotOf (s.groupOf s.cur)) 1 t

/-- R13, R86, R342, R357, R358, R362: every step keeps the canonical forms of memory, the weight store and the marks of poisoned
lines, the range of the throttle level, and the ranges of the counts of MEMERR. The canonical forms are the model's own (log
entry 3). -/
def Obligations.StepKeepsInv : Prop :=
  ∀ s t : State, s.inv → step s = .next t → t.inv

/-- R42, R262, R285, R305, R356, R361, R362: what reset leaves: the values that the spec gives the registers, no context, nothing that
runs, and what every step keeps. That memory then lists nothing, so that every byte of it reads 0, is the model's choice (log
entry 3). -/
def Obligations.ResetValues : Prop :=
  State.reset.inv ∧
  (∀ (v : RegView) (n : Nat), ∀ e ∈ ([(0x010, 0), (0x011, 0), (0x012, 0), (0x013, 0), (0x020, 850000), (0x021, 1700000), (0x022, 1), (0x030, 0),
      (0x031, 0), (0x038, 0), (0x040, 0), (0x04A, 0), (0x0A2, 4), (0x0A3, 0), (0x0A4, 0), (0x0A5, 0), (0x0AA, 0), (0x0AB, 4096), (0x0AC, 0),
      (0x0D0, 0), (0x0D1, 0), (0x0D2, 0), (0x0D3, 0), (0x0D4, 0), (0x0D5, 0), (0x0D9, 0), (0x0DA, 0), (0x0E0, 850000), (0x0E1, 1700000), (0x0E2, 2000),
      (0x0E3, 1), (0x0E5, 0), (0x0E8, 0), (0x0ED, 256), (0x0EE, 0), (0x0EF, 0), (0x0F0, 0), (0x0F4, 0), (0x0F8, 0), (0x0F9, 0)] : List (Nat × Word)),
    State.reset.readReg v e.1 n = e.2) ∧
  (∀ n, (State.reset.ctx n).created = false) ∧ (∀ w, State.reset.lives w = false) ∧ State.reset.mem = []

/-- R191: the R-format integer instructions give these values: those of two operands, the unary forms, and the forms with a third
operand, a predicate or a pair. -/
def Obligations.IntegerRegisterForms : Prop :=
  (GivesTwo .add (fun _ a b => a + b) ∧ GivesTwo .sub (fun _ a b => a - b) ∧
   GivesTwo .addSatI32 (fun _ a b => satI32 (a.toInt + b.toInt)) ∧ GivesTwo .addSatN32 (fun _ a b => satN32 (a.toNat + b.toNat)) ∧
   GivesTwo .subSatI32 (fun _ a b => satI32 (a.toInt - b.toInt)) ∧ GivesTwo .subSatN32 (fun _ a b => satN32 ((a.toNat : Int) - b.toNat)) ∧
   GivesTwo .mul (fun _ a b => a * b) ∧ GivesTwo .mulhI32 (fun _ a b => mulhI32 a b) ∧ GivesTwo .mulhN32 (fun _ a b => mulhN32 a b) ∧
   GivesTwo .minI32 (fun _ a b => minI32 a b) ∧ GivesTwo .minN32 (fun _ a b => minN32 a b) ∧
   GivesTwo .maxI32 (fun _ a b => maxI32 a b) ∧ GivesTwo .maxN32 (fun _ a b => maxN32 a b) ∧
   GivesTwo .and (fun _ a b => a &&& b) ∧ GivesTwo .or (fun _ a b => a ||| b) ∧ GivesTwo .xor (fun _ a b => a ^^^ b) ∧
   GivesTwo .andn (fun _ a b => a &&& ~~~b) ∧
   GivesTwo .shl (fun _ a b => shlW a b) ∧ GivesTwo .shr (fun _ a b => shrW a b) ∧ GivesTwo .sha (fun _ a b => shaW a b) ∧
   GivesTwo .rol (fun _ a b => rolW a b) ∧ GivesTwo .ror (fun _ a b => rorW a b) ∧
   GivesTwo .bfxrI32 (fun _ a b => bfxI32 a (b.extractLsb' 0 5).toNat ((b.extractLsb' 5 5).toNat + 1)) ∧
   GivesTwo .bfxrN32 (fun _ a b => bfxN32 a (b.extractLsb' 0 5).toNat ((b.extractLsb' 5 5).toNat + 1))) ∧
  (GivesOne .abs (fun _ a => absI32 a) ∧ GivesOne .neg (fun _ a => 0 - a) ∧ GivesOne .not (fun _ a => ~~~a) ∧
   GivesOne .popc (fun _ a => popcW a) ∧ GivesOne .clz (fun _ a => clzW a) ∧ GivesOne .ctz (fun _ a => ctzW a) ∧
   GivesOne .brev (fun _ a => brevW a) ∧ GivesOne .mov (fun _ a => a) ∧
   GivesThree .mad (fun _ a b c => a * b + c) ∧
   (∀ (s : State) p w, s.gives64 (.madwI32 p w) w.nw w.d fun l =>
     BitVec.ofInt 64 ((s.valA w l).toInt * (s.valB w l).toInt) + (s.rf s.cur).pair p.c l) ∧
   (∀ (s : State) p w, s.gives64 (.madwN32 p w) w.nw w.d fun l =>
     BitVec.ofNat 64 ((s.valA w l).toNat * (s.valB w l).toNat) + (s.rf s.cur).pair p.c l) ∧
   (∀ (s : State) p w, s.gives32 (.sel p w) w.nw w.d fun l =>
     if ((s.rf s.cur).pred (p.c.setWidth 3)).getLsbD l then s.valA w l else s.valB w l) ∧
   (∀ (s : State) p w, s.gives64 (.lea p w) w.nw w.d fun l =>
     (s.rf s.cur).pair w.a l + ((s.valB w l).signExtend 64 <<< p.sub.toNat)) ∧
   (∀ (s : State) p w, s.gives32 (.bfir p w) w.nw w.d fun l =>
     bfi ((s.rf s.cur).lane w.d l) (s.valA w l) ((s.valB w l).extractLsb' 0 5).toNat (((s.valB w l).extractLsb' 5 5).toNat + 1)))

/-- R192: the I-format integer instructions give these values of A and the immediate. -/
def Obligations.IntegerImmediates : Prop :=
  GivesImm .addi simm (fun a i => a + i) ∧ GivesImm .muli simm (fun a i => a * i) ∧ GivesImm .rsubi simm (fun a i => i - a) ∧
  GivesImm .miniI32 simm minI32 ∧ GivesImm .miniN32 uimm minN32 ∧ GivesImm .maxiI32 simm maxI32 ∧ GivesImm .maxiN32 uimm maxN32 ∧
  GivesImm .andi simm (fun a i => a &&& i) ∧ GivesImm .ori simm (fun a i => a ||| i) ∧ GivesImm .xori simm (fun a i => a ^^^ i) ∧
  GivesImm .andni simm (fun a i => a &&& ~~~i) ∧
  GivesImm .shli uimm shlW ∧ GivesImm .shri uimm shrW ∧ GivesImm .shai uimm shaW ∧ GivesImm .roli uimm rolW ∧
  GivesImm .movi simm (fun _ i => i) ∧ GivesImm .movh uimm (fun a i => (i <<< 16) ||| (a &&& 0xFFFF)) ∧
  (∀ (s : State) p w, s.gives64 (.leai p w) false w.d fun l => (s.rf s.cur).pair w.a l + (simm p w).signExtend 64) ∧
  (∀ (s : State) p w, s.gives32 (.bfxI32 p w) false w.d fun l =>
    bfxI32 ((s.rf s.cur).lane w.a l) (w.imm.extractLsb' 0 5).toNat ((w.imm.extractLsb' 5 5).toNat + 1)) ∧
  (∀ (s : State) p w, s.gives32 (.bfxN32 p w) false w.d fun l =>
    bfxN32 ((s.rf s.cur).lane w.a l) (w.imm.extractLsb' 0 5).toNat ((w.imm.extractLsb' 5 5).toNat + 1)) ∧
  (∀ (s : State) p w, s.gives32 (.bfi p w) false w.d fun l =>
    bfi ((s.rf s.cur).lane w.d l) ((s.rf s.cur).lane w.a l) (w.imm.extractLsb' 0 5).toNat ((w.imm.extractLsb' 5 5).toNat + 1))

/-- R116, R117, R119 to R121, R123, R191 to R193, R197 to R200, R213: what the functions of words and numbers that these statements
name are, as numbers and bits: the integer functions, the condition codes, the operations of the atomics, the patterns of the formats,
exact sums and products, the one rounding, which overflows only where the rounded result lies beyond the largest finite value, 1 / A
rounded once, the roots as the one rounding of a value that their squares bracket, 2^A and log2 A, the special operands and the class
bits. The bits of a root beyond those that decide the rounding are one bit that stands for all of them. Of 2^A and log2 A it says that the
result is rounded once, exact where A is an integer or a power of two, and between the values at the integers beside A, or at the
powers of two beside it: how near is the model's (log entry 10). -/
def Obligations.WordFunctions : Prop :=
  ((∀ x : Int, (satI32 x).toInt = max (-2147483648) (min x 2147483647)) ∧
   (∀ x : Int, ((satN32 x).toNat : Int) = max 0 (min x 4294967295)) ∧
   (∀ a b : Word, (mulhI32 a b).toInt = a.toInt * b.toInt / 4294967296) ∧
   (∀ a b : Word, (mulhN32 a b).toNat = a.toNat * b.toNat / 4294967296) ∧
   (∀ a b : Word, (minI32 a b).toInt = min a.toInt b.toInt ∧ (maxI32 a b).toInt = max a.toInt b.toInt) ∧
   (∀ a b : Word, (minN32 a b).toNat = min a.toNat b.toNat ∧ (maxN32 a b).toNat = max a.toNat b.toNat) ∧
   (∀ a : Word, (absI32 a).toNat = a.toInt.natAbs) ∧
   (∀ a n : Word, (shlW a n).toNat = a.toNat * 2 ^ n.toNat % 4294967296) ∧
   (∀ a n : Word, (shrW a n).toNat = a.toNat / 2 ^ n.toNat) ∧
   (∀ a n : Word, (shaW a n).toInt = a.toInt / 2 ^ min n.toNat 31) ∧
   (∀ (a n : Word) i, i < 32 → (rolW a n).getLsbD ((i + n.toNat) % 32) = a.getLsbD i ∧ (rorW a n).getLsbD i = a.getLsbD ((i + n.toNat) % 32)) ∧
   (∀ a : Word, (popcW a).toNat = ((List.range 32).map fun i => (a.getLsbD i).toNat).sum) ∧
   (∀ a : Word, (clzW a).toNat = if a = 0 then 32 else 31 - Nat.log2 a.toNat) ∧
   (∀ a : Word, a ≠ 0 → a.getLsbD (ctzW a).toNat = true ∧ ∀ i, i < (ctzW a).toNat → a.getLsbD i = false) ∧
   ctzW 0 = 32 ∧
   (∀ (a : Word) i, i < 32 → (brevW a).getLsbD i = a.getLsbD (31 - i)) ∧
   (∀ (x : Word) pos w, pos < 32 → 1 ≤ w → w ≤ 32 → (bfxN32 x pos w).toNat = x.toNat / 2 ^ pos % 2 ^ w) ∧
   (∀ (x : Word) pos w, pos < 32 → 1 ≤ w → w ≤ 32 → (bfxI32 x pos w).toInt =
     if x.toNat / 2 ^ pos % 2 ^ w < 2 ^ (w - 1) then (x.toNat / 2 ^ pos % 2 ^ w : Int) else (x.toNat / 2 ^ pos % 2 ^ w : Int) - 2 ^ w) ∧
   (∀ (y x : Word) pos w i, pos < 32 → 1 ≤ w → w ≤ 32 → i < 32 → (bfi y x pos w).getLsbD i =
     if pos ≤ i ∧ i < pos + w then x.getLsbD (i - pos) else y.getLsbD i)) ∧
  ((∀ a b : Word, condI32 0 a b = decide (a = b) ∧ condI32 1 a b = decide (a ≠ b) ∧ condI32 2 a b = decide (a.toInt < b.toInt) ∧
     condI32 3 a b = decide (a.toInt ≤ b.toInt) ∧ condI32 4 a b = decide (b.toInt < a.toInt) ∧ condI32 5 a b = decide (b.toInt ≤ a.toInt)) ∧
   (∀ a b : Word, condN32 0 a b = decide (a = b) ∧ condN32 1 a b = decide (a ≠ b) ∧ condN32 2 a b = decide (a.toNat < b.toNat) ∧
     condN32 3 a b = decide (a.toNat ≤ b.toNat) ∧ condN32 4 a b = decide (b.toNat < a.toNat) ∧ condN32 5 a b = decide (b.toNat ≤ a.toNat)) ∧
   (∀ a b : Word, (f32 a).isNan = true ∨ (f32 b).isNan = true → ∀ cc, cc < 8 → condF32 cc a b = decide (cc = 1 ∨ cc = 7)) ∧
   (∀ a b : Word, (f32 a).isNan = false → (f32 b).isNan = false → condF32 6 a b = true ∧ condF32 7 a b = false) ∧
   (∀ a b : Word, (f32 a).isNan = false → (f32 b).isNan = false →
     let o := Fp.cmp (f32 a) (f32 b)
     condF32 0 a b = decide (o = .eq) ∧ condF32 1 a b = decide (o ≠ .eq) ∧ condF32 2 a b = decide (o = .lt) ∧ condF32 3 a b = decide (o ≠ .gt) ∧
       condF32 4 a b = decide (o = .gt) ∧ condF32 5 a b = decide (o ≠ .lt)) ∧
   condF32 0 0x80000000 0 = true ∧ condF32 2 0xBF800000 0x3F800000 = true ∧ condF32 4 0x3F800000 0xBF800000 = true) ∧
  (∀ (m v c : DWord),
     ((atomNew .add 4 m v c).setWidth 32 = (m.setWidth 32 + v.setWidth 32 : Word) ∧ atomNew .add 8 m v c = m + v) ∧
     (atomNew .minS 8 m v c).toInt = min m.toInt v.toInt ∧ (atomNew .maxS 8 m v c).toInt = max m.toInt v.toInt ∧
     (atomNew .minU 8 m v c).toNat = min m.toNat v.toNat ∧ (atomNew .maxU 8 m v c).toNat = max m.toNat v.toNat ∧
     ((atomNew .minS 4 m v c).setWidth 32 : Word).toInt = min (m.setWidth 32 : Word).toInt (v.setWidth 32 : Word).toInt ∧
     ((atomNew .maxU 4 m v c).setWidth 32 : Word).toNat = max (m.setWidth 32 : Word).toNat (v.setWidth 32 : Word).toNat ∧
     ((atomNew .minU 4 m v c).setWidth 32 : Word).toNat = min (m.setWidth 32 : Word).toNat (v.setWidth 32 : Word).toNat ∧
     ((atomNew .maxS 4 m v c).setWidth 32 : Word).toInt = max (m.setWidth 32 : Word).toInt (v.setWidth 32 : Word).toInt ∧
     ((atomNew .and 4 m v c).setWidth 32 : Word) = m.setWidth 32 &&& v.setWidth 32 ∧
     ((atomNew .or 4 m v c).setWidth 32 : Word) = m.setWidth 32 ||| v.setWidth 32 ∧
     ((atomNew .xor 4 m v c).setWidth 32 : Word) = m.setWidth 32 ^^^ v.setWidth 32 ∧ ((atomNew .xchg 4 m v c).setWidth 32 : Word) = v.setWidth 32 ∧
     ((atomNew .fadd 4 m v c).setWidth 32 : Word) = scalar .rn (opAdd .rn) [m.setWidth 32, v.setWidth 32] ∧
     ((atomNew .fmin 4 m v c).setWidth 32 : Word) = scalar .rn opMin [m.setWidth 32, v.setWidth 32] ∧
     ((atomNew .fmax 4 m v c).setWidth 32 : Word) = scalar .rn opMax [m.setWidth 32, v.setWidth 32] ∧
     atomNew .and 8 m v c = m &&& v ∧ atomNew .or 8 m v c = m ||| v ∧ atomNew .xor 8 m v c = m ^^^ v ∧ atomNew .xchg 8 m v c = v ∧
     atomNew .cas 8 m v c = (if m = v then c else m) ∧
     ((atomNew .cas 4 m v c).setWidth 32 : Word) = (if (m.setWidth 32 : Word) = v.setWidth 32 then c.setWidth 32 else m.setWidth 32) ∧
     (atomNew .incw 8 m v c).toNat = (if v.toNat ≤ m.toNat then 0 else m.toNat + 1) ∧
     ((atomNew .incw 4 m v c).setWidth 32 : Word).toNat =
       (if (v.setWidth 32 : Word).toNat ≤ (m.setWidth 32 : Word).toNat then 0 else (m.setWidth 32 : Word).toNat + 1)) ∧
  (let num (neg : Bool) (m : Nat) (k : Int) : Int := (if neg = true then -1 else 1) * (m * 2 ^ k.toNat)
   (∀ rd a b m n x y, ∃ c k z, Fp.add rd (.fin a m x) (.fin b n y) = .fin c k z ∧
     (∀ w, w ≤ x → w ≤ y → w ≤ z → num c k (z - w) = num a m (x - w) + num b n (y - w)) ∧ (k = 0 → c = if a = b then a else rd)) ∧
   (∀ a b m n x y, Fp.mul (.fin a m x) (.fin b n y) = .fin (a != b) (m * n) (x + y)) ∧
   (∀ a b m n x y w, w ≤ x → w ≤ y → Fp.cmp (.fin a m x) (.fin b n y) = compare (num a m (x - w)) (num b n (y - w))) ∧
   (∀ rd a b m x, Fp.add rd (.inf a) (.inf b) = (if a = b then .inf a else .nan) ∧ Fp.add rd (.inf a) (.fin b m x) = .inf a ∧
     Fp.add rd (.fin b m x) (.inf a) = .inf a ∧ Fp.mul (.inf a) (.inf b) = .inf (a != b) ∧
     Fp.mul (.inf a) (.fin b m x) = (if m = 0 then .nan else .inf (a != b)) ∧ Fp.mul (.fin b m x) (.inf a) = (if m = 0 then .nan else .inf (b != a)) ∧
     Fp.cmp (.inf a) (.fin b m x) = (if a = true then .lt else .gt) ∧ Fp.cmp (.fin b m x) (.inf a) = (if a = true then .gt else .lt) ∧
     Fp.cmp (.inf a) (.inf b) = if a = b then .eq else if a = true then .lt else .gt) ∧
   (∀ (x y : Fp), Fp.add false .nan x = .nan ∧ Fp.add false x .nan = .nan ∧ Fp.mul .nan x = .nan ∧ Fp.mul x .nan = .nan ∧
     Fp.min .nan x = x ∧ Fp.min x .nan = x ∧ Fp.max .nan x = x ∧ Fp.max x .nan = x ∧
     (x.isNan = false → y.isNan = false →
       (Fp.cmp x y = .lt → Fp.min x y = x ∧ Fp.max x y = y) ∧ (Fp.cmp x y = .gt → Fp.min x y = y ∧ Fp.max x y = x) ∧
       (Fp.cmp x y = .eq → x.sign = true → Fp.min x y = x ∧ Fp.max x y = y) ∧ (Fp.cmp x y = .eq → x.sign = false → Fp.min x y = y ∧ Fp.max x y = x)))) ∧
  (∀ rm (a b c : Fp), opAdd rm [a, b] = Fp.add (rm == .rd) a b ∧ opSub rm [a, b] = Fp.add (rm == .rd) a b.neg ∧ opMul [a, b] = Fp.mul a b ∧
    opFma rm [a, b, c] = Fp.add (rm == .rd) (Fp.mul a b) c ∧ opFms rm [a, b, c] = Fp.add (rm == .rd) (Fp.mul a b) c.neg ∧
    opFnma rm [a, b, c] = Fp.add (rm == .rd) (Fp.mul a b).neg c ∧ opMin [a, b] = Fp.min a b ∧ opMax [a, b] = Fp.max a b) ∧
  (∀ f : Fmt, f = fp32 ∨ f = fp16 ∨ f = bf16 ∨ f = e4m3 ∨ f = e5m2 →
    (∀ y, y < 2 ^ (f.fw + f.ew + 1) → (f.decode y).isNan = false → f.encode (f.decode y) = y) ∧
    (∀ y, (f.decode y).isNan = false → ∀ neg m e, f.decode y = .fin neg m e →
      let frac := y % 2 ^ f.fw
      let ex := y / 2 ^ f.fw % 2 ^ f.ew
      neg = decide (y / 2 ^ (f.fw + f.ew) % 2 = 1) ∧ (ex = 0 → m = frac ∧ e = 1 - f.bias - f.fw) ∧
        (ex ≠ 0 → m = 2 ^ f.fw + frac ∧ e = (ex : Int) - f.bias - f.fw)) ∧
    (∀ rm, f.round rm .nan = .nan ∧ ∀ a, f.round rm (.inf a) = .inf a) ∧
    (∀ a, f.encode (.inf a) = if f.e4m3 = true then 0x7F else (if a = true then 2 ^ (f.fw + f.ew) else 0) + (2 ^ f.ew - 1) * 2 ^ f.fw) ∧
    (∀ rm neg n d e, n ≠ 0 → d ≠ 0 →
      ∃ ue, let u := n * pow2 (e - ue)
        let v := d * pow2 (ue - e)
        let q := roundUnit rm neg (u / v) (u % v) v
        1 - (f.bias : Int) - f.fw ≤ ue ∧ (ue ≠ 1 - (f.bias : Int) - f.fw → 2 ^ f.fw * v ≤ u) ∧ u < 2 ^ (f.fw + 1) * v ∧
        f.roundRat rm neg n d e =
          if f.largest.1 * pow2 (f.largest.2 - ue) < q * pow2 (ue - f.largest.2) then f.overflow rm neg else .fin neg q ue) ∧
    (∀ neg, let big : Fp := .fin neg f.largest.1 f.largest.2
      (f.e4m3 = true → ∀ rm, f.overflow rm neg = big) ∧
      (f.e4m3 = false → f.overflow .rn neg = .inf neg ∧ (∀ r, f.overflow (.sr r) neg = .inf neg) ∧ f.overflow .rz neg = big ∧
        f.overflow .ru neg = (if neg = true then big else .inf neg) ∧ f.overflow .rd neg = if neg = true then .inf neg else big)) ∧
    (∀ rm a m e, m ≠ 0 → f.rcp rm (.fin a m e) = f.roundRat rm a 1 m (-e)) ∧
    (∀ rm m e, m ≠ 0 → ∃ r h, let u := r * r * pow2 (2 * h - e)
      let v := m * pow2 (e - 2 * h)
      2 ^ (f.fw + 2) ≤ r ∧ u ≤ v ∧ v < (r + 1) * (r + 1) * pow2 (2 * h - e) ∧
      f.sqrt rm (.fin false m e) = if u = v then f.roundRat rm false r 1 h else f.roundRat rm false (2 * r + 1) 1 (h - 1)) ∧
    (∀ y m e, f.decode y = .fin false m e → m ≠ 0 → ∃ r h, let u := r * r * m * pow2 (2 * h + e)
      let v := pow2 (-(2 * h + e))
      2 ^ (f.fw + 2) ≤ r ∧ u ≤ v ∧ v < (r + 1) * (r + 1) * m * pow2 (2 * h + e) ∧
      f.rsq (.fin false m e) = if u = v then f.roundRat .rn false r 1 h else f.roundRat .rn false (2 * r + 1) 1 (h - 1)) ∧
    (∀ y a m e, f.decode y = .fin a m e →
      let i : Int := (if a = true then -1 else 1) * (m * pow2 e : Nat)
      let d : Int := pow2 (-e)
      if i % d = 0 then f.exp2 (.fin a m e) = f.roundRat .rn false 1 1 (i / d)
      else ∃ n, 2 ^ 192 ≤ n ∧ n < 2 ^ 193 ∧ f.exp2 (.fin a m e) = f.roundRat .rn false (2 * n + 1) 1 (i / d - 193)) ∧
    (∀ y m e, f.decode y = .fin false m e → m ≠ 0 →
      let top : Int := Nat.log2 m + e
      if m = 2 ^ Nat.log2 m then f.log2 (.fin false m e) = f.roundRat .rn (decide (top < 0)) top.natAbs 1 0
      else ∃ v : Int, top * 2 ^ 192 ≤ v ∧ v < (top + 1) * 2 ^ 192 ∧
        f.log2 (.fin false m e) = f.roundRat .rn (decide (v < 0)) (2 * v.natAbs + 1) 1 (-193)) ∧
    (∀ rm a (m : Nat) e, f.rcp rm .nan = .nan ∧ f.rsq .nan = .nan ∧ f.sqrt rm .nan = .nan ∧ f.exp2 .nan = .nan ∧ f.log2 .nan = .nan ∧
      f.rcp rm (.inf a) = .fin a 0 0 ∧ f.rcp rm (.fin a 0 e) = .inf a ∧
      f.rsq (.inf false) = .fin false 0 0 ∧ f.rsq (.inf true) = .nan ∧ f.rsq (.fin a 0 e) = .inf a ∧
      f.sqrt rm (.inf false) = .inf false ∧ f.sqrt rm (.inf true) = .nan ∧ f.sqrt rm (.fin a 0 e) = .fin a 0 0 ∧
      f.exp2 (.inf false) = .inf false ∧ f.exp2 (.inf true) = .fin false 0 0 ∧
      f.log2 (.inf false) = .inf false ∧ f.log2 (.inf true) = .nan ∧ f.log2 (.fin a 0 e) = .inf true ∧
      (m ≠ 0 → f.rsq (.fin true m e) = .nan ∧ f.sqrt rm (.fin true m e) = .nan ∧ f.log2 (.fin true m e) = .nan)) ∧
    ∀ x, let frac := x % 2 ^ f.fw
      let ex := x / 2 ^ f.fw % 2 ^ f.ew
      let by_ (a b : Nat) : Nat := if x / 2 ^ (f.fw + f.ew) % 2 = 1 then a else b
      f.classBit x =
        if f.e4m3 = true ∧ ex = 15 ∧ frac = 7 then 9
        else if f.e4m3 = false ∧ ex = 2 ^ f.ew - 1 then (if frac = 0 then by_ 0 7 else if x / 2 ^ (f.fw - 1) % 2 = 1 then 9 else 8)
        else if ex = 0 then (if frac = 0 then by_ 3 4 else by_ 2 5)
        else by_ 1 6) ∧
  ((∀ neg q rem den, rem < den →
     let r := roundUnit .rn neg q rem den
     (2 * rem < den → r = q) ∧ (den < 2 * rem → r = q + 1) ∧ (2 * rem = den → r % 2 = 0 ∧ (r = q ∨ r = q + 1)) ∧ roundUnit .rz neg q rem den = q ∧
       roundUnit .ru neg q rem den = (if rem ≠ 0 ∧ neg = false then q + 1 else q) ∧ roundUnit .rd neg q rem den = (if rem ≠ 0 ∧ neg = true then q + 1 else q) ∧
       ∀ x, roundUnit (.sr x) neg q rem den = if 65536 ≤ rem * 65536 / den + x then q + 1 else q) ∧
   (fp32.nan = 0x7FC00000 ∧ fp16.nan = 0x7E00 ∧ bf16.nan = 0x7FC0 ∧ e4m3.nan = 0x7F ∧ e5m2.nan = 0x7E) ∧
   (∀ ty (a : Word), classMask ty a = (1#32 <<< (match ty with
      | 10 => fp16.classBit (a.toNat % 2 ^ 16)
      | 11 => bf16.classBit (a.toNat % 2 ^ 16)
      | 12 => e4m3.classBit (a.toNat % 2 ^ 8)
      | 13 => e5m2.classBit (a.toNat % 2 ^ 8)
      | _ => fp32.classBit a.toNat))) ∧
   (fp32.round .rn (.fin false (2 ^ 25 - 1) 103) = .inf false ∧ fp32.encode (fp32.round .rn (.fin false (2 ^ 26 - 3) 102)) = 0x7F7FFFFF ∧
     scalar .rn (opAdd .rn) [0x3F800000, 0x33800000] = 0x3F800000 ∧ scalar .ru (opAdd .ru) [0x3F800000, 0x00000001] = 0x3F800001 ∧
     scalar .rn (opAdd .rn) [0x3F800000, 0xBF800000] = 0 ∧ scalar .rd (opAdd .rd) [0x3F800000, 0xBF800000] = 0x80000000 ∧
     scalar .rn opMul [0x00000001, 0x3F000000] = 0 ∧ scalar .ru opMul [0x00000001, 0x3F000000] = 1 ∧
     scalar .rz (opAdd .rz) [0x7F800000, 0x3F800000] = 0x7F800000 ∧
     scalar .rn (op1 fp32.exp2) [0] = 0x3F800000 ∧ scalar .rn (op1 fp32.exp2) [0x80000000] = 0x3F800000 ∧ scalar .rn (op1 fp32.exp2) [0x3F800000] = 0x40000000 ∧
     scalar .rn (op1 fp32.exp2) [0x3F000000] = 0x3FB504F3 ∧ scalar .rn (op1 fp32.exp2) [0xBF000000] = 0x3F3504F3 ∧
     scalar .rn (op1 fp32.exp2) [0x3EAAAAAB] = 0x3FA14518 ∧ scalar .rn (op1 fp32.log2) [0x40400000] = 0x3FCAE00D ∧
     scalar .rn (op1 fp32.log2) [0x3DCCCCCD] = 0xC0549A78 ∧ scalar .rn (op1 fp32.log2) [0x3F7FFFFF] = 0xB3B8AA3C ∧
     scalar .rn (op1 (fp32.sqrt .rn)) [0x40000000] = 0x3FB504F3 ∧ scalar .rn (op1 fp32.rsq) [0x40000000] = 0x3F3504F3 ∧
     scalar .rn (op1 fp32.log2) [0x3F800000] = 0 ∧ scalar .rn (op1 fp32.rsq) [0x3F800000] = 0x3F800000 ∧
     scalar .rn (op1 (fp32.sqrt .rn)) [0x40800000] = 0x40000000 ∧ scalar .rn (op1 (fp32.rcp .rn)) [0x40400000] = 0x3EAAAAAB))

/-- R197, R198, R200: the floating-point instructions round the exact result once, the .x2 forms on each of the two elements of a
register by itself; FCLASS writes a class mask. How FEXP2 and FLOG2 are computed is the model's (log entry 10). -/
def Obligations.FloatArithmetic : Prop :=
  (GivesTwo .fadd (fun p a b => scalar (modeOf p) (opAdd (modeOf p)) [a, b]) ∧
   GivesTwo .fsub (fun p a b => scalar (modeOf p) (opSub (modeOf p)) [a, b]) ∧
   GivesTwo .fmul (fun p a b => scalar (modeOf p) opMul [a, b]) ∧
   GivesThree .ffma (fun p a b c => scalar (modeOf p) (opFma (modeOf p)) [a, b, c]) ∧
   GivesThree .ffms (fun p a b c => scalar (modeOf p) (opFms (modeOf p)) [a, b, c]) ∧
   GivesThree .fnma (fun p a b c => scalar (modeOf p) (opFnma (modeOf p)) [a, b, c]) ∧
   GivesTwo .fmin (fun p a b => scalar (modeOf p) opMin [a, b]) ∧ GivesTwo .fmax (fun p a b => scalar (modeOf p) opMax [a, b]) ∧
   GivesOne .frcp (fun p a => scalar (modeOf p) (op1 (fp32.rcp (modeOf p))) [a]) ∧
   GivesOne .frsq (fun p a => scalar (modeOf p) (op1 fp32.rsq) [a]) ∧
   GivesOne .fsqrt (fun p a => scalar (modeOf p) (op1 (fp32.sqrt (modeOf p))) [a]) ∧
   GivesOne .fexp2 (fun p a => scalar (modeOf p) (op1 fp32.exp2) [a]) ∧ GivesOne .flog2 (fun p a => scalar (modeOf p) (op1 fp32.log2) [a]) ∧
   GivesOne .fclass (fun p a => classMask p.ty.toNat a)) ∧
  (GivesTwo .faddX2 (fun p a b => paired (x2Fmt p) (modeOf p) (opAdd (modeOf p)) [a, b]) ∧
   GivesTwo .fsubX2 (fun p a b => paired (x2Fmt p) (modeOf p) (opSub (modeOf p)) [a, b]) ∧
   GivesTwo .fmulX2 (fun p a b => paired (x2Fmt p) (modeOf p) opMul [a, b]) ∧
   GivesThree .ffmaX2 (fun p a b c => paired (x2Fmt p) (modeOf p) (opFma (modeOf p)) [a, b, c]) ∧
   GivesTwo .fminX2 (fun p a b => paired (x2Fmt p) (modeOf p) opMin [a, b]) ∧
   GivesTwo .fmaxX2 (fun p a b => paired (x2Fmt p) (modeOf p) opMax [a, b]) ∧
   GivesOne .frcpX2 (fun p a => paired (x2Fmt p) (modeOf p) (op1 ((x2Fmt p).rcp (modeOf p))) [a]) ∧
   GivesOne .frsqX2 (fun p a => paired (x2Fmt p) (modeOf p) (op1 (x2Fmt p).rsq) [a]) ∧
   GivesOne .fsqrtX2 (fun p a => paired (x2Fmt p) (modeOf p) (op1 ((x2Fmt p).sqrt (modeOf p))) [a]) ∧
   GivesOne .fexp2X2 (fun p a => paired (x2Fmt p) (modeOf p) (op1 (x2Fmt p).exp2) [a]) ∧
   GivesOne .flog2X2 (fun p a => paired (x2Fmt p) (modeOf p) (op1 (x2Fmt p).log2) [a]))

/-- R118, R122, R236, R237: the conversions, with the random words of .sr (R124) drawn from the generators of the active lanes, and what
they give as numbers: a floating-point value is rounded once to an integer, and what lies outside the range of an integer type becomes
the end of the range beside it; a NaN gives 0 and an infinity the end of the range; an integer source is read with its own sign, and a
narrow result is extended with its own; a number is rounded once to a floating-point format, a NaN becomes the canonical one, and an
infinity stays one. -/
def Obligations.Conversions : Prop :=
  (let ints : List (Nat × Nat × Bool) :=
     [(1, 8, true), (2, 8, false), (3, 16, true), (4, 16, false), (5, 32, true), (6, 32, false), (7, 64, true), (8, 64, false), (14, 4, true)]
   let floats : List (Nat × Fmt) := [(9, fp32), (10, fp16), (11, bf16), (12, e4m3), (13, e5m2)]
   let lo (b : Nat × Nat × Bool) : Int := if b.2.2 = true then -(2 ^ (b.2.1 - 1)) else 0
   let hi (b : Nat × Nat × Bool) : Int := if b.2.2 = true then 2 ^ (b.2.1 - 1) - 1 else 2 ^ b.2.1 - 1
   let held (b : Nat × Nat × Bool) (v : Int) : DWord := BitVec.ofInt 64 (max (lo b) (min v (hi b)))
   let num (a : Nat × Nat × Bool) (x : DWord) : Int :=
     let u := x.toNat % 2 ^ a.2.1
     if a.2.2 = true ∧ 2 ^ (a.2.1 - 1) ≤ u then (u : Int) - 2 ^ a.2.1 else u
   ∀ (rm : Rm) (x : DWord),
     (∀ a ∈ ints, (∀ b ∈ ints, cvt a.1 b.1 rm x = held b (num a x)) ∧
       ∀ b ∈ floats, cvt a.1 b.1 rm x = BitVec.ofNat 64 (b.2.encode (b.2.roundRat rm (decide (num a x < 0)) (num a x).natAbs 1 0))) ∧
     ∀ a ∈ floats, let y := a.2.decode (x.toNat % 2 ^ (a.2.fw + a.2.ew + 1))
       (∀ b ∈ ints, (y = .nan → cvt a.1 b.1 rm x = 0) ∧ (∀ g, y = .inf g → cvt a.1 b.1 rm x = BitVec.ofInt 64 (if g = true then lo b else hi b)) ∧
         ∀ g m e, y = .fin g m e → cvt a.1 b.1 rm x =
           held b ((if g = true then -1 else 1) * (roundUnit rm g (m * pow2 e / pow2 (-e)) (m * pow2 e % pow2 (-e)) (pow2 (-e)) : Int))) ∧
       ∀ b ∈ floats, (y = .nan → cvt a.1 b.1 rm x = BitVec.ofNat 64 b.2.nan) ∧ (∀ g, y = .inf g → cvt a.1 b.1 rm x = BitVec.ofNat 64 (b.2.encode (.inf g))) ∧
         ∀ g m e, y = .fin g m e → cvt a.1 b.1 rm x = BitVec.ofNat 64 (b.2.encode (b.2.roundRat rm g m 1 e))) ∧
  ConvertsWord .cvtFromF32 9 ∧ ConvertsWord .cvtFromF16 10 ∧ ConvertsWord .cvtFromBf16 11 ∧ ConvertsWord .cvtFromE4m3 12 ∧
  ConvertsWord .cvtFromE5m2 13 ∧ ConvertsWord .cvtFromI32 5 ∧ ConvertsWord .cvtFromN32 6 ∧ ConvertsWord .cvtFromI16 3 ∧
  ConvertsWord .cvtFromN16 4 ∧ ConvertsWord .cvtFromI8 1 ∧ ConvertsWord .cvtFromN8 2 ∧ ConvertsWord .cvtFromI4 14 ∧
  (∀ (s : State) p w, s.converts (.cvtFromI64 p w) p w 7 ((s.rf s.cur).pair w.a)) ∧
  (∀ (s : State) p w, s.converts (.cvtFromN64 p w) p w 8 ((s.rf s.cur).pair w.a)) ∧
  ∀ (s : State) p w,
    let f := (fmtOf p.ty.toNat).getD fp16
    let a (l : Nat) : Nat := f.pack (Rm.ofCode p.rm (genWord (s.gens.lane l))) (f32 (s.valA w l))
    let b (l : Nat) : Nat := f.pack (Rm.ofCode p.rm (genWord (genNext (s.gens.lane l)))) (f32 (s.valB w l))
    let put (i : Instr) (v : Nat → Word) : Prop := s.mayIssue i → ∃ t, exec i s = .next t ∧
      s.wrote (if w.nw then s.rf s.cur else (s.rf s.cur).write w.d (s.activeFor i) v) (s.shifted i v) (s.gensAfter i p.rm 2) t
    (put (.cvtPk p w) fun l =>
      if p.ty = 0x0A ∨ p.ty = 0x0B then BitVec.ofNat 16 (b l) ++ BitVec.ofNat 16 (a l)
      else ((s.rf s.cur).lane w.d l).extractLsb' 16 16 ++ BitVec.ofNat 8 (b l) ++ BitVec.ofNat 8 (a l)) ∧
    put (.cvtPkHi p w) fun l => BitVec.ofNat 8 (b l) ++ BitVec.ofNat 8 (a l) ++ ((s.rf s.cur).lane w.d l).extractLsb' 0 16

/-- R193, R194, R196: compares, predicate logic and votes write a predicate, which enters b0 as 1 or 0. -/
def Obligations.PredicateResults : Prop :=
  (∀ (p : Pre) (w : RWord), (Instr.pand p w).words? = some (p, w.bits 0x95) ∧ (Instr.por p w).words? = some (p, w.bits 0x96) ∧
    (Instr.pxor p w).words? = some (p, w.bits 0x97) ∧ (Instr.pnot p w).words? = some (p, w.bits 0x98) ∧ (Instr.pmov p w).words? = some (p, w.bits 0x99) ∧
    (∀ i ∈ [Instr.pand p w, .por p w, .pxor p w, .pnot p w, .pmov p w], i.wf = true →
      w.la = false ∧ w.lb = false ∧ w.d.toNat < 8 ∧ w.a.toNat < 8 ∧ w.b.toNat < 8) ∧
    ∀ i ∈ [Instr.pnot p w, .pmov p w], i.wf = true → w.b = 0) ∧
  (∀ (s : State) p w, s.givesPred (.cmpI32 p w) w.nw w.d (maskOf fun l => condI32 (w.d.extractLsb' 3 4).toNat (s.valA w l) (s.valB w l))) ∧
  (∀ (s : State) p w, s.givesPred (.cmpN32 p w) w.nw w.d (maskOf fun l => condN32 (w.d.extractLsb' 3 4).toNat (s.valA w l) (s.valB w l))) ∧
  (∀ (s : State) p w, s.givesPred (.cmpF32 p w) w.nw w.d (maskOf fun l => condF32 (w.d.extractLsb' 3 4).toNat (s.valA w l) (s.valB w l))) ∧
  (∀ (s : State) p w, s.givesPred (.cmpiI32 p w) false w.d (maskOf fun l => condI32 (w.d.extractLsb' 3 4).toNat ((s.rf s.cur).lane w.a l) (simm p w))) ∧
  (∀ (s : State) p w, s.givesPred (.cmpiN32 p w) false w.d (maskOf fun l => condN32 (w.d.extractLsb' 3 4).toNat ((s.rf s.cur).lane w.a l) (uimm p w))) ∧
  ∀ (s : State) (p : Pre) (w : RWord),
    let x := (s.rf s.cur).pred (w.a.setWidth 3)
    let y := (s.rf s.cur).pred (w.b.setWidth 3)
    let act := s.activeFor
    s.givesPred (.pand p w) w.nw w.d (x &&& y) ∧ s.givesPred (.por p w) w.nw w.d (x ||| y) ∧ s.givesPred (.pxor p w) w.nw w.d (x ^^^ y) ∧
    s.givesPred (.pnot p w) w.nw w.d (~~~x) ∧ s.givesPred (.pmov p w) w.nw w.d x ∧
    s.givesPred (.voteAny p w) w.nw w.d (if x &&& act (.voteAny p w) ≠ 0 then 0xFFFFFFFF else 0) ∧
    s.givesPred (.voteAll p w) w.nw w.d (if x &&& act (.voteAll p w) = act (.voteAll p w) then 0xFFFFFFFF else 0) ∧
    s.givesPred (.voteEq p w) w.nw w.d
      (if x &&& act (.voteEq p w) = act (.voteEq p w) ∨ x &&& act (.voteEq p w) = 0 then 0xFFFFFFFF else 0)

/-- R195, R196: shuffles read the value of another active lane, or their own; BALLOT and REDUX give every active lane one
value. -/
def Obligations.LaneExchange : Prop :=
  (∀ (p : Pre) (w : RWord), (Instr.shflIdx p w).words? = some (p, w.bits 0x9A) ∧ (Instr.shflUp p w).words? = some (p, w.bits 0x9B) ∧
    (Instr.shflDown p w).words? = some (p, w.bits 0x9C) ∧ (Instr.shflXor p w).words? = some (p, w.bits 0x9D)) ∧
  (∀ (p : Pre) (w : IWord), (Instr.shfliIdx p w).words? = some (p, w.bits 0x9E) ∧ (Instr.shfliUp p w).words? = some (p, w.bits 0x9F) ∧
    (Instr.shfliDown p w).words? = some (p, w.bits 0xA0) ∧ (Instr.shfliXor p w).words? = some (p, w.bits 0xA1) ∧
    ∀ i ∈ [Instr.shfliIdx p w, .shfliUp p w, .shfliDown p w, .shfliXor p w], i.wf = true → w.imm.toNat < 32) ∧
  (∀ (s : State) (p : Pre) (w : RWord),
    let put (i : Instr) (j : Nat → Nat → Int) : Prop := s.gives32 i w.nw w.d fun l =>
      s.valA w (shuffleFrom (s.activeFor i) (j l ((s.valB w l).toNat % 32)) l)
    put (.shflIdx p w) (fun _ n => n) ∧ put (.shflUp p w) (fun l n => (l : Int) - n) ∧ put (.shflDown p w) (fun l n => l + n) ∧
      put (.shflXor p w) (fun l n => (l ^^^ n : Nat))) ∧
  (∀ (s : State) (p : Pre) (w : IWord),
    let put (i : Instr) (j : Nat → Nat → Int) : Prop := s.gives32 i false w.d fun l =>
      (s.rf s.cur).lane w.a (shuffleFrom (s.activeFor i) (j l (uimm p w).toNat) l)
    put (.shfliIdx p w) (fun _ n => n) ∧ put (.shfliUp p w) (fun l n => (l : Int) - n) ∧ put (.shfliDown p w) (fun l n => l + n) ∧
      put (.shfliXor p w) (fun l n => (l ^^^ n : Nat))) ∧
  (∀ (s : State) (p : Pre) (w : RWord),
    s.gives32 (.ballot p w) w.nw w.d fun _ => (s.rf s.cur).pred (w.a.setWidth 3) &&& s.activeFor (.ballot p w)) ∧
  ∀ (s : State) (p : Pre) (w : RWord),
    let put (i : Instr) (f : Word → Word → Word) : Prop := s.gives32 i w.nw w.d fun _ =>
      match (lanesOf (s.activeFor i)).map (s.valA w) with
      | [] => 0
      | x :: xs => xs.foldl f x
    put (.reduxAdd p w) (· + ·) ∧ put (.reduxMinI32 p w) minI32 ∧ put (.reduxMinN32 p w) minN32 ∧ put (.reduxMaxI32 p w) maxI32 ∧
      put (.reduxMaxN32 p w) maxN32 ∧ put (.reduxAnd p w) (· &&& ·) ∧ put (.reduxOr p w) (· ||| ·) ∧ put (.reduxXor p w) (· ^^^ ·)

/-- R158 to R161, R212, R322: what writing a register field does to every field of the register file. vN stands in row 16 x WBASE + N,
whichever window base it was written under; a lane register takes the written lanes; a uniform register takes the lowest written
lane's value; a name beyond the window reads 0 and takes nothing; writes of predicates and record slots leave the rest. -/
def Obligations.RegisterWrites : Prop :=
  (∀ (r : RegFile) (f : BitVec 7) m v l, f.toNat < 112 → l < 32 → 16 * r.wbase + f.toNat < 16 * r.units →
    (r.write f m v).lane f l = if m.getLsbD l then v l else r.lane f l) ∧
  (∀ (r : RegFile) (f : BitVec 7) m v l, f.toNat < 112 → 16 * r.units ≤ 16 * r.wbase + f.toNat →
    r.write f m v = r ∧ r.lane f l = 0) ∧
  (∀ (r : RegFile) (f : BitVec 7) m v l, 112 ≤ f.toNat →
    (r.write f m v).lane f l = match lowest m with
      | some k => v k
      | none => r.lane f l) ∧
  (∀ (r : RegFile) (f g : BitVec 7) m v l, f ≠ g → (r.write f m v).lane g l = r.lane g l) ∧
  (∀ (r : RegFile) (f : BitVec 7) m v, (r.write f m v).p = r.p ∧ (r.write f m v).k = r.k ∧ (r.write f m v).wbase = r.wbase ∧
    (r.write f m v).units = r.units) ∧
  (∀ (r : RegFile) (f : BitVec 7) l n, f.toNat < 112 → 16 * n + f.toNat < 16 * r.units →
    ({ r with wbase := n } : RegFile).lane f l = (FMap.get Row.zero r.rows (16 * n + f.toNat)).lane l) ∧
  (∀ (r : RegFile) (f g : BitVec 7) m v l n, f.toNat < 112 → g.toNat < 112 → l < 32 → 16 * r.wbase + f.toNat < 16 * r.units →
    16 * n + g.toNat = 16 * r.wbase + f.toNat → ({ r.write f m v with wbase := n } : RegFile).lane g l = if m.getLsbD l then v l else r.lane f l) ∧
  (∀ (r : RegFile) n m v k w, { r.writePred n m v with p := r.p } = r ∧ { r.writeRec k w with k := r.k } = r) ∧
  (∀ (r : RegFile) (n : BitVec 3) m v k, (r.writePred n m v).pred k = if k = n then (r.pred n &&& ~~~m) ||| (v &&& m) else r.pred k) ∧
  ∀ (r : RegFile) (k j : BitVec 5) v, (r.writeRec k v).rcd j = if j = k then v &&& ~~~(0xFF#256 <<< 184) else r.rcd j


/-- R151, R156, R183, R185, R186: the branches, the calls and the return send each lane of the split to its next address, its parts in
R183's order: the first goes on in the issuing split, the next become splits while the group has fewer than four, and the rest are pushed,
the first of them on top; a call writes v110:v111 of its active lanes and a branch writes no register. A target is the address of the instruction, whose first word a
prefix is, plus 4 x the offset. -/
def Obligations.BranchesAndCalls : Prop :=
  ((∀ (s : State) p w, s.branches (.bra p w) (s.rf s.cur) (s.nextIf (.bra p w) (targetC (s.sp s.cur).pc w) fun _ => true)) ∧
   (∀ (s : State) p w, s.branches (.braR p w) (s.rf s.cur) fun l =>
     if (s.activeFor (.braR p w)).getLsbD l then (s.rf s.cur).pair w.a l else s.fall) ∧
   (∀ (s : State) (p : Pre) (w : IWord),
     let target := targetI (s.sp s.cur).pc p w
     let pred (l : Nat) : Bool := ((s.rf s.cur).pred (w.d.setWidth 3)).getLsbD l
     let zero (l : Nat) : Bool := (s.rf s.cur).lane w.a l == 0
     let some? (i : Instr) (t : Nat → Bool) : Bool := (List.range 32).any fun l => (s.activeFor i).getLsbD l && t l
     let all? (i : Instr) (t : Nat → Bool) : Bool :=
       some? i (fun _ => true) && (List.range 32).all fun l => !(s.activeFor i).getLsbD l || t l
     let sends (i : Instr) (t : Nat → Bool) : Prop := s.branches i (s.rf s.cur) (s.nextIf i target t)
     sends (.brcAny p w) (fun _ => some? (.brcAny p w) pred) ∧ sends (.brcAll p w) (fun _ => all? (.brcAll p w) pred) ∧
       sends (.brcZ p w) (fun _ => all? (.brcZ p w) zero) ∧ sends (.brcNz p w) (fun _ => some? (.brcNz p w) fun l => !zero l) ∧
       sends (.brd p w) pred ∧ sends (.brdZ p w) zero ∧ sends (.brdNz p w) fun l => !zero l) ∧
   (∀ (s : State) p w, s.branches (.call p w) ((s.rf s.cur).writePair 110 (s.activeFor (.call p w)) fun _ => s.fall)
     (s.nextIf (.call p w) (targetC (s.sp s.cur).pc w) fun _ => true)) ∧
   (∀ (s : State) p w, s.branches (.callR p w) ((s.rf s.cur).writePair 110 (s.activeFor (.callR p w)) fun _ => s.fall) fun l =>
     if (s.activeFor (.callR p w)).getLsbD l then (s.rf s.cur).pair w.a l else s.fall) ∧
   ∀ (s : State) p w, s.branches (.ret p w) (s.rf s.cur) fun l =>
     if (s.activeFor (.ret p w)).getLsbD l then (s.rf s.cur).pair 110 l else s.fall) ∧
  ((∀ (pc : DWord) (w : CWord), (targetC pc w).toInt = (pc.toInt + 4 * w.toInt).bmod (2 ^ 64)) ∧
   (∀ (pc : DWord) (w : IWord), (targetI pc none w).toInt = (pc.toInt + 4 * w.imm.toInt).bmod (2 ^ 64)) ∧
   ∀ (pc : DWord) (q : Prefix) (w : IWord), (targetI pc (some q) w).toInt = (pc.toInt + 4 * (q.ext ++ w.imm).toInt).bmod (2 ^ 64))

/-- R188: WBASE and WBASE.r set the window base, unless no lane is active; a value above 31 is R323's illegal instruction, or, in
the word of WBASE, no instruction. -/
def Obligations.WindowBase : Prop :=
  (∀ p w, (Instr.wbase p w).wf = true → w.imm.toNat ≤ 31) ∧
  (∀ (s : State) p w, s.givesRegs (.wbase p w)
    (if s.activeFor (.wbase p w) = 0 then s.rf s.cur else { s.rf s.cur with wbase := w.imm.toNat })) ∧
  (∀ (s : State) p w, lowest (s.activeFor (.wbaseR p w)) = none → s.givesRegs (.wbaseR p w) (s.rf s.cur)) ∧
  (∀ (s : State) p w l, lowest (s.activeFor (.wbaseR p w)) = some l → ((s.rf s.cur).lane w.a l).toNat ≤ 31 →
    s.givesRegs (.wbaseR p w) { s.rf s.cur with wbase := ((s.rf s.cur).lane w.a l).toNat }) ∧
  ∀ (s : State) p w l g sid, lowest (s.activeFor (.wbaseR p w)) = some l → 31 < ((s.rf s.cur).lane w.a l).toNat → s.mayIssue (.wbaseR p w) →
    s.cur = .split g sid → s.canTrap g sid → ∃ t, exec (.wbaseR p w) s = .next t ∧
      (s.trapping g sid).entersTrap g sid 1 s.iword (s.activeFor (.wbaseR p w)) (s.sp s.cur).pc t

/-- R189, R190: NOP only goes on; YIELD goes on and waits for the splits that are ready on its issue slot at its priority, or 64 ck of its core;
with no active lane it has no effect. Which splits count as ready is the model's reading (log entry 29). -/
def Obligations.NopAndYield : Prop :=
  (∀ (s : State), s.givesRegs .nop (s.rf s.cur)) ∧
  (∀ (s : State) p w, s.activeFor (.yield p w) = 0 → s.givesRegs (.yield p w) (s.rf s.cur)) ∧
  ∀ (s : State) p w g sid, s.cur = .split g sid → s.mayIssue (.yield p w) → ∃ t, exec (.yield p w) s = .next t ∧
    s.wrote (s.rf s.cur) s.readLatches s.gens t ∧
    (s.activeFor (.yield p w) ≠ 0 → ∃ peers, (t.sp s.cur).yield = some (peers, t.issues, s.coreCk g.core + 64) ∧
      ∀ x, x ∈ peers ↔ x ∈ (s.core g.core).ready ∧ x ≠ s.cur ∧ ∃ h k, x = .split h k ∧ h.core = g.core ∧
        (s.blk x).prio = (s.blk s.cur).prio ∧ ((s.blk x).place.slot + h.ix) % 4 = ((s.blk s.cur).place.slot + g.ix) % 4)

/-- R187, R27, R29, R30: EXIT takes the active lanes from the split and from every stack entry, and an entry left empty leaves
the stack; a split left empty ends, the rest of a split goes on, and a group with no split and no entry retires. A feed
thread retires. -/
def Obligations.ExitEndsLanes : Prop :=
  (∀ (s : State) p w g sid, s.cur = .split g sid → s.mayIssue (.exit p w) → ∃ t, exec (.exit p w) s = .next t ∧
    let m := (s.sp s.cur).mask &&& ~~~(s.activeFor (.exit p w))
    (t.sp s.cur).mask = m ∧ (t.sp s.cur).live = (m != 0) ∧ (m ≠ 0 → (t.sp s.cur).pc = s.fall) ∧
    (t.group g).stack = ((s.group g).stack.map fun e => { e with mask := e.mask &&& ~~~(s.activeFor (.exit p w)) }).filter (·.mask != 0) ∧
    ((t.group g).live = true ↔ (t.group g).liveSplits ≠ [] ∨ (t.group g).stack ≠ []) ∧
    let u := t.setGroup g { (t.group g).setSplit sid { t.sp s.cur with mask := (s.sp s.cur).mask, live := (s.sp s.cur).live } with
      stack := (s.group g).stack, live := (s.group g).live, sb := (s.group g).sb, arrB := (s.group g).arrB, arrBAt := (s.group g).arrBAt,
      bara := (s.group g).bara }
    s.keepsOwn (s.rf s.cur) s.readLatches s.gens u) ∧
  ∀ (s : State) p w c b n, s.cur = .thread c b n → s.mayIssue (.exit p w) → ∃ t, exec (.exit p w) s = .next t ∧
    ((t.block c b).thread n).ended = (s.activeFor (.exit p w) != 0) ∧
    s.keepsOwn (s.rf s.cur) s.readLatches s.gens (t.setBlock c b ((t.block c b).setThread n { (t.block c b).thread n with ended := false }))

/-- R190, R303, R304, R307: TRAP with an active lane enters the handler with cause 6, its code and the address after it; while
another split of the group is in a handler a split outside waits; with a full stack or no handler the context halts. As a split traps or
halts its instruction has issued (R189). A feed thread does not execute TRAP: it halts with cause 1 (R334). -/
def Obligations.TrapInstruction : Prop :=
  (∀ (s : State) p w, s.activeFor (.trap p w) = 0 → s.givesRegs (.trap p w) (s.rf s.cur)) ∧
  (∀ (s : State) p w c b n, s.cur = .thread c b n → s.hasIssuer = true → s.resuming s.cur = false →
    ∃ t, exec (.trap p w) s = .next t ∧ s.halted (s.blk s.cur).ctx c (s.slotOf (s.groupOf s.cur)) 1 t) ∧
  ∀ (s : State) p w g sid, s.activeFor (.trap p w) ≠ 0 → s.mayIssue (.trap p w) → s.cur = .split g sid →
    (s.canTrap g sid → ∃ t, exec (.trap p w) s = .next t ∧
      (s.trapping g sid).entersTrap g sid 6 (w.setWidth 32) (s.activeFor (.trap p w)) s.fall t) ∧
    (((s.group g).split sid).depth = 0 → (s.group g).othersInHandler sid = true →
      ∃ t, exec (.trap p w) s = .next t ∧ (t.sp s.cur).wait = some .handler ∧ (t.sp s.cur).pc = (s.sp s.cur).pc ∧
        s.keepsOwn (s.rf s.cur) (s.latches s.cur) s.gens t) ∧
    ((((s.group g).split sid).depth = 0 → (s.group g).othersInHandler sid = false) →
      16 ≤ (s.group g).stack.length ∨ (s.ctx (s.blk s.cur).ctx).handler = 0 →
      ∃ t, exec (.trap p w) s = .next t ∧ (s.trapping g sid).halted (s.blk s.cur).ctx g.core (s.slotOf g) 6 t)

/-- R306, R323: SPOP with an active lane gives the split the address and the lanes of the trap entry on top, one depth less,
and restores nothing else; it waits while other splits share its depth; without a trap entry on top it is illegal, whether or not other
splits share its depth: that this comes first is the model's choice (log entry 95). -/
def Obligations.TrapReturn : Prop :=
  (∀ (s : State) p w, s.activeFor (.spop p w) = 0 → s.givesRegs (.spop p w) (s.rf s.cur)) ∧
  ∀ (s : State) p w g sid, s.activeFor (.spop p w) ≠ 0 → s.mayIssue (.spop p w) → s.cur = .split g sid →
    let gr := (s.issued (.spop p w)).s.group g
    let shared := gr.liveSplits.any fun x => x.1 != sid && x.2.depth == ((s.group g).split sid).depth
    (∀ e rest, (s.group g).stack = e :: rest → e.trap = true → shared = false → ∃ t, exec (.spop p w) s = .next t ∧
      (t.group g).stack = rest ∧ (t.sp s.cur).pc = e.pc ∧ (t.sp s.cur).mask = e.mask ∧ (t.sp s.cur).depth = (s.sp s.cur).depth - 1 ∧
      s.keepsOwn (s.rf s.cur) s.readLatches s.gens (t.setGroup g
        { (t.group g).setSplit sid { t.sp s.cur with mask := (s.sp s.cur).mask, depth := (s.sp s.cur).depth } with stack := (s.group g).stack })) ∧
    (∀ e rest, (s.group g).stack = e :: rest → e.trap = true → shared = true → ∃ t, exec (.spop p w) s = .next t ∧
      (t.sp s.cur).wait = some .merge ∧ (t.sp s.cur).pc = (s.sp s.cur).pc ∧ s.keepsOwn (s.rf s.cur) (s.latches s.cur) s.gens t) ∧
    ((∀ e rest, (s.group g).stack = e :: rest → e.trap = false) → s.canTrap g sid → ∃ t, exec (.spop p w) s = .next t ∧
      (s.trapping g sid).entersTrap g sid 1 s.iword (s.activeFor (.spop p w)) (s.sp s.cur).pc t)

/-- R302, R303, R308: every control instruction that would push k entries onto a stack of n, with n + k beyond 15, takes cause 5 with
XINFO = k, at its own address and before any effect. Every load, store, full/empty instruction, probe, atomic, CASWAP, copy, record load,
matrix store and fill, and LAUNCH, with a lane that takes the bounds trap takes cause 2 with the record slot and the lanes that take it, and
performs no lane; the scoreboard entry of an LDFE that has waited goes with it (R204). BCOPY and CACOPY take it in their lowest active lane,
with the slot of the first record of mode trap that their bytes leave (R251; log entry 42). -/
def Obligations.TrapCauses : Prop :=
  ((∀ (s : State) p w, s.overflows (.bra p w) (s.nextIf (.bra p w) (targetC (s.sp s.cur).pc w) fun _ => true)) ∧
   (∀ (s : State) p w, s.overflows (.braR p w) fun l => if (s.activeFor (.braR p w)).getLsbD l then (s.rf s.cur).pair w.a l else s.fall) ∧
   (∀ (s : State) (p : Pre) (w : IWord),
     let target := targetI (s.sp s.cur).pc p w
     let pred (l : Nat) : Bool := ((s.rf s.cur).pred (w.d.setWidth 3)).getLsbD l
     let zero (l : Nat) : Bool := (s.rf s.cur).lane w.a l == 0
     let some? (i : Instr) (t : Nat → Bool) : Bool := (List.range 32).any fun l => (s.activeFor i).getLsbD l && t l
     let all? (i : Instr) (t : Nat → Bool) : Bool :=
       some? i (fun _ => true) && (List.range 32).all fun l => !(s.activeFor i).getLsbD l || t l
     let pushes (i : Instr) (t : Nat → Bool) : Prop := s.overflows i (s.nextIf i target t)
     pushes (.brcAny p w) (fun _ => some? (.brcAny p w) pred) ∧ pushes (.brcAll p w) (fun _ => all? (.brcAll p w) pred) ∧
       pushes (.brcZ p w) (fun _ => all? (.brcZ p w) zero) ∧ pushes (.brcNz p w) (fun _ => some? (.brcNz p w) fun l => !zero l) ∧
       pushes (.brd p w) pred ∧ pushes (.brdZ p w) zero ∧ pushes (.brdNz p w) fun l => !zero l) ∧
   (∀ (s : State) p w, s.overflows (.call p w) (s.nextIf (.call p w) (targetC (s.sp s.cur).pc w) fun _ => true)) ∧
   (∀ (s : State) p w, s.overflows (.callR p w) fun l => if (s.activeFor (.callR p w)).getLsbD l then (s.rf s.cur).pair w.a l else s.fall) ∧
   ∀ (s : State) p w, s.overflows (.ret p w) fun l => if (s.activeFor (.ret p w)).getLsbD l then (s.rf s.cur).pair 110 l else s.fall) ∧
  (∀ (s : State) (p : Pre) (w : MWord),
    let r := s.operands.rcd w.k
    let size := tySize p.ty
    let takes (i : Instr) (n : Nat) : Prop := s.boundsTraps i w.k (s.targetsOf i w.k w.x w.e n)
    let even (i : Instr) (n : Nat) : Prop := noWrites r = false ∧ ∀ l, (s.activeFor i).getLsbD l = true → odd r (s.operands.lane w.x l) w.e n = false
    let fits (i : Instr) (n : Nat) : Prop :=
      reservedFormat r = false ∧ ∀ l, (s.activeFor i).getLsbD l = true → (s.issued i).badDest w.d n l = false
    (s.boardFree → takes (.ld p w) size ∧ takes (.ldB128 p w) 16 ∧ takes (.ldt p w) size) ∧
    (noWrites r = false → takes (.st p w) size ∧ takes (.stB128 p w) 16) ∧
    (fePlace r = true →
      (s.boardFree → ∀ i ∈ [Instr.ldfeKeep p w, .ldfeClr p w], ∀ g sid, s.cur = .split g sid → s.mayIssue i → s.canTrap g sid →
        let ts := s.targetsOf i w.k w.x w.e size
        (∃ x ∈ ts, x.2 = .bounds) → ∃ t, exec i s = .next t ∧ ((s.setGroup g { s.group g with sb := s.ldfeFreed g }).trapping g sid).entersTrap g sid 2 (w.k.setWidth 32)
          (maskOf fun l => ts.any fun x => x.1 == l && x.2 == .bounds) (s.sp s.cur).pc t) ∧
      takes (.stfe p w) size ∧ takes (.feset p w) (feBytes w) ∧ takes (.feclr p w) (feBytes w)) ∧
    (∀ i ∈ [Instr.atomAdd p w, .atomMin p w, .atomMax p w, .atomAnd p w, .atomOr p w, .atomXor p w, .atomXchg p w, .atomCas p w, .atomIncw p w],
      even i size → s.boardFree → takes i size) ∧
    (∀ i ∈ [Instr.redAdd p w, .redMin p w, .redMax p w, .redAnd p w, .redOr p w, .redXor p w], even i size → takes i size) ∧
    (∀ i ∈ [Instr.atomfAdd p w, .atomfMin p w, .atomfMax p w], even i 4 → s.boardFree → takes i 4) ∧
    (recSpace r = .global → even (.caswap p w) 8 → s.boardFree → takes (.caswap p w) 8) ∧
    (fits (.acopy p w) (acopySize p.sub) → takes (.acopy p w) (acopySize p.sub)) ∧
    (recSpace r = .global → (∀ l, (s.activeFor (.mfill p w)).getLsbD l = true → laneOffset r (s.operands.lane w.x l) w.e % 128 = 0) →
      fits (.mfill p w) 128 → takes (.mfill p w) 128) ∧
    ∀ isB : Bool,
      let i : Instr := if isB then .acopyB p w else .acopyA p w
      let b := s.blk s.cur
      let ty := recFormat r
      let rows := (entryShape isB ty).1
      (w.d.setWidth 5).toNat < b.g * b.f → (matK ty).isSome = true → ∀ l, lowest (s.activeFor i) = some l →
        let x := s.operands.lane w.x l
        s.boundsTraps i w.k ((s.entryParts s.cur r isB (laneOffset r x w.e) (entrySpots r x w.e rows (rowBytesOf isB ty))).map fun y => (l, y.2.1))) ∧
  (∀ (s : State) (p : Pre) (w : MWord),
    let r := s.operands.rcd w.k
    let l0 (i : Instr) : Nat := (lowest (s.activeFor i)).getD 0
    let one (i : Instr) (n : Nat) : Targets := [(l0 i, s.target s.cur r (s.operands.lane w.x (l0 i)) w.e n)]
    let onTile (i : Instr) (ns : List Nat) (ts : Targets) : Prop := ∀ g sid, s.cur = .split g sid → s.activeFor i ≠ 0 → s.tilesFree g ns → s.boundsTraps i w.k ts
    let rows (i : Instr) (n : Nat) (scaled : Bool) (pre : Fp) (xs : List (Int × List Nat × Fp)) : Targets :=
      (s.astWrites s.cur r n scaled pre (astSpots r (s.operands.lane w.x (l0 i)) w.e (128 * n)) xs).map fun x => (l0 i, x.1)
    let d := w.d.toNat
    let g := s.issuer
    let pre := ru (Fp.add false (bndArith (g.bnd d)) (bndInh (g.bnd d)))
    (s.activeFor (.rld p w) ≠ 0 → rldOdd r (s.operands.lane w.x (l0 (.rld p w))) w.e = false → s.boardFree →
      s.boundsTraps (.rld p w) w.k (one (.rld p w) 32)) ∧
    onTile (.afill p w) [d] (one (.afill p w) 8208) ∧
    (noWrites r = false → onTile (.adrain p w) [d] (one (.adrain p w) 8208) ∧
      (∀ f, astFormat r p.rm = some f →
        let n := (f.fw + f.ew + 1) / 8
        onTile (.ast p w) [d] (rows (.ast p w) n true pre (astRows f p.rm s.gens fun k => f32 ((g.tile d).elem k))) ∧
        onTile (.astW p w) [d, d + 4] (rows (.astW p w) n true pre
          (astRows f p.rm s.gens fun k => Fp.add false (f32 ((g.tile d).elem k)) (f32 ((g.tile (d + 4)).elem k))))) ∧
      ∀ n, astInt r = some n → onTile (.astI p w) [d] (rows (.astI p w) n false pre ((List.range 16).map fun i =>
        (0, (List.range 128).map fun j => saturate n ((g.tile d).elem (128 * i + j)).toInt, .fin false 0 0))))) ∧
  ∀ (s : State) (p : Pre) (w : SWord) (l : Nat),
    let ra := s.operands.rcd (w.a.setWidth 5)
    let rb := s.operands.rcd (w.b.setWidth 5)
    let part := (s.blk s.cur).part
    let takes (i : Instr) (k : BitVec 7) : Prop := ∀ g sid, s.cur = .split g sid → s.mayIssue i → s.canTrap g sid → ∃ t, exec i s = .next t ∧
      (s.trapping g sid).entersTrap g sid 2 ((k.setWidth 5).setWidth 32) (1#32 <<< l) (s.sp s.cur).pc t
    let job := recFormat ra < 0x12 ∧ recFormat rb < 0x12
    let writes (len : Nat) : Prop := recSpace ra = .global ∨ (recSpace ra = .weight ∧ s.jobSegs part ra len = true)
    (lowest (s.activeFor (.launch p w)) = some l → (s.sp s.cur).lpb = none → (s.sp s.cur).wait ≠ some .lpb → s.clsOwed s.cur 0 s.covers = false →
      s.boundsTraps (.launch p w) (w.a.setWidth 5) [(l, s.target s.cur ra (s.operands.lane w.b l) false 128)]) ∧
    (lowest (s.activeFor (.bcopy p w)) = some l →
      let n := (s.operands.lane p.c l).toNat
      let len := jobLength n [ra, rb]
      let reads := recSpace rb = .global ∨ recSpace rb = .peer ∨ recSpace rb = .tree ∨ recSpace rb = .reserved ∨
        (recSpace rb = .weight ∧ (s.blk s.cur).wsr = true ∧ s.jobSegs part rb len = true)
      job → writes len → reads → (jobTraps n ra = true → takes (.bcopy p w) w.a) ∧
        (jobTraps n ra = false → jobTraps n rb = true ∨ (recSpace rb = .reserved ∧ recMode rb = .trap) → takes (.bcopy p w) w.b)) ∧
    (lowest (s.activeFor (.cacopy p w)) = some l →
      let n := 128 * ((recExtent rb + 127) / 128)
      job → writes (jobLength n [ra]) → recSpace rb = .tree → jobTraps n ra = true → takes (.cacopy p w) w.a)

/-- R202, R203, R206: the loads. That a scratchpad answers at issue is the model's (log entry 6). -/
def Obligations.Loads : Prop :=
  (∀ (s : State) p w, s.loads (.ld p w) w p.ty (tySize p.ty)) ∧ ∀ (s : State) p w, s.loads (.ldB128 p w) w 0 16

/-- R202, R203, R206, R325: the stores; through a record of the weight store or of a tree they are illegal, whether or not a lane is active.
That a scratchpad is written at issue is the model's (log entry 6). -/
def Obligations.Stores : Prop :=
  (∀ (s : State) p w, s.storesOf (.st p w) w (tySize p.ty)) ∧ (∀ (s : State) p w, s.storesOf (.stB128 p w) w 16) ∧
  ∀ (s : State) (p : Pre) (w : MWord), recSpace (s.operands.rcd w.k) = .weight ∨ recSpace (s.operands.rcd w.k) = .tree →
    s.illegalFate (.st p w) ∧ s.illegalFate (.stB128 p w)

/-- R82, R204, R208, R325: the full/empty instructions. LDFE takes its step in the lanes of
each scratchpad whose granules are all full and waits in the others, which go on from the registers of its issue; the instruction is over
with the last of them. STFE, FESET and FECLR act in each scratchpad at once. Through a record of another space than the two scratchpad spaces
they are illegal, whether or not a lane is active. Log entries 6, 32 and 37 say what is the model's reading. -/
def Obligations.FullEmpty : Prop :=
  (∀ (s : State) p w, s.ldfeOf (.ldfeKeep p w) p w false) ∧ (∀ (s : State) p w, s.ldfeOf (.ldfeClr p w) p w true) ∧
  (∀ (s : State) p w, s.marksOf (.stfe p w) w (tySize p.ty) true true true) ∧
  (∀ (s : State) p w, s.marksOf (.feset p w) w (16 * (w.d.toNat + 1)) true true false) ∧
  (∀ (s : State) p w, s.marksOf (.feclr p w) w (16 * (w.d.toNat + 1)) false false false) ∧
  ∀ (s : State) (p : Pre) (w : MWord), recSpace (s.operands.rcd w.k) ≠ .block → recSpace (s.operands.rcd w.k) ≠ .gang →
    s.illegalFate (.ldfeKeep p w) ∧ s.illegalFate (.ldfeClr p w) ∧ s.illegalFate (.stfe p w) ∧ s.illegalFate (.feset p w) ∧ s.illegalFate (.feclr p w)

/-- R90, R209, R210: LDT probes the global space line by line, the line in which an access begins before the one in which it goes on, and elsewhere loads and sets its predicate in the active lanes; PREF reads,
for each active lane inside the extent of a record of the global space, the translation that the core holds or that a walk ends at; a
walk sets the accessed bit of the leaf that it ends at and nothing else of memory changes; no register is written. A probe that finds its page
near gives the lanes whose access ends there their bytes and a predicate of 1, once the whole access has been near, and tells the line in which
an access goes on; one that finds it far clears the predicate of the lanes that no far page has met before, and for them posts one page-in of
the page, or adds its event to the one that is open. That LDT decides
lane by lane is the model's reading (log entry 28), and that a scratchpad answers at issue is the model's (log entry 6). -/
def Obligations.ProbeAndPrefetch : Prop :=
  (∀ (s : State) (p : Pre) (w : MWord),
    let i : Instr := .ldt p w
    let r := s.operands.rcd w.k
    let size := tySize p.ty
    let ts := s.targetsOf i w.k w.x w.e size
    let lines := gatherLines (ts.lines size)
    let pd : BitVec 3 := p.c.setWidth 3
    s.mayIssue i → s.boardFree → s.accessFree (orderRel w.order) w.scope ts 0 → ∃ t, exec i s = .next t ∧
      (recSpace r = .global → s.wrote (s.rf s.cur) s.readLatches s.gens (s.unsent t) ∧
        s.sends t .global 0 w.order w.scope ((inLine lines).map fun x => (.probe (recEvent r), x.1, x.2)) ∧
        s.posts t ((s.operands.dest w.d (regCount size)).filterMap id ++ [.pred pd.toNat]) lines.length) ∧
      (recSpace r ≠ .global →
        s.wrote (((s.rf s.cur).writePred pd (s.activeFor i) (s.activeFor i)).under s.operands.wbase fun r => r.writeRun w.d (regCount size)
          (onceIn w.d (s.activeFor i) (ts.mask fun t => !t.isLine)) fun l => loadWords p.ty size (s.bytesAt (ts.of l) size))
          s.readLatches s.gens (s.unsent t) ∧
        s.sends t (recSpace r) 0 w.order w.scope (lines.map fun x => (.load, x.1, x.2)))) ∧
  (∀ (s : State) (r : Req) pa cls tier ev, s.arg = .num r.id → s.req? r.id = some r → r.st = .mapped pa cls tier → s.mayGo r = true →
    r.kind = .probe ev → s.settles r →
    let ends (p : Piece) : Bool := p.first + p.n == r.land.size
    let got (p : Piece) : Option (List Byte) := r.soFar (fun i => s.seenBy r.ctx (pa + i)) p
    let gives (f : Piece → Option (List Byte)) (t : State) : Prop := t.req? r.id = none ∧
      let on := r.pieces.filter fun p => !ends p
      ∀ n, n ≠ r.id → t.req? n = (s.req? n).map fun q => if on ≠ [] ∧ q.follows r = true then { q with carry := q.carry ++ on.map fun p => (p.lane, f p) } else q
    (tier = 0 → (∀ p ∈ r.pieces, ∀ i, i < p.n → s.poisoned (pa + p.off + i) = false) → ∃ t, exec .completion s = .next t ∧ gives got t ∧
      (s.drained r).landed r ((r.pieces.filter ends).flatMap fun p => match got p with
        | some bs => r.land.writes p.lane 0 bs ++ r.land.predWrite p.lane true
        | none => []) t) ∧
    (tier = 0 → (∃ p ∈ r.pieces, ∃ i, i < p.n ∧ s.poisoned (pa + p.off + i) = true) → ∃ t, exec .completion s = .next t ∧ (s.drained r).failsTo r 4 0 t) ∧
    ∀ level at_ e, tier ≠ 0 → s.walk r.ctx r.va = .leaf level at_ e → ∃ t, exec .completion s = .next t ∧ gives (fun _ => none) t ∧
      let asks := r.pieces.filter fun p => !r.carry.any fun c => c.1 == p.lane && c.2.isNone
      let page := va57 r.va / levelSize level * levelSize level
      let here (j : Job) : Bool := j.kind == .pageIn && j.ctx == r.ctx && j.page == page
      (s.drained r).landed r (asks.flatMap fun p => r.land.predWrite p.lane false) { t with jobs := s.jobs, nextId := s.nextId } ∧
      (asks = [] → t.jobs = s.jobs) ∧
      (asks ≠ [] → (∃ j ∈ s.jobs, here j = true) → t.jobs = s.jobs.map fun j => if here j = true then
        { j with ev := if ev ∈ j.ev then j.ev else j.ev ++ [ev], also := j.also ++ [(r.party, r.seq)] } else j) ∧
      (asks ≠ [] → (∀ j ∈ s.jobs, here j = false) → ∃ j, t.jobs = s.jobs ++ [j] ∧ j.kind = .pageIn ∧ j.ctx = r.ctx ∧ j.page = page ∧
        j.size = levelSize level ∧ j.leafAt = at_ ∧ j.leaf = e ∧ j.ev = [ev] ∧ j.phase = 0 ∧ j.frame = none)) ∧
  (∀ ls : List (DWord × List Piece), (inLine ls).Perm ls ∧ (inLine ls).Pairwise fun x y => x.1.toInt ≤ y.1.toInt) ∧
  (∀ (s : State) (p : Pre) (w : MWord), s.mayIssue (.pref p w) → ∃ t, exec (.pref p w) s = .next t ∧
    let r := s.operands.rcd w.k
    let vas := (lanesOf (s.activeFor (.pref p w))).filterMap fun l =>
      let off := laneOffset r (s.operands.lane w.x l) w.e
      if 0 ≤ off ∧ off + 1 ≤ recExtent r then some (addrOf r off) else none
    let u := vas.foldl (fun u va => u.prefetch s.cur.core (s.blk s.cur).ctx va r) s
    let v := { t with l2 := s.l2, mem := s.mem }
    s.wrote (s.rf s.cur) s.readLatches s.gens
      (v.setCore s.cur.core { v.core s.cur.core with tlb := (s.core s.cur.core).tlb, l1 := (s.core s.cur.core).l1 }) ∧
    (recSpace r = .global → t.mem = u.mem ∧ t.l2 = u.l2 ∧ (t.core s.cur.core).tlb = (u.core s.cur.core).tlb ∧
      (t.core s.cur.core).l1 = (u.core s.cur.core).l1) ∧
    (recSpace r ≠ .global → s.wrote (s.rf s.cur) s.readLatches s.gens t)) ∧
  ∀ (s : State) (core ctx : Nat) (va : DWord) (r : BufRec),
    let t := s.prefetch core ctx va r
    let held := s.tlb? core ctx va fun e => e.rd && e.cls == 0
    let u := t.setCore core { t.core core with tlb := (s.core core).tlb, l1 := (s.core core).l1 }
    { u with cores := s.cores, l2 := s.l2, mem := s.mem } = s ∧ (∀ c, u.core c = s.core c) ∧
    (held ≠ none → t.mem = s.mem ∧ (t.core core).tlb = (s.core core).tlb) ∧
    (held = none → (s.markers.contains (ctx, granuleOf va) = true ∨ ∃ c l e, s.translate ctx va .read false false = .fail c l e) → t = s) ∧
    ∀ pa cls tier level leaf e, held = none → s.markers.contains (ctx, granuleOf va) = false →
      s.translate ctx va .read false false = .ok pa cls tier level leaf e →
      t.mem.readN leaf 8 = bytesOf (e ||| 1#64 <<< 56) 8 ∧ ∀ a, a < leaf ∨ leaf + 8 ≤ a → t.mem.read a = s.mem.read a

/-- R67, R211, R212: the record instructions act on slots through the lowest active lane, and RGET reads a word in every active
lane; a record write clears bits 191:184. RLD at an address that is no multiple of 32 is illegal (R325). That a scratchpad answers RLD at issue
is the model's (log entry 6). -/
def Obligations.RecordInstructions : Prop :=
  (∀ (s : State) (p : Pre) (w : IWord), s.givesRegs (.rset p w) (match lowest (s.activeFor (.rset p w)) with
    | none => s.rf s.cur
    | some l => (s.rf s.cur).writeRec (w.d.setWidth 5)
      (setRecWord (s.operands.rcd (w.d.setWidth 5)) (w.imm.toNat % 8) (s.operands.lane w.a l)))) ∧
  (∀ (s : State) (p : Pre) (w : IWord), s.givesRegs (.rget p w) ((s.rf s.cur).write w.d (s.activeFor (.rget p w)) fun _ =>
    (s.operands.rcd (w.a.setWidth 5)).extractLsb' (32 * (w.imm.toNat % 8)) 32)) ∧
  (∀ (s : State) (p : Pre) (w : SWord), s.givesRegs (.rmov p w) (if s.activeFor (.rmov p w) = 0 then s.rf s.cur
    else (s.rf s.cur).writeRec (w.d.setWidth 5) (s.operands.rcd (w.a.setWidth 5)))) ∧
  (∀ (s : State) (p : Pre) (w : MWord), lowest (s.activeFor (.rld p w)) = none → s.givesRegs (.rld p w) (s.rf s.cur)) ∧
  (∀ (s : State) (p : Pre) (w : MWord) l, lowest (s.activeFor (.rld p w)) = some l →
    let r := s.operands.rcd w.k
    let t0 := s.target s.cur r (s.operands.lane w.x l) w.e 32
    let lines := gatherLines (Targets.lines [(l, t0)] 32)
    s.mayIssue (.rld p w) → rldOdd r (s.operands.lane w.x l) w.e = false → s.boardFree →
      s.accessFree (orderRel w.order) w.scope [(l, t0)] 0 → ∃ t, exec (.rld p w) s = .next t ∧
      s.wrote (if t0.isLine then s.rf s.cur
        else (s.rf s.cur).writeRec (w.d.setWidth 5) (BitVec.ofNat 256 (ofBytes (s.bytesAt t0 32)))) s.readLatches s.gens (s.unsent t) ∧
      s.sends t (recSpace r) 0 w.order w.scope (lines.map fun x => (.load, x.1, x.2)) ∧
      s.posts t [.slot (w.d.setWidth 5).toNat] lines.length) ∧
  (∀ (s : State) (p : Pre) (w : MWord) l off, lowest (s.activeFor (.rld p w)) = some l →
    accessOf (s.operands.rcd w.k) (s.operands.lane w.x l) w.e 32 = .at off → (addrOf (s.operands.rcd w.k) off).toNat % 32 ≠ 0 →
    s.illegalFate (.rld p w)) ∧
  (∀ (r : BufRec) n v i, n < 8 → i < 256 → (setRecWord r n v).getLsbD i = if 32 * n ≤ i ∧ i < 32 * n + 32 then v.getLsbD (i - 32 * n) else r.getLsbD i)

/-- R213, R214, R301, R325, R326: the atomics. Through a record of the weight store or of a tree, or with an active lane whose address is no
multiple of its size, they are illegal. When the operands are read is the model's reading (log entry 37); that lanes in scratchpads act at
issue, with their old values in the registers at once and no scoreboard entry, is the model's (log entry 6), as is that the group's earlier
atomics come before them (R106; log entry 23). -/
def Obligations.Atomics : Prop :=
  ∀ (s : State) (p : Pre) (w : MWord),
    let un := p.ty = 6 ∨ p.ty = 8
    s.atomOf (.atomAdd p w) w p.ty .add 0 true ∧ s.atomOf (.atomMin p w) w p.ty (if un then .minU else .minS) 0 true ∧
    s.atomOf (.atomMax p w) w p.ty (if un then .maxU else .maxS) 0 true ∧ s.atomOf (.atomAnd p w) w p.ty .and 0 true ∧
    s.atomOf (.atomOr p w) w p.ty .or 0 true ∧ s.atomOf (.atomXor p w) w p.ty .xor 0 true ∧
    s.atomOf (.atomXchg p w) w p.ty .xchg 0 true ∧ s.atomOf (.atomCas p w) w p.ty .cas p.c true ∧
    s.atomOf (.atomIncw p w) w p.ty .incw 0 true ∧
    s.atomOf (.redAdd p w) w p.ty .add 0 false ∧ s.atomOf (.redMin p w) w p.ty (if un then .minU else .minS) 0 false ∧
    s.atomOf (.redMax p w) w p.ty (if un then .maxU else .maxS) 0 false ∧ s.atomOf (.redAnd p w) w p.ty .and 0 false ∧
    s.atomOf (.redOr p w) w p.ty .or 0 false ∧ s.atomOf (.redXor p w) w p.ty .xor 0 false ∧
    s.atomOf (.atomfAdd p w) w 9 .fadd 0 true ∧ s.atomOf (.atomfMin p w) w 9 .fmin 0 true ∧ s.atomOf (.atomfMax p w) w 9 .fmax 0 true ∧
    let r := s.operands.rcd w.k
    let bad (i : Instr) (size : Nat) : Prop := recSpace r = .weight ∨ recSpace r = .tree ∨
      ∃ l off, l < 32 ∧ (s.activeFor i).getLsbD l = true ∧ accessOf r (s.operands.lane w.x l) w.e size = .at off ∧ (addrOf r off).toNat % size ≠ 0
    (∀ i ∈ [Instr.atomAdd p w, .atomMin p w, .atomMax p w, .atomAnd p w, .atomOr p w, .atomXor p w, .atomXchg p w, .atomCas p w, .atomIncw p w,
      .redAdd p w, .redMin p w, .redMax p w, .redAnd p w, .redOr p w, .redXor p w], bad i (tySize p.ty) → s.illegalFate i) ∧
    ∀ i ∈ [Instr.atomfAdd p w, .atomfMin p w, .atomfMax p w], bad i 4 → s.illegalFate i

/-- R66, R67, R68, R70, R84, R86, R325: the address of an access, inside the extent, clamped, dropped or trapped; and where it then goes by
the space of its record: to the pages of the context, to the block's own scratchpad or, through the gang window, to that of the block
with the index in the address, inside the block's allocation alone; to the weight store in the segments of the partition, for a kernel
that may read it; to the tree; or nowhere. That a data address has no form to keep is the model's reading (log entry 17). -/
def Obligations.AccessAddress : Prop :=
  (∀ (r : BufRec) (x : Word) (e : Bool) (size : Nat), 0 < size →
    let off : Int := if e then x.toNat * (r.extractLsb' 104 24).toInt + (x.toNat + 1) * (r.extractLsb' 128 24).toInt else x.toNat
    let extent : Int := (r.extractLsb' 64 40).toNat
    let mode := (r.extractLsb' 160 3).toNat
    (mode = 0 ∨ (0 ≤ off ∧ off + size ≤ extent) → accessOf r x e size = .at off) ∧
    (mode = 2 → ¬(0 ≤ off ∧ off + size ≤ extent) → (size : Int) ≤ extent →
      accessOf r x e size = .at (min (max off 0) (extent - size))) ∧
    (mode = 2 → extent < size → ¬(0 ≤ off ∧ off + size ≤ extent) → accessOf r x e size = .dropped) ∧
    (mode = 3 → ¬(0 ≤ off ∧ off + size ≤ extent) → accessOf r x e size = .dropped) ∧
    ((mode = 1 ∨ 4 ≤ mode) → ¬(0 ≤ off ∧ off + size ≤ extent) → accessOf r x e size = .bounds) ∧
    (addrOf r off).toInt = ((r.extractLsb' 0 64).toInt + off).bmod (2 ^ 64)) ∧
  ∀ (s : State) (w : Who) (r : BufRec) (x : Word) (e : Bool) (size : Nat), 0 < size →
    let code := (r.extractLsb' 163 3).toNat
    let mode := (r.extractLsb' 160 3).toNat
    let none_ : Tgt := if mode = 1 ∨ 4 ≤ mode then .bounds else .drop
    let b := s.blk w
    let goes (t : Tgt) : Prop := s.target w r x e size = t
    (6 ≤ code → goes none_) ∧
    (code < 6 → (accessOf r x e size = .dropped → goes .drop) ∧ (accessOf r x e size = .bounds → goes .bounds)) ∧
    ∀ off, accessOf r x e size = .at off →
      let a := (addrOf r off).toNat
      let seg (i : Nat) : Bool := (s.part b.part).segs.getLsbD ((a + i) / 2 ^ 25)
      let n := a / 2 ^ 18
      let inside (core block : Nat) : Prop := (s.block core block).live = true ∧ (s.block core block).gang = b.gang
      (code = 0 → goes (.line .global (addrOf r off))) ∧ (code = 5 → goes (.line .peer (addrOf r off))) ∧
      (code = 4 → goes (.line .tree (BitVec.ofInt 64 off))) ∧
      (code = 1 → goes (if a + size ≤ b.g * b.sp * 128 then .scratch w.core w.block a else none_)) ∧
      (code = 3 → b.wsr = true → a + size ≤ 2 ^ 32 → (∀ i, i < size → seg i = true) → goes (.line .weight (addrOf r off))) ∧
      (code = 3 → b.wsr = false ∨ 2 ^ 32 < a + size ∨ (∃ i, i < size ∧ seg i = false) → goes none_) ∧
      (code = 2 → (s.gang b.gang).blocks[n]? = none → goes none_) ∧
      ∀ core block, code = 2 → (s.gang b.gang).blocks[n]? = some (core, block) →
        let t := s.block core block
        (inside core block → goes (if a % 2 ^ 18 + size ≤ t.g * t.sp * 128 then .scratch core block (a % 2 ^ 18) else none_)) ∧
        (¬inside core block → s.swapped b.gang core block b.ctx = true → goes .away) ∧
        (¬inside core block → s.swapped b.gang core block b.ctx = false → goes none_)

/-- R18, R104, R113, R204, R215: FENCE completes when the accesses that it covers have been performed, those in which other splits of the group
wait among them, and XFENCE when those of its first class have, and at system scope when the relaxed channels that the issuer has used are
empty of what stood before; either only when no request before it is parked or is known to go where it may be (log entry 23); until then
they wait, each on what stood before it. At system scope the issuer counts as a user of the
relaxed channels no more. -/
def Obligations.Fences : Prop :=
  (∀ (s : State) (p : Pre) (w : MWord), s.mayIssue (.fence p w) →
    let old := (s.owedBy s.cur).filter fun q => q.cls == 0 && decide (q.seq < s.covers)
    let owes := (∃ q ∈ old, w.order.getLsbD 1 = true ∨ q.need ≠ .write) ∨
      (∃ x ∈ s.copies, x.isWalk = true ∧ x.party = s.cur.party ∧ x.id < s.covers) ∨
      (∃ x ∈ s.waiters s.cur.party s.cur, x.1 < s.covers ∧ (w.order.getLsbD 1 = true ∨ writesOnly x.2 = false)) ∨
      s.parkedBefore s.cur.party s.covers = true ∨ (w.scope = 3 ∧ s.relaxedOwed s.cur.party s.covers = true)
    (w.order = 0 ∨ ¬owes → ∃ t, exec (.fence p w) s = .next t ∧ s.wrote (s.rf s.cur) s.readLatches s.gens { t with ports := s.ports } ∧
      ∀ n, t.port n = if w.order ≠ 0 ∧ w.scope = 3 then { s.port n with users := (s.port n).users.filter (· != s.cur.party) } else s.port n) ∧
    (w.order ≠ 0 → owes → ∃ t, exec (.fence p w) s = .next t ∧ s.blocks t (.fence (w.order.getLsbD 0) (w.order.getLsbD 1)) ∧
      (t.sp s.cur).walks = some s.covers)) ∧
  ∀ (s : State) (p : Pre) (w : MWord), s.mayIssue (.xfence p w) →
    let owes := s.classOwed s.cur (w.d.extractLsb' 0 3).toNat s.covers = true ∨ s.parkedBefore s.cur.party s.covers = true ∨ (w.scope = 3 ∧ s.relaxedOwed s.cur.party s.covers = true)
    (¬owes → ∃ t, exec (.xfence p w) s = .next t ∧ s.wrote (s.rf s.cur) s.readLatches s.gens { t with ports := s.ports } ∧
      ∀ n, t.port n = if w.scope = 3 then { s.port n with users := (s.port n).users.filter (· != s.cur.party) } else s.port n) ∧
    (owes → ∃ t, exec (.xfence p w) s = .next t ∧ s.blocks t (.xfence (w.d.extractLsb' 3 3).toNat) ∧
      (t.sp s.cur).walks = some s.covers)

/-- R32, R216, R217: a split leaves BAR or GBAR when the phase for which it waits has completed; until then it waits, and its group
arrives once all its lanes do. BARA arrives without waiting, and waits only while its group has arrived already; BARW waits
while its group has arrived at a phase that is not complete. A guard of one is read before it issues (R157; `State.guardOf`), and leaves its
effect as it is: the model's reading (log entries 19 and 51). -/
def Obligations.Barriers : Prop :=
  (∀ (s : State) g sid, s.cur = .split g sid → s.mayIssue .bar →
    let phase := (s.block g.core g.block).phase
    let passed := (s.sp s.cur).walks.any (· != phase)
    (passed = true → ∃ t, exec .bar s = .next t ∧ s.wrote (s.rf s.cur) s.readLatches s.gens t) ∧
    (passed = false → ∃ t, exec .bar s = .next t ∧ s.blocks (s.unarrived t) .bar ∧ (t.sp s.cur).walks = some phase ∧
      ((t.group g).arrB = some phase ↔ (s.group g).arrB = some phase ∨ (t.group g).allAtBar phase (s.group g).bara))) ∧
  (∀ (s : State) g sid, s.cur = .split g sid → s.mayIssue .bara →
    let phase := (s.block g.core g.block).phase
    ((s.group g).arrB ≠ some phase → ∃ t, exec .bara s = .next t ∧ s.wrote (s.rf s.cur) s.readLatches s.gens (s.unarrived t) ∧
      ((t.group g).arrB = some phase ↔ (t.group g).allAtBar phase ((s.group g).bara ||| (s.sp s.cur).mask)) ∧
      (t.group g).bara = if (t.group g).arrB = some phase then 0 else (s.group g).bara ||| (s.sp s.cur).mask) ∧
    ((s.group g).arrB = some phase → ∃ t, exec .bara s = .next t ∧ s.blocks t .barw ∧ (t.sp s.cur).walks = some phase)) ∧
  (∀ (s : State) g sid, s.cur = .split g sid → s.mayIssue .barw →
    let phase := (s.block g.core g.block).phase
    let passed := (s.sp s.cur).walks.any (· != phase)
    ((s.group g).arrB ≠ some phase ∨ passed = true → ∃ t, exec .barw s = .next t ∧
      s.wrote (s.rf s.cur) s.readLatches s.gens t) ∧
    ((s.group g).arrB = some phase → passed = false → ∃ t, exec .barw s = .next t ∧ s.blocks t .barw ∧
      (t.sp s.cur).walks = some phase)) ∧
  ∀ (s : State) g sid, s.cur = .split g sid → s.mayIssue .gbar →
    let phase := (s.gang (s.block g.core g.block).gang).phase
    let passed := (s.sp s.cur).walks.any (· != phase)
    (passed = true → ∃ t, exec .gbar s = .next t ∧ s.wrote (s.rf s.cur) s.readLatches s.gens t) ∧
    (passed = false → ∃ t, exec .gbar s = .next t ∧ s.blocks (s.unarrived t) .gbar ∧ (t.sp s.cur).walks = some phase ∧
      ((t.group g).arrG = some phase ↔ (s.group g).arrG = some phase ∨ (t.group g).allAtGbar phase))

/-- R54, R55, R218, R219, R326: the queue instructions. QPUSH is not ready while an access of class .simt before it, one in which another split
waits among them, has yet to be performed (R108, R114). The instructions that wait at a queue which QINIT sets up have had their turn of the
cycle: they test its new state from the next cycle on. -/
def Obligations.Queues : Prop :=
  (∀ (s : State) (p : Pre) (w : SWord) l, lowest (s.activeFor (.qpush p w)) = some l → s.mayIssue (.qpush p w) → s.acquired →
    s.clsOwed s.cur 0 s.covers = false →
    let n := w.d.toNat % 16
    let q := (s.blk s.cur).queue n
    let at_ := 128 * (q.base + q.tail / 32) + 4 * (q.tail % 32)
    (q.allow ≠ 0 → ∃ t, exec (.qpush p w) s = .next t ∧ s.wrote (s.rf s.cur) s.readLatches s.gens (s.unblock t) ∧
      s.queued t n { q with tail := (q.tail + 1) % q.cap, count := q.count + 1, allow := q.allow - 1 } ∧
      (t.blk s.cur).bytes at_ 4 = bytesOf (s.operands.lane w.a l) 4 ∧
      ∀ a, a < at_ ∨ at_ + 4 ≤ a → FMap.get 0 (t.blk s.cur).scratch a = FMap.get 0 (s.blk s.cur).scratch a) ∧
    (q.allow = 0 → ∃ t, exec (.qpush p w) s = .next t ∧ s.blocks t .qpush ∧ (t.sp s.cur).walks = some n)) ∧
  (∀ (s : State) (p : Pre) (w : SWord), s.activeFor (.qpush p w) ≠ 0 → s.mayIssue (.qpush p w) → s.resuming s.cur = false →
    s.acquireOwed s.cur = true ∨ s.clsOwed s.cur 0 s.nextId = true → ∃ t, exec (.qpush p w) s = .next t ∧ s.waits t .operand) ∧
  (∀ (s : State) (p : Pre) (w : SWord), s.activeFor (.qpop p w) ≠ 0 → s.mayIssue (.qpop p w) → s.acquired →
    let n := w.a.toNat % 16
    let q := (s.blk s.cur).queue n
    let head := BitVec.ofNat 32 (ofBytes ((s.blk s.cur).bytes (128 * (q.base + q.head / 32) + 4 * (q.head % 32)) 4))
    (q.count ≠ 0 → ∃ t, exec (.qpop p w) s = .next t ∧
      s.wrote ((s.rf s.cur).under s.operands.wbase fun r => r.write w.d (s.activeFor (.qpop p w)) fun _ => head) s.readLatches s.gens (s.unblock t) ∧
      s.queued t n { q with head := (q.head + 1) % q.cap, count := q.count - 1 } ∧ (t.blk s.cur).scratch = (s.blk s.cur).scratch) ∧
    (q.count = 0 → ∃ t, exec (.qpop p w) s = .next t ∧ s.blocks t .qpop ∧ (t.sp s.cur).walks = some n)) ∧
  (∀ (s : State) (p : Pre) (w : SWord), s.activeFor (.qtry p w) ≠ 0 → s.mayIssue (.qtry p w) → s.acquired →
    let n := w.a.toNat % 16
    let q := (s.blk s.cur).queue n
    let act := s.activeFor (.qtry p w)
    let head := BitVec.ofNat 32 (ofBytes ((s.blk s.cur).bytes (128 * (q.base + q.head / 32) + 4 * (q.head % 32)) 4))
    (q.count ≠ 0 → ∃ t, exec (.qtry p w) s = .next t ∧
      s.wrote (((s.rf s.cur).write w.d act fun _ => head).writePred (w.b.setWidth 3) act act) s.readLatches s.gens (s.unblock t) ∧
      s.queued t n { q with head := (q.head + 1) % q.cap, count := q.count - 1 } ∧ (t.blk s.cur).scratch = (s.blk s.cur).scratch) ∧
    (q.count = 0 → ∃ t, exec (.qtry p w) s = .next t ∧
      s.wrote ((s.rf s.cur).writePred (w.b.setWidth 3) act 0) s.readLatches s.gens t)) ∧
  (∀ (s : State) (p : Pre) (w : IWord), s.activeFor (.qallow p w) ≠ 0 → s.mayIssue (.qallow p w) →
    let n := w.d.toNat % 16
    let q := (s.blk s.cur).queue n
    ∃ t, exec (.qallow p w) s = .next t ∧ s.wrote (s.rf s.cur) s.readLatches s.gens (s.unblock t) ∧
      s.queued t n { q with allow := min (q.allow + (uimm p w).toNat) (q.cap - q.count) } ∧ (t.blk s.cur).scratch = (s.blk s.cur).scratch) ∧
  (∀ (s : State) (p : Pre) (w : IWord) l, lowest (s.activeFor (.qinit p w)) = some l → s.mayIssue (.qinit p w) →
    let base := (s.operands.lane w.a l).toNat
    let cap := w.imm.toNat + 1
    let rows := (s.blk s.cur).g * (s.blk s.cur).sp
    let n := w.d.toNat % 16
    (base + (cap + 31) / 32 ≤ rows → ∃ t, exec (.qinit p w) s = .next t ∧ s.wrote (s.rf s.cur) s.readLatches s.gens (s.unskipped (s.unblock t)) ∧
      (∀ ix sid, let x := ((s.blk s.cur).group ix).split sid
        let y := ((t.blk s.cur).group ix).split sid
        (∀ g, s.cur = .split g sid → ix ≠ g.ix) → y.tried = (x.tried || (x.wait == some .qpush || x.wait == some .qpop) && x.walks == some n)) ∧
      s.queued t n { cap := cap, base := base, head := 0, tail := 0, count := 0, allow := cap } ∧
      (t.blk s.cur).scratch = (s.blk s.cur).scratch) ∧
    (rows < base + (cap + 31) / 32 → ∀ g sid, s.cur = .split g sid → s.canTrap g sid → ∃ t, exec (.qinit p w) s = .next t ∧
      (s.trapping g sid).entersTrap g sid 1 s.iword (s.activeFor (.qinit p w)) (s.sp s.cur).pc t)) ∧
  ∀ (s : State) (p : Pre) (w : SWord) (v : IWord),
    (s.activeFor (.qpush p w) = 0 → s.givesRegs (.qpush p w) (s.rf s.cur)) ∧ (s.activeFor (.qpop p w) = 0 → s.givesRegs (.qpop p w) (s.rf s.cur)) ∧
    (s.activeFor (.qtry p w) = 0 → s.givesRegs (.qtry p w) (s.rf s.cur)) ∧ (s.activeFor (.qallow p v) = 0 → s.givesRegs (.qallow p v) (s.rf s.cur)) ∧
    (s.activeFor (.qinit p v) = 0 → s.givesRegs (.qinit p v) (s.rf s.cur))

/-- R46, R220, R221: the event instructions on the bit that the lowest active lane names. EVSET and EVCLR act at the end of the
cycle, EVTEST reads the vector as at the end of the last one, and EVWAIT completes once the end of a cycle has found the bit
set. At the end of a cycle the vector takes the clears and then the sets of the cycle, no mark of either stays, and an EVWAIT whose bit
is set is released. Log entry 51 says what is the model's reading. -/
def Obligations.Events : Prop :=
  (∀ (s : State) (p : Pre) (w : IWord) l, lowest (s.activeFor (.evset p w)) = some l → s.mayIssue (.evset p w) →
    (s.clsOwed s.cur 0 s.covers = false → ∃ t, exec (.evset p w) s = .next t ∧ s.wrote (s.rf s.cur) s.readLatches s.gens (s.unctx t) ∧
      s.eventsOf t ((s.ctx (s.blk s.cur).ctx).evSet ||| 1#256 <<< (s.eventBit w l % 256)) (s.ctx (s.blk s.cur).ctx).evClear) ∧
    (s.clsOwed s.cur 0 s.covers = true → ∃ t, exec (.evset p w) s = .next t ∧ s.blocks t .release ∧ (t.sp s.cur).walks = some s.covers)) ∧
  (∀ (s : State) (p : Pre) (w : IWord) l, lowest (s.activeFor (.evclr p w)) = some l → s.mayIssue (.evclr p w) →
    ∃ t, exec (.evclr p w) s = .next t ∧ s.wrote (s.rf s.cur) s.readLatches s.gens (s.unctx t) ∧
      s.eventsOf t (s.ctx (s.blk s.cur).ctx).evSet ((s.ctx (s.blk s.cur).ctx).evClear ||| 1#256 <<< (s.eventBit w l % 256))) ∧
  (∀ (s : State) (p : Pre) (w : IWord) l, lowest (s.activeFor (.evtest p w)) = some l → s.givesRegs (.evtest p w)
    ((s.rf s.cur).writePred (w.d.setWidth 3) (s.activeFor (.evtest p w))
      (if (s.ctx (s.blk s.cur).ctx).ev.getLsbD (s.eventBit w l) then s.activeFor (.evtest p w) else 0))) ∧
  (∀ (s : State) (p : Pre) (w : IWord) l, lowest (s.activeFor (.evwait p w)) = some l → s.mayIssue (.evwait p w) →
    ((s.sp s.cur).walks = some 256 → ∃ t, exec (.evwait p w) s = .next t ∧ s.wrote (s.rf s.cur) s.readLatches s.gens t) ∧
    ((s.sp s.cur).walks = none → ∃ t, exec (.evwait p w) s = .next t ∧ s.blocks t .event ∧ (t.sp s.cur).walks = some (s.eventBit w l)) ∧
    (∀ n, (s.sp s.cur).walks = some n → n ≠ 256 → ∃ t, exec (.evwait p w) s = .next t ∧ s.blocks t .event ∧ (t.sp s.cur).walks = some n)) ∧
  (∀ (s : State) (down : Nat), s.killst.getLsbD 31 = false →
    let t := s.tick down
    let next (c : Nat) : BitVec 256 := ((s.ctx c).ev &&& ~~~(s.ctx c).evClear) ||| (s.ctx c).evSet
    let after (c : Nat) (x y : Split) : Prop :=
      (x.wait = some .event → ∀ n, x.walks = some n → n < 256 → (next c).getLsbD n = true → y = { x with tried := false, walks := some 256 }) ∧
      (x.wait ≠ some .event ∨ x.walks = none ∨ (∃ n, x.walks = some n ∧ (256 ≤ n ∨ (next c).getLsbD n = false)) → y = { x with tried := false })
    (∀ c, (t.ctx c).ev = next c ∧ (t.ctx c).evSet = 0 ∧ (t.ctx c).evClear = 0) ∧
    (∀ (g : GroupAt) n, after (s.block g.core g.block).ctx ((s.group g).split n) ((t.group g).split n)) ∧
    ∀ core b n, after (s.block core b).ctx ((s.block core b).thread n).sp ((t.block core b).thread n).sp) ∧
  ∀ (s : State) (p : Pre) (w : IWord),
    (lowest (s.activeFor (.evset p w)) = none → s.givesRegs (.evset p w) (s.rf s.cur)) ∧
    (lowest (s.activeFor (.evclr p w)) = none → s.givesRegs (.evclr p w) (s.rf s.cur)) ∧
    (lowest (s.activeFor (.evtest p w)) = none → s.givesRegs (.evtest p w) (s.rf s.cur)) ∧
    (lowest (s.activeFor (.evwait p w)) = none → s.givesRegs (.evwait p w) (s.rf s.cur))

/-- R126, R129, R223 to R228: the products enter the matrix queue, one quarter op for each quarter with an active lane. An op binds
the next entries of its FIFOs; a pass begins with at most four ready ops of one block, B entry, kind and type, and lasts 32 ck,
64 for MMA.W; at its end its ops are promoted in turn: each tile takes its op's products, MMA.W in the pair of the sum and the
compensation tile (R134), its bound register takes the error of the step (R132 to R134), and an op whose entries are not of its type
changes no element and sets ovf (R328). The order of bindings, the time at which an
op leaves the queue, and the fate of an entry in the wrong role are the model's reading (log entries 39, 83 and 84). -/
def Obligations.Products : Prop :=
  (∀ (s : State) p w, s.queuesOps (.mma p w) w .mma (if p.ty = 0 then 0x0C else p.ty)) ∧
  (∀ (s : State) p w, s.queuesOps (.mmaW p w) w .mmaW (if p.ty = 0 then 0x0C else p.ty)) ∧
  (∀ (s : State) p w, s.queuesOps (.cmma p w) w .cmma (if p.ty = 0 then 0x0F else p.ty)) ∧
  (∀ (s : State) core id o, s.arg = .num2 core id → (s.core core).op? id = some o → s.fifosAway core (s.block core o.block).part = false →
    let c := s.core core
    let b := s.block core o.block
    let only (t : State) : Prop := { t with cores := s.cores } = s ∧ (∀ n, n ≠ core → t.core n = s.core n) ∧
      { t.core core with act := c.act, mq := c.mq } = c ∧ ∀ n, n ≠ o.block → t.block core n = s.block core n
    (∀ e, o.a = none → waitsOn (c.opsBefore id) o.block o.fa = false → (b.stream o.fa).find? (fun e => !e.taken && e.count != 0 && !e.used) = some e →
      ∃ t x, exec .quarterBind s = .next t ∧ (t.core core).op? id = some x ∧ x.a = some e.id ∧ only t) ∧
    ∀ e, o.a.isSome = true → o.b = none → waitsOn (c.opsBefore id) o.block o.fb = false → (b.stream o.fb).find? (fun e => !e.taken && e.count != 0) = some e →
      e.present = true → ∃ t, exec .quarterBind s = .next t ∧ (t.core core).op? id = some { o with b := some e.id, tb := s.coreCk core } ∧
        t.block core o.block = b.onEntry o.fb e.id (fun e => { e with count := e.count - 1, bound := e.bound + 1, used := true }) ∧ only t) ∧
  (∀ (s : State) core, s.arg = .num core → s.issueCycle core = true → (s.core core).canStart (s.coreCk core) = true →
    let c := s.core core
    (∀ o ∈ c.form, s.fifosAway core (s.block core o.block).part = false) → c.form.length ≤ 4 ∧
      (∀ o ∈ c.form, o ∈ c.mq ∧ c.opReady o = true ∧ ∀ p ∈ c.form, p.block = o.block ∧ p.b = o.b ∧ p.kind = o.kind ∧ p.ty = o.ty) ∧
      ∃ t, exec .passStart s = .next t ∧
        (t.core core).pass = some { ops := c.form.map (·.id), stop := s.coreCk core + if c.form.any (fun o => o.kind == .mmaW) then 64 else 32 } ∧
        (t.core core).mq = c.mq.map (fun o => if c.form.any (fun p => p.id == o.id) then { o with begun := true } else o) ∧
        { t.core core with pass := c.pass, mq := c.mq } = c ∧ (∀ n, n ≠ core → t.core n = s.core n) ∧ { t with cores := s.cores } = s) ∧
  (∀ (s : State) core p, s.arg = .num core → (s.core core).pass = some p → p.stop ≤ s.coreCk core → ∃ t, exec .passPromote s = .next t ∧
    t.core core = { p.ops.foldl Core.promoteOp (s.core core) with pass := none } ∧ (∀ n, n ≠ core → t.core n = s.core n) ∧
    { t with cores := s.cores } = s) ∧
  (∀ (c : Core) id o, c.op? id = some o → (c.block o.block).live = true →
    let d := c.promoteOp id
    let b := c.block o.block
    d.mq = c.mq.filter (fun q => q.id != id) ∧ { d with act := c.act, mq := c.mq } = c ∧ (∀ n, n ≠ o.block → d.block n = c.block n) ∧
      (d.block o.block).fifos = (b.releaseOp o).fifos ∧ (∀ n, n ≠ o.group → (d.block o.block).group n = b.group n) ∧
      ∀ ea eb, (b.group o.group).live = true → (∃ x, o.a = some x ∧ (b.stream o.fa).find? (fun e => e.id == x) = some ea) →
        (∃ x, o.b = some x ∧ (b.stream o.fb).find? (fun e => e.id == x) = some eb) →
        (d.block o.block).group o.group = (b.group o.group).promote o ea eb) ∧
  (∀ (g : Group) (o : QOp) (a b : FifoEntry),
    let new := g.promote o a b
    let n := o.tile
    let ty := o.ty.toNat
    let k := (matK ty).getD 0
    let wide := o.kind = .mmaW
    let typed := a.ty.toNat = ty ∧ b.ty.toNat = ty ∧ a.isB = false ∧ b.isB = true
    { new with tiles := g.tiles, bounds := g.bounds } = g ∧ (∀ m, m ∉ o.tiles → new.tile m = g.tile m) ∧ (∀ m, m ≠ n → new.bnd m = g.bnd m) ∧
    (¬typed → (∀ m, new.tile m = g.tile m) ∧
      new.bnd n = g.bnd n ||| (1#64 <<< 31) ||| if (fmtOf ty).isSome then 0#64 else 1#64 <<< 63) ∧
    (typed → fmtOf ty = none → (∀ e, e < 2048 → ((new.tile n).elem e).toInt =
        max (-2147483648) (min (((g.tile n).elem e).toInt + intDot ty k a b (e / 128) (e % 128)) 2147483647)) ∧
      ∀ i, (new.bnd n).getLsbD i = ((g.bnd n).getLsbD i || i == 63 && (List.range 2048).any fun e =>
        let v := ((g.tile n).elem e).toInt + intDot ty k a b (e / 128) (e % 128)
        decide (v < -2147483648 ∨ 2147483647 < v))) ∧
    ∀ f, typed → fmtOf ty = some f →
      let scaled (e : Nat) : Fp := (if wide then w48 else fp32).round .rn
        (Fp.mul (Fp.mul (fpDot f k a b (e / 128) (e % 128)) (f32 (a.trip (e / 128)).s)) (f32 (b.trip 0).s))
      let acc (e : Nat) : Fp := fp32.round .rn (Fp.add false (f32 ((g.tile n).elem e)) (scaled e))
      let v (e : Nat) : Fp := w48.round .rn (Fp.add false (Fp.add false (f32 ((g.tile n).elem e)) (f32 ((g.tile (n + 4)).elem e))) (scaled e))
      let hi (e : Nat) : Fp := fp32.round .rn (v e)
      let es := maxex ((List.range 2048).map scaled)
      let ea := maxex ((List.range 2048).map fun e => if wide then v e else acc e)
      let halfOf (x : Option Int) : Fp := match x with
        | none => .fin false 0 0
        | some e => ru (.fin false 1 (e - if wide then 48 else 24))
      let sum := ru (Fp.add false (ru (Fp.add false (bndArith (g.bnd n)) (halfOf es))) (halfOf ea))
      let whole := (List.range 2048).all fun e => (scaled e).isFinite && if wide then (v e).isFinite && (hi e).isFinite else (acc e).isFinite
      let arith : Fp := if whole then (if wide then ru (Fp.add false sum (.fin false 1 (-149))) else sum) else .inf false
      let row (i : Nat) : Fp := ru (Fp.mul (.fin false k 0) (ru (Fp.add false
        (ru (Fp.add false (ru (Fp.mul (f32 (a.trip i).e) (b.mag 0))) (ru (Fp.mul (a.mag i) (f32 (b.trip 0).e)))))
        (ru (Fp.mul (f32 (a.trip i).e) (f32 (b.trip 0).e))))))
      let inh := ru (Fp.add false (bndInh (g.bnd n)) ((List.range 16).foldl (fun x i => bndMax x (row i)) (.fin false 0 0)))
      let thr := (g.threshold n).toNat
      let passes := thr ≠ 0 ∧ Fp.cmp arith (.fin false 1 (ea.getD (-150) - thr)) = .gt
      (¬wide → ∀ e, e < 2048 → (new.tile n).elem e = toF32 .rn (acc e)) ∧
      (wide → ∀ e, e < 2048 → (new.tile n).elem e = toF32 .rn (hi e) ∧
        (new.tile (n + 4)).elem e = toF32 .rn (fp32.round .rn (Fp.add false (v e) (hi e).neg))) ∧
      new.bnd n = bndMake ((g.bnd n).getLsbD 63) ((g.bnd n).getLsbD 31 || decide passes) inh arith) ∧
  ∀ (s : State) core p id o ea eb, s.arg = .num core → (s.core core).pass = some p → p.stop ≤ s.coreCk core → p.ops = [id] →
    (s.core core).op? id = some o → (s.block core o.block).live = true → ((s.block core o.block).group o.group).live = true →
    (∃ x, o.a = some x ∧ ((s.block core o.block).stream o.fa).find? (fun e => e.id == x) = some ea) →
    (∃ x, o.b = some x ∧ ((s.block core o.block).stream o.fb).find? (fun e => e.id == x) = some eb) →
    ea.ty.toNat = o.ty.toNat → eb.ty.toNat = o.ty.toNat → ea.isB = false → eb.isB = true → ∃ t, exec .passPromote s = .next t ∧ (t.core core).pass = none ∧
      (t.core core).mq = (s.core core).mq.filter (fun q => q.id != id) ∧ (∀ n, n ≠ core → t.core n = s.core n) ∧ { t with cores := s.cores } = s ∧
      let old := (s.block core o.block).group o.group
      let new := (t.block core o.block).group o.group
      let k := (matK o.ty.toNat).getD 0
      { new with tiles := old.tiles, bounds := old.bounds } = old ∧ (∀ n, n ∉ o.tiles → new.tile n = old.tile n) ∧
      (∀ n, n ≠ o.tile → new.bnd n = old.bnd n) ∧
      (∀ f, fmtOf o.ty.toNat = some f → o.kind = .mma → ∀ e, e < 2048 → (new.tile o.tile).elem e =
        toF32 .rn (fp32.round .rn (Fp.add false (f32 ((old.tile o.tile).elem e))
          (fp32.round .rn (Fp.mul (Fp.mul (fpDot f k ea eb (e / 128) (e % 128)) (f32 (ea.trip (e / 128)).s)) (f32 (eb.trip 0).s)))))) ∧
      (fmtOf o.ty.toNat = none → ∀ e, e < 2048 → ((new.tile o.tile).elem e).toInt =
        max (-2147483648) (min (((old.tile o.tile).elem e).toInt + intDot o.ty.toNat k ea eb (e / 128) (e % 128)) 2147483647))

/-- R222, R223, R229 to R232: the accumulator and bound instructions act once for the group; AMOV.put writes one element in each
active lane, and the rest of the tile, its bound register and its threshold stay. -/
def Obligations.TileInstructions : Prop :=
  ((∀ (s : State) (p : Pre) (w : SWord),
     let d := w.d.toNat
     let a := w.a.toNat
     let act := s.activeFor
     let same (n : Nat) (i : Instr) : Prop := s.tilesAfter i [n] (s.rf s.cur) (·.tile) (·.bnd) (·.threshold)
     s.tilesAfter (.aclr p w) ((List.range (a + 1)).map (· + d)) (s.rf s.cur) (fun g n => if d ≤ n ∧ n ≤ d + a then [] else g.tile n)
       (fun g n => if d ≤ n ∧ n ≤ d + a then 0 else g.bnd n) (·.threshold) ∧
     s.tilesAfter (.amov p w) [d, a] (s.rf s.cur) (fun g n => g.tile (if n = d then a else n)) (fun g n => g.bnd (if n = d then a else n)) (·.threshold) ∧
     s.tilesAfter (.amovGet p w) [a] ((s.rf s.cur).write w.d (act (.amovGet p w)) fun l =>
       (s.issuer.tile a).elem (selected (s.operands.lane w.b ((lowest (act (.amovGet p w))).getD 0)) l)) (·.tile) (·.bnd) (·.threshold) ∧
     s.tilesAfter (.bndrd p w) [a] ((s.rf s.cur).writePair w.d (act (.bndrd p w)) fun _ => s.issuer.bnd a) (·.tile) (·.bnd) (·.threshold) ∧
     s.tilesAfter (.bndrdK p w) [a] ((s.rf s.cur).write w.d (act (.bndrdK p w)) fun _ => (s.issuer.threshold a).setWidth 32)
       (·.tile) (·.bnd) (·.threshold) ∧
     s.tilesAfter (.bndwr p w) [d] (s.rf s.cur) (·.tile)
       (fun g n => if n = d then s.operands.pair w.a ((lowest (act (.bndwr p w))).getD 0) else g.bnd n) (·.threshold) ∧
     (bndOvf (s.issuer.bnd d) = false → same d (.bndchk p w)) ∧
     (∀ g sid, bndOvf (s.issuer.bnd d) = true → s.cur = .split g sid → s.mayIssue (.bndchk p w) → act (.bndchk p w) ≠ 0 → s.tilesFree g [d] →
       s.canTrap g sid → ∃ t, exec (.bndchk p w) s = .next t ∧ (s.trapping g sid).entersTrap g sid 4 (BitVec.ofNat 32 d) (act (.bndchk p w)) (s.sp s.cur).pc t)) ∧
   ∀ (s : State) (p : Pre) (w : IWord), s.tilesAfter (.bndthr p w) [w.d.toNat] (s.rf s.cur) (·.tile) (·.bnd)
     fun g n => if n = w.d.toNat then w.imm.setWidth 8 &&& 0x3F else g.threshold n) ∧
  (∀ (s : State) (p : Pre) (w : SWord),
     let d := w.d.toNat
     let act := s.activeFor (.amovPut p w)
     let sel := s.operands.lane w.b ((lowest act).getD 0)
     let base := 128 * (sel.toNat % 16) + 32 * (sel.toNat / 16 % 4)
     s.tileRule (.amovPut p w) [d] ∧ ∀ g sid, s.cur = .split g sid → s.mayIssue (.amovPut p w) → act ≠ 0 → s.tilesFree g [d] →
       ∃ t, exec (.amovPut p w) s = .next t ∧ s.wrote (s.rf s.cur) s.readLatches s.gens (s.untiled t) ∧
         (∀ l, l < 32 → ((t.group g).tile d).elem (base + l) = if act.getLsbD l then s.operands.lane w.a l else ((s.group g).tile d).elem (base + l)) ∧
         (∀ k, k < base ∨ base + 32 ≤ k → ((t.group g).tile d).elem k = ((s.group g).tile d).elem k) ∧
         (∀ n, n ≠ d → (t.group g).tile n = (s.group g).tile n) ∧ (t.group g).bounds = (s.group g).bounds ∧ (t.group g).thr = (s.group g).thr)

/-- R231, R233 to R235: ADRAIN writes a tile's image, and the AST forms write its rows, scales and sidecar bounds. AFILL puts an
image from a scratchpad into its tile, bound register and threshold at once, and asks for one that stands at lines; a dropped
access loads zeros. The stores are illegal through a record of the weight store or of a tree (R325), and AST in a format that it does not
write (R327). The corners of scales and sidecar bounds are the model's reading (log entry 41). -/
def Obligations.TileTransfers : Prop :=
  ((∀ (s : State) (p : Pre) (w : MWord), noWrites (s.operands.rcd w.k) = false →
     let l := (lowest (s.activeFor (.adrain p w))).getD 0
     let t := s.target s.cur (s.operands.rcd w.k) (s.operands.lane w.x l) w.e 8208
     s.tileStore (.adrain p w) w [w.d.toNat] [(t, (List.range 8208).map (s.issuer.imageByte w.d.toNat))] s.gens) ∧
   ∀ (s : State) (p : Pre) (w : MWord),
     let r := s.operands.rcd w.k
     let g := s.issuer
     let d := w.d.toNat
     let pre := ru (Fp.add false (bndArith (g.bnd d)) (bndInh (g.bnd d)))
     let spots (i : Instr) (n : Nat) : List Spot := astSpots r (s.operands.lane w.x ((lowest (s.activeFor i)).getD 0)) w.e (128 * n)
     let gen := if p.rm = 4 then Row.make fun j => (List.range 64).foldl (fun g _ => genNext g) (s.gens.lane j) else s.gens
     noWrites r = false →
       (∀ f, astFormat r p.rm = some f →
         let n := (f.fw + f.ew + 1) / 8
         s.tileStore (.ast p w) w [d] (s.astWrites s.cur r n true pre (spots (.ast p w) n) (astRows f p.rm s.gens fun k => f32 ((g.tile d).elem k))) gen ∧
         s.tileStore (.astW p w) w [d, d + 4] (s.astWrites s.cur r n true pre (spots (.astW p w) n)
           (astRows f p.rm s.gens fun k => Fp.add false (f32 ((g.tile d).elem k)) (f32 ((g.tile (d + 4)).elem k)))) gen) ∧
       ∀ n, astInt r = some n → s.tileStore (.astI p w) w [d] (s.astWrites s.cur r n false pre (spots (.astI p w) n)
         ((List.range 16).map fun i => (0, (List.range 128).map fun j => saturate n ((g.tile d).elem (128 * i + j)).toInt, .fin false 0 0))) gen) ∧
  (∀ (s : State) (p : Pre) (w : MWord),
     let r := s.operands.rcd w.k
     (recSpace r = .weight ∨ recSpace r = .tree →
       s.illegalFate (.adrain p w) ∧ s.illegalFate (.ast p w) ∧ s.illegalFate (.astW p w) ∧ s.illegalFate (.astI p w)) ∧
     (fmtOf (recFormat r) = none ∨ (p.rm = 4 ∧ recFormat r = 9) → s.illegalFate (.ast p w) ∧ s.illegalFate (.astW p w)) ∧
     (recFormat r ≠ 1 → recFormat r ≠ 3 → recFormat r ≠ 5 → s.illegalFate (.astI p w))) ∧
  (∀ (s : State) (p : Pre) (w : MWord),
     let i : Instr := .afill p w
     let d := w.d.toNat
     let l := (lowest (s.activeFor i)).getD 0
     let x := s.target s.cur (s.operands.rcd w.k) (s.operands.lane w.x l) w.e 8208
     let lines := gatherLines (Targets.lines [(l, x)] 8208)
     let bs := s.bytesAt x 8208
     s.tileRule i [d] ∧ ∀ g sid, s.cur = .split g sid → s.mayIssue i → s.activeFor i ≠ 0 → s.tilesFree g [d] →
       s.accessFree (orderRel w.order) w.scope [(l, x)] 2 → ∃ t, exec i s = .next t ∧
         s.wrote (s.rf s.cur) s.readLatches s.gens (s.untiled (s.unsent t)) ∧
         s.sends t (recSpace (s.operands.rcd w.k)) 2 w.order w.scope (lines.map fun y => (.load, y.1, y.2)) ∧ s.posts t [.tile d] lines.length ∧
         (∀ n, n ≠ d → (t.group g).tile n = (s.group g).tile n ∧ (t.group g).bnd n = (s.group g).bnd n ∧ (t.group g).threshold n = (s.group g).threshold n) ∧
         if x.isLine then (t.group g).tile d = (s.group g).tile d ∧ (t.group g).bnd d = (s.group g).bnd d ∧ (t.group g).threshold d = (s.group g).threshold d
         else (∀ k, k < 2048 → ((t.group g).tile d).elem k = BitVec.ofNat 32 (ofBytes ((bs.drop (4 * k)).take 4))) ∧
           (t.group g).bnd d = BitVec.ofNat 64 (ofBytes ((bs.drop 8192).take 8)) ∧ (t.group g).threshold d = bs.getD 8200 0 &&& 0x3F)

/-- R124, R234, R238 to R240: CVTQ quantises a vector over the active lanes, SRSEED seeds their generators, and SMERGE merges
softmax states. The bound of elements that are not finite, and runs of registers, are the model's reading (log entries 18 and
38). -/
def Obligations.QuantiseSeedMerge : Prop :=
  (∀ (s : State) (p : Pre) (w : SWord),
    let act := s.activeFor (.cvtq p w)
    let rf := s.rf s.cur
    let f := if p.ty = 0x0D then e5m2 else e4m3
    let elems := ((List.range 128).filter fun n => act.getLsbD (n % 32)).map fun n =>
      (n, f32 (s.operands.lane (reg w.a (n / 32)) (n % 32)), genWord (genNext^[n / 32] (s.gens.lane (n % 32))))
    let q := convertVec f p.rm (elems.map (·.2))
    let ein (l0 : Nat) : Fp := match f32 (s.operands.lane (reg w.b 1) l0) with
      | .nan => .inf false
      | x => x.abs
    let y (i l : Nat) : Word := match ((elems.map (·.1)).zip q.2.1).find? fun z => z.1 == 32 * i + l with
      | some z => BitVec.ofNat 32 z.2
      | none => 0
    let rf4 := (((rf.write (reg w.d 0) act (y 0)).write (reg w.d 1) act (y 1)).write (reg w.d 2) act (y 2)).write (reg w.d 3) act (y 3)
    s.mayIssue (.cvtq p w) → ∃ t, exec (.cvtq p w) s = .next t ∧
      match lowest act with
      | none => s.wrote rf s.readLatches s.gens t
      | some l0 => s.wrote ((rf4.write w.b act fun _ => toF32 .rn (.fin false 1 q.1)).write (reg w.b 1) act fun _ =>
          toF32 .ru (Fp.add false (ein l0) q.2.2)) s.readLatches (s.gensAfter (.cvtq p w) p.rm 4) t) ∧
  (∀ p w, (Instr.srseed p w).words? = some (p, w.bits 0xED 0) ∧ ((Instr.srseed p w).wf = true → w.d = 0 ∧ w.b = 0)) ∧
  (∀ (s : State) (p : Pre) (w : SWord), s.mayIssue (.srseed p w) → ∃ t, exec (.srseed p w) s = .next t ∧
    s.wrote (s.rf s.cur) s.readLatches (s.gens.merge (s.activeFor (.srseed p w)) fun l =>
      let v := s.operands.lane w.a l ^^^ BitVec.ofNat 32 (0x9E3779B9 * (l + 1))
      if v = 0 then 0x6D2B79F5 else v) t) ∧
  ∀ (s : State) (p : Pre) (w : SWord), s.givesRegs (.smerge p w) ((s.rf s.cur).writeRun w.d 6 (s.activeFor (.smerge p w)) fun l =>
    smerge (fun i => s.operands.lane (reg w.d i) l) (fun i => s.operands.lane (reg w.a i) l))

/-- R57, R243, R244: FORK starts the lowest free feed thread of the core at its target, with one lane, the values of v1 to v8 in
the lowest active lane, and the uniform registers and records; the handle joins the fork set and goes to the register that
FORK names. With eight threads in use it waits. -/
def Obligations.ForkStartsThread : Prop :=
  ∀ (s : State) (p : Pre) (w : CWord),
    let forks (i : Instr) (rf : Word → RegFile) : Prop :=
      (s.activeFor i = 0 → s.givesRegs i (s.rf s.cur)) ∧
      ∀ g sid l, s.cur = .split g sid → s.mayIssue i → lowest (s.activeFor i) = some l →
        let co := s.core g.core
        (∀ n, n < 8 → n ∉ co.threadsUsed → (∀ m, m < n → m ∈ co.threadsUsed) → ∃ t, exec i s = .next t ∧
          (let h : Word := co.forks ++ BitVec.ofNat 3 n
           let th := (t.blk s.cur).thread n
           (let u := t.setBlk s.cur ((t.blk s.cur).setThread n ((s.blk s.cur).thread n))
            let v := u.setGroup g { u.group g with forks := (s.group g).forks }
            s.wrote (rf h) s.readLatches s.gens (v.setCore g.core { v.core g.core with forks := co.forks })) ∧
           (t.group g).forks = (s.group g).forks ++ [h] ∧ (t.core g.core).forks = co.forks + 1 ∧
           th.live = true ∧ th.ended = false ∧ th.handle = h ∧ th.forker = g.ix ∧ th.sp.pc = targetC (s.sp s.cur).pc w ∧ th.sp.mask = 1 ∧
           th.sp.live = true ∧ th.rf.s = s.operands.s ∧ th.rf.k = s.operands.k ∧ th.rf.p = Vector.replicate 8 0 ∧ th.rf.wbase = 0 ∧
           (∀ (f : BitVec 7) j, f.toNat < 32 → j < 32 → th.rf.lane f j =
             if j = 0 ∧ 1 ≤ f.toNat ∧ f.toNat ≤ 8 then s.operands.lane f l else 0))) ∧
        ((∀ n, n < 8 → n ∈ co.threadsUsed) → ∃ t, exec i s = .next t ∧ s.waits t .fork)
    forks (.fork p w) (fun _ => s.rf s.cur) ∧
      forks (.forkHandle p w) fun h => (s.rf s.cur).write p.c (s.activeFor (.forkHandle p w)) fun _ => h

/-- R58, R245, R249, R252: RDV and RDV.all complete when every wait for their threads has ended, and these leave the fork set; the slot of a
thread is free as soon as the wait for it has ended, while others are yet waited for too. ACWAIT waits while more copies of its issuer than A are unfinished, BCWAIT while a job up to A is. -/
def Obligations.RendezvousAndWaits : Prop :=
  (∀ (s : State) (p : Pre) (w : SWord),
     let meets (i : Instr) (hs : List Word) : Prop := ∀ g sid, s.cur = .split g sid → s.mayIssue i →
       ((∀ h ∈ hs, s.joined g.core g.block h = true) → ∃ t, exec i s = .next t ∧
         (let u := t.setBlk s.cur { t.blk s.cur with threads := (s.blk s.cur).threads }
          s.wrote (s.rf s.cur) s.readLatches s.gens (u.setGroup g { u.group g with forks := (s.group g).forks })) ∧
         (t.group g).forks = (s.group g).forks.filter (fun h => !hs.contains h) ∧
         (t.blk s.cur).threads = (s.blk s.cur).threads.filter fun x => !(x.2.live && hs.contains x.2.handle)) ∧
       ((∃ h ∈ hs, s.joined g.core g.block h = false) → ∃ t, exec i s = .next t ∧
         s.blocks (t.setBlk s.cur { t.blk s.cur with threads := (s.blk s.cur).threads }) .rdv ∧
         (t.blk s.cur).threads = (s.blk s.cur).threads.filter fun x =>
           !(x.2.live && (hs.filter fun h => s.joined g.core g.block h).contains x.2.handle))
     (s.activeFor (.rdv p w) = 0 → s.givesRegs (.rdv p w) (s.rf s.cur)) ∧
       (∀ l, lowest (s.activeFor (.rdv p w)) = some l → meets (.rdv p w) [s.operands.lane w.a l]) ∧
       (s.activeFor (.rdvAll p w) = 0 → s.givesRegs (.rdvAll p w) (s.rf s.cur)) ∧
       (s.activeFor (.rdvAll p w) ≠ 0 → meets (.rdvAll p w) s.issuer.forks)) ∧
  (∀ (s : State) (p : Pre) (w : SWord),
     (lowest (s.activeFor (.acwait p w)) = none → s.givesRegs (.acwait p w) (s.rf s.cur)) ∧
     (lowest (s.activeFor (.bcwait p w)) = none → s.givesRegs (.bcwait p w) (s.rf s.cur)) ∧
     (∀ l, lowest (s.activeFor (.acwait p w)) = some l → s.mayIssue (.acwait p w) →
       let n := (s.copies.filter fun x => !x.isWalk && x.party == s.cur.party).length
       (n ≤ (s.operands.lane w.a l).toNat → ∃ t, exec (.acwait p w) s = .next t ∧ s.wrote (s.rf s.cur) s.readLatches s.gens t) ∧
       ((s.operands.lane w.a l).toNat < n → ∃ t, exec (.acwait p w) s = .next t ∧ s.blocks t .acwait)) ∧
     ∀ l, lowest (s.activeFor (.bcwait p w)) = some l → s.mayIssue (.bcwait p w) →
       let owed := ∃ j ∈ s.jobs, j.kind ≠ .pageIn ∧ j.party = s.cur.party ∧ j.handle ≤ (s.operands.lane w.a l).toNat
       (¬owed → ∃ t, exec (.bcwait p w) s = .next t ∧ s.wrote (s.rf s.cur) s.readLatches s.gens t) ∧
       (owed → ∃ t, exec (.bcwait p w) s = .next t ∧ s.blocks t .bcwait))

/-- R85, R125, R246 to R248, R250, R321, R330: the copies of ACOPY and MFILL start, one for each active lane, or one entry of a FIFO; a record that the
instruction does not take is illegal whether or not a lane is active, and so is an active lane whose destination or source offset it does not
take. The vector
index of an entry is the model's reading (log entry 41). -/
def Obligations.CopiesStart : Prop :=
  (∀ (s : State) (p : Pre) (w : MWord),
    let i : Instr := .acopy p w
    let r := s.operands.rcd w.k
    let z := 16 * 2 ^ (p.sub.extractLsb' 2 2).toNat
    let ts := s.targetsOf i w.k w.x w.e z
    let dst (l : Nat) : Nat := (s.operands.lane w.d l).toNat
    s.mayIssue i → recFormat r < 0x12 → (∀ l, (s.activeFor i).getLsbD l = true → dst l % 16 = 0 ∧ dst l + z ≤ (s.blk s.cur).alloc) →
      s.accessFree false 0 ts 0 → s.acquired →
      (s.copiesFit ts.length → ∃ t, exec i s = .next t ∧ s.wrote (s.rf s.cur) s.readLatches s.gens (s.uncopied t) ∧
        s.copied t (recSpace r) w.scope (ts.map fun x =>
          (.scratch (dst x.1) (p.sub.getLsbD 0) [(s.cur.core, s.cur.block)], z, [], [(0, x.2, z)]))) ∧
      (¬s.copiesFit ts.length → ∃ t, exec i s = .next t ∧ s.waits t .copy)) ∧
  (∀ (s : State) (p : Pre) (w : MWord), s.entersFifo (.acopyA p w) p w false ∧ s.entersFifo (.acopyB p w) p w true) ∧
  (∀ (s : State) (p : Pre) (w : MWord),
    let r := s.operands.rcd w.k
    let checks (i : Instr) (ok : Prop) : Prop := s.mayIssue i → (¬ok → s.illegalAt i) ∧
      (s.activeFor i = 0 → ok → ∃ t, exec i s = .next t ∧ s.wrote (s.rf s.cur) s.readLatches s.gens t)
    let fifo := (w.d.setWidth 5).toNat < (s.blk s.cur).g * (s.blk s.cur).f ∧ (matK (recFormat r)).isSome = true
    let bad (i : Instr) (n l : Nat) : Prop := l < 32 ∧ (s.activeFor i).getLsbD l = true ∧
      let d := (s.operands.lane w.d l).toNat
      (d % 16 ≠ 0 ∨ (s.blk s.cur).alloc < d + n)
    (0x12 ≤ recFormat r → s.illegalFate (.acopy p w)) ∧ checks (.acopyA p w) fifo ∧ checks (.acopyB p w) fifo ∧
      ((∃ l, bad (.acopy p w) (16 * 2 ^ (p.sub.extractLsb' 2 2).toNat) l) → s.illegalFate (.acopy p w)) ∧
      ((recSpace r ≠ .global ∨ 0x12 ≤ recFormat r) → s.illegalFate (.mfill p w)) ∧
      ((∃ l, bad (.mfill p w) 128 l) → s.illegalFate (.mfill p w)) ∧
      (∀ l, l < 32 → (s.activeFor (.mfill p w)).getLsbD l = true → laneOffset r (s.operands.lane w.x l) w.e % 128 ≠ 0 → s.illegalFate (.mfill p w)) ∧
      (s.activeFor (.mfill p w) = 0 → recSpace r = .global → recFormat r < 0x12 → s.givesRegs (.mfill p w) (s.rf s.cur))) ∧
  ∀ (s : State) (p : Pre) (w : MWord) l0,
    let i : Instr := .mfill p w
    let r := s.operands.rcd w.k
    let ts := s.targetsOf i w.k w.x w.e 128
    let dst (l : Nat) : Nat := (s.operands.lane w.d l).toNat
    let cores : Nat := if p.sub.getLsbD 1 then (s.operands.lane p.c l0).toNat % 16 else 2 ^ (s.cur.core % 4)
    let to_ := (s.gang (s.blk s.cur).gang).blocks.filter fun x => x.1 / 4 == s.cur.core / 4 && cores.testBit (x.1 % 4)
    lowest (s.activeFor i) = some l0 → s.mayIssue i → recSpace r = .global → recFormat r < 0x12 →
      (∀ l, (s.activeFor i).getLsbD l = true →
        laneOffset r (s.operands.lane w.x l) w.e % 128 = 0 ∧ dst l % 16 = 0 ∧ dst l + 128 ≤ (s.blk s.cur).alloc) →
      s.accessFree false 0 ts 0 → s.acquired → s.copiesFit ts.length →
      ∃ t, exec i s = .next t ∧ s.wrote (s.rf s.cur) s.readLatches s.gens (s.uncopied t) ∧
        s.copied t .global w.scope ((ts.filter fun x => !(to_.isEmpty && !x.2.isLine)).map fun x =>
          (.scratch (dst x.1) (p.sub.getLsbD 0) to_, 128, [], [(0, x.2, 128)]))

/-- R86, R150, R251, R321, R330: BCOPY and CACOPY start a job over the bytes that their records' modes leave, and wait while 64 jobs of the
context are unfinished; records that they do not take are illegal whether or not a lane is active, and with one active so are bytes of the weight store outside the
partition's segments. The order of the fates, and what a base of
2^32 or more gives in the weight store, are the model's (log entries 42 and 76), and that CACOPY may write the weight store is its choice
between R251 and R86 (log entry 77). -/
def Obligations.BulkCopies : Prop :=
  ∀ (s : State) (p : Pre) (w : SWord) l,
    let dst := s.operands.rcd (w.a.setWidth 5)
    let src := s.operands.rcd (w.b.setWidth 5)
    let part := (s.blk s.cur).part
    let room := s.openJobs (s.blk s.cur).ctx < 64
    let fits (len : Nat) : Prop := recFormat dst < 0x12 ∧ recFormat src < 0x12 ∧
      (recSpace dst = .global ∨ (recSpace dst = .weight ∧ s.jobSegs part dst len = true))
    (lowest (s.activeFor (.bcopy p w)) = some l → s.mayIssue (.bcopy p w) → s.acquired →
      let n := (s.operands.lane p.c l).toNat
      let len := jobLength n [dst, src]
      recSpace src = .global ∨ recSpace src = .peer ∨ recSpace src = .tree ∨
          (recSpace src = .weight ∧ (s.blk s.cur).wsr = true ∧ s.jobSegs part src len = true) →
        fits len → jobTraps n dst = false → jobTraps n src = false →
        (room → s.starts (.bcopy p w) p w .bulk dst src len) ∧ (¬room → ∃ t, exec (.bcopy p w) s = .next t ∧ s.waits t .job)) ∧
    (lowest (s.activeFor (.bcopy p w)) = some l → s.mayIssue (.bcopy p w) → s.acquired →
      let n := (s.operands.lane p.c l).toNat
      recSpace src = .reserved → recMode src ≠ .trap → fits (jobLength n [dst, src]) → jobTraps n dst = false → room →
        s.starts (.bcopy p w) p w .bulk dst src 0) ∧
    (lowest (s.activeFor (.cacopy p w)) = some l → s.mayIssue (.cacopy p w) → s.acquired → recSpace src = .tree →
      let n := 128 * ((recExtent src + 127) / 128)
      let len := jobLength n [dst]
      fits len → jobTraps n dst = false →
        (room → s.starts (.cacopy p w) p w .tree dst src len) ∧ (¬room → ∃ t, exec (.cacopy p w) s = .next t ∧ s.waits t .job)) ∧
    (let takes := recFormat dst < 0x12 ∧ recFormat src < 0x12 ∧ (recSpace dst = .global ∨ recSpace dst = .weight)
     let copies := takes ∧ recSpace src ≠ .block ∧ recSpace src ≠ .gang ∧ (recSpace src = .weight → (s.blk s.cur).wsr = true)
     let content := takes ∧ recSpace src = .tree
     (copies → lowest (s.activeFor (.bcopy p w)) = none → s.givesRegs (.bcopy p w) (s.rf s.cur)) ∧
     (¬copies → s.illegalFate (.bcopy p w)) ∧
     (content → lowest (s.activeFor (.cacopy p w)) = none → s.givesRegs (.cacopy p w) (s.rf s.cur)) ∧
     (¬content → s.illegalFate (.cacopy p w)) ∧
     (copies → lowest (s.activeFor (.bcopy p w)) = some l →
       let len := jobLength (s.operands.lane p.c l).toNat [dst, src]
       (recSpace src = .weight ∧ s.jobSegs part src len = false) ∨ (recSpace dst = .weight ∧ s.jobSegs part dst len = false) → s.illegalFate (.bcopy p w)) ∧
     (content → lowest (s.activeFor (.cacopy p w)) = some l → recSpace dst = .weight →
       s.jobSegs part dst (jobLength (128 * ((recExtent src + 127) / 128)) [dst]) = false → s.illegalFate (.cacopy p w)))

/-- R140, R141, R144, R145, R253 to R256: the instructions on names send their requests to the home slices; those that return a value take a
scoreboard entry. At the slice a count goes up or down, but for one that has reached its largest value, and at 0 the entry leaves its chain and
waits for Lovage; CAREF.pin also raises the count of the name that it reads, and CAGET's line lands, zeros under a name that is not usable, unless
its entry is poisoned. CASWAP's lanes leave together once their walks have ended. CASWAP off the global space or at an address that is no multiple of
8, and CAREF.pin at such a slot, are illegal (R326, R330). Log entries 27 and 31 say what is the model's
choice. -/
def Obligations.ContentNames : Prop :=
  (∀ (s : State) (p : Pre) (w : SWord),
    let act := s.activeFor
    let pieces (i : Instr) (n : Nat) : List Piece := (lanesOf (act i)).map fun l => { lane := l, off := 0, n := n, first := 0 }
    let cont (i : Instr) (cls : Nat) (sp : Space) (order : BitVec 2) (xs : List (ReqKind × DWord × List Piece)) (dsts : List Loc) : Prop :=
      s.mayIssue i → (dsts ≠ [] → s.boardFree) → ∃ t, exec i s = .next t ∧ s.wrote (s.rf s.cur) s.readLatches s.gens (s.unsent t) ∧
        s.sends t sp cls order 2 xs ∧ (∀ g sid, s.cur = .split g sid → dsts ≠ [] → s.posts t dsts xs.length)
    let line (i : Instr) : CaLine := caLineOf fun n => if (act i).getLsbD (n / 4) then byteOf (s.operands.lane w.a (n / 4)) (n % 4) else 0
    let counted (i : Instr) (kind : DWord → ReqKind) : List (ReqKind × DWord × List Piece) :=
      (((lanesOf (act i)).map fun l => (l, s.operands.pair w.a l)).filter (·.2 != 0)).map fun x => (kind x.2, x.2, [{ lane := x.1, off := 0, n := 0, first := 0 }])
    let insert (i : Instr) (kind : Nat) : Prop := act i ≠ 0 → s.boardFree → cont i 4 .tree 0
      [(.caInsert kind (line i), caDigest (s.part (s.blk s.cur).part).cakey kind (line i) ++ (0 : BitVec 12), pieces i 12)]
      ((s.operands.dest w.d 2 ++ s.operands.dest w.b 1).filterMap id)
    insert (.cains p w) 1 ∧ insert (.cainsN p w) 2 ∧
    (∀ l, lowest (act (.caget p w)) = some l → s.boardFree → cont (.caget p w) 4 .tree 0
      [(.caGet (s.operands.pair w.a l), s.operands.pair w.a l, pieces (.caget p w) 4)] ((s.operands.dest w.d 1).filterMap id)) ∧
    cont (.carefInc p w) 4 .tree 0 (counted (.carefInc p w) .caInc) [] ∧
    cont (.carefDec p w) 4 .tree 0 (counted (.carefDec p w) .caDec) [] ∧
    (∀ l, lowest (act (.carefPin p w)) = some l → (s.operands.pair w.a l).toNat % 8 = 0 → s.boardFree → cont (.carefPin p w) 4 .global 1
      [(.pin, s.operands.pair w.a l - BitVec.ofNat 64 ((s.operands.pair w.a l).toNat % 128), (lanesOf (act (.carefPin p w))).map fun j =>
        { lane := j, off := (s.operands.pair w.a l).toNat % 128, n := 8, first := 0 })] ((s.operands.dest w.d 2).filterMap id)) ∧
    (act (.cains p w) = 0 → s.givesRegs (.cains p w) (s.rf s.cur)) ∧ (act (.cainsN p w) = 0 → s.givesRegs (.cainsN p w) (s.rf s.cur)) ∧
    (lowest (act (.caget p w)) = none → s.givesRegs (.caget p w) (s.rf s.cur)) ∧
    (lowest (act (.carefPin p w)) = none → s.givesRegs (.carefPin p w) (s.rf s.cur)) ∧
    ∀ l, lowest (act (.carefPin p w)) = some l → (s.operands.pair w.a l).toNat % 8 ≠ 0 → s.illegalFate (.carefPin p w)) ∧
  (∀ (s : State) (p : Pre) (w : MWord),
    let r := s.operands.rcd w.k
    (recSpace r ≠ .global → s.illegalFate (.caswap p w)) ∧
    ((∃ l off, l < 32 ∧ (s.activeFor (.caswap p w)).getLsbD l = true ∧ accessOf r (s.operands.lane w.x l) w.e 8 = .at off ∧
      (addrOf r off).toNat % 8 ≠ 0) → s.illegalFate (.caswap p w))) ∧
  (∀ (s : State) (p : Pre) (w : MWord),
    let i : Instr := .caswap p w
    let r := s.operands.rcd w.k
    let ts := s.targetsOf i w.k w.x w.e 8
    s.mayIssue i → recSpace r = .global → (∀ l, (s.activeFor i).getLsbD l = true → odd r (s.operands.lane w.x l) w.e 8 = false) → s.boardFree →
      s.accessFree (orderRel w.order) w.scope ts 0 →
      (ts.lines 8 = [] → ∃ t, exec i s = .next t ∧ s.wrote (s.rf s.cur) s.readLatches s.gens t) ∧
      (ts.lines 8 ≠ [] → s.leavesHeld i w.k ((ts.lines 8).map fun y => { (s.issued i).request r w.order w.scope 0 with
          kind := .caswap (s.operands.pair w.d y.1) (s.operands.pair p.c y.1), va := y.2.1 - BitVec.ofNat 64 (y.2.1.toNat % 128),
          pieces := [{ lane := y.1, off := y.2.1.toNat % 128, n := 8, first := 0 }] }) ((s.operands.dest w.d 2).filterMap fun x => x) true)) ∧
  (∀ (s : State) (r : Req) x tier, s.arg = .num r.id → s.req? r.id = some r → r.st = .mapped x 0 tier → s.mayGo r = true → s.settles r →
    let p := s.part r.part
    let lands (ws : List RegWrite) (t : State) : Prop :=
      s.onlyReq r.id t ∧ (s.drained r).landed r ws { t with parts := s.parts, applied := s.applied }
    let bytes (f : Nat → List Byte) : List RegWrite := r.pieces.flatMap fun q => r.land.writes q.lane 0 (f q.lane)
    let counts (f : Part → DWord → Part) (n : DWord) (ws : List RegWrite) : Prop := ∃ t, exec .homeSliceAtomic s = .next t ∧ lands ws t ∧
      t.part r.part = f p n ∧ (∀ m, m ≠ r.part → t.part m = s.part m) ∧ t.applied = s.applied ++ s.arrivalsOf r
    (∀ n, r.kind = .caInc n → counts Part.inc n []) ∧ (∀ n, r.kind = .caDec n → counts Part.dec n []) ∧
    (∀ q, r.kind = .pin → r.pieces.head? = some q → s.poisoned x = false → r.space = .global →
      let bs := (List.range 8).map fun i => s.seenBy r.ctx (x + (q.off + i))
      counts Part.inc (BitVec.ofNat 64 (ofBytes bs)) (bytes fun _ => bs)) ∧
    (∀ n, r.kind = .caGet n →
      (∀ e, p.entry? n = some e → e.bad s.poisoned = true → ∃ t, exec .completion s = .next t ∧ (s.drained r).failsTo r 4 n t) ∧
      ((∀ e, p.entry? n = some e → e.bad s.poisoned = false) → ∃ t, exec .completion s = .next t ∧ t.parts = s.parts ∧ t.applied = s.applied ∧
        lands (bytes fun l => (List.range 4).map fun i => ((p.entry? n).elim CaLine.zero (·.line)).byte (4 * l + i)) t))) ∧
  ∀ (p : Part) (n : DWord),
    (p.entry? n = none → p.inc n = p ∧ p.dec n = p) ∧
    ∀ e, p.entry? n = some e →
      (e.count = 0xFFFFFF → p.inc n = p ∧ p.dec n = p) ∧
      (e.count ≠ 0xFFFFFF → (p.inc n).entry? n = some { e with count := e.count + 1 } ∧ (p.inc n).dying = p.dying ∧
        (e.count + 1 ≠ 0xFFFFFF → (p.inc n).casat = p.casat) ∧
        (e.count + 1 = 0xFFFFFF → p.casat < 0xFFFFFFFF → (p.inc n).casat = p.casat + 1)) ∧
      (1 < e.count → e.count ≠ 0xFFFFFF → (p.dec n).entry? n = some { e with count := e.count - 1 } ∧ (p.dec n).dying = p.dying) ∧
      (e.count ≤ 1 → (p.dec n).entry? n = none ∧ (p.dec n).dying = p.dying ++ [{ e with count := 0 }]) ∧
      ∀ m, (∀ x, p.entry? m = some x → x.name ≠ e.name) → (p.inc n).entry? m = p.entry? m ∧ (p.dec n).entry? m = p.entry? m

/-- R146, R254, R257, R258, R321, R330, R331: CAWALK asks for the names of the lanes inside the tree and gives the others the empty name; a record of
another space is illegal whether or not a lane is active. At the slice the walk takes the digits of the line, most significant first, and the
name that it reaches lands, the empty one where a name on the way is not usable or of the wrong kind; a poisoned entry parks it. KVWALK's next
step, when a load of it has come back, is as R257's node says: a further load, or the end, with the result in the lane's registers. KVWALK walks
the nodes of scratchpads at once and starts a walk for every lane whose nodes stand behind requests. The reserved spaces, and
loads that R86 refuses, are the model's reading (log entry 44). -/
def Obligations.Walks : Prop :=
  (∀ (s : State) (p : Pre) (w : SWord),
    let i : Instr := .cawalk p w
    let r := s.operands.rcd (w.a.setWidth 5)
    let d := treeDepth ((recExtent r + 127) / 128)
    let inside (l : Nat) : Bool := decide ((s.operands.lane w.b l).toNat < 16 ^ d)
    let inn := (lanesOf (s.activeFor i)).filter inside
    s.mayIssue i → (recSpace r ≠ .tree → s.illegalAt i) ∧
      (s.activeFor i = 0 → recSpace r = .tree → ∃ t, exec i s = .next t ∧ s.wrote (s.rf s.cur) s.readLatches s.gens t) ∧
      (s.activeFor i ≠ 0 → recSpace r = .tree → s.boardFree → ∃ t, exec i s = .next t ∧
        s.wrote ((s.rf s.cur).writePair w.d (onceIn w.d (s.activeFor i) (maskOf fun l => (s.activeFor i).getLsbD l && !inside l)) fun _ => 0)
          s.readLatches s.gens (s.unsent t) ∧
        s.sends t .tree 4 0 2 (inn.map fun l =>
          (.caWalk (recBase r) d (d - p.sub.toNat) (s.operands.lane w.b l).toNat, recBase r, [{ lane := l, off := 0, n := 8, first := 0 }])) ∧
        s.posts t ((s.operands.dest w.d 2).filterMap id) inn.length)) ∧
  (∀ (s : State) (r : Req) x root d k j, s.arg = .num r.id → s.req? r.id = some r → r.st = .mapped x 0 0 → s.mayGo r = true → s.settles r →
    r.kind = .caWalk root d k j →
    let p := s.part r.part
    (∀ n, p.walkName s.poisoned root d k j = .poisoned n → ∃ t, exec .completion s = .next t ∧ (s.drained r).failsTo r 4 n t) ∧
    ∀ n, p.walkName s.poisoned root d k j = .name n → ∃ t, exec .completion s = .next t ∧ s.onlyReq r.id t ∧
      t.part r.part = p.cacheWalk (p.path j k d root) ∧ (∀ m, m ≠ r.part → t.part m = s.part m) ∧
      (s.drained r).landed r (r.pieces.flatMap fun q => r.land.writes q.lane 0 (bytesOf n 8)) { t with parts := s.parts }) ∧
  (∀ (p : Part) (bad : Nat → Bool) root d k j,
    let kind := if k < d then 2 else 1
    (∀ n, p.descend bad j k d root = .poisoned n → p.walkName bad root d k j = .poisoned n) ∧
    (∀ n, p.descend bad j k d root = .name n →
      (p.entry? n = none → p.walkName bad root d k j = .name 0) ∧
      ∀ e, p.entry? n = some e → p.walkName bad root d k j =
        if e.kind ≠ kind then .name 0 else if e.bad bad = true then .poisoned n else .name n) ∧
    p.descend bad j 0 d root = .name root ∧
    (root ≠ 0 → (p.entry? root = none → p.descend bad j (k + 1) d root = p.descend bad j k (d - 1) 0) ∧
      ∀ e, p.entry? root = some e → p.descend bad j (k + 1) d root =
        if e.kind ≠ 2 then p.descend bad j k (d - 1) 0 else if e.bad bad = true then .poisoned root
        else p.descend bad j k (d - 1) (e.line.toList.getD (j / 16 ^ (d - 1) % 16) 0)) ∧
    p.descend bad j (k + 1) d 0 = .name 0) ∧
  (∀ (s : State) (x : Copy) i l r route p depth land page core block ix sb dst pr ty size low, s.arg = .num2 x.id i →
    (s.copies.find? fun y => y.id == x.id && y.left == 0) = some x → x.kind = .kv l r route p depth land page →
    land = .regs core block ix sb dst pr ty size low → s.home x.ctx core block = .act →
    let g : GroupAt := { core := core, block := block, ix := ix }
    let ends (first : Nat) (bs : List Byte) : Prop := ∃ t, exec .copyLanding s = .next t ∧ s.onlyGroup g { t with copies := s.copies } ∧
      t.group g = (s.group g).landAll sb (1#32 <<< l) (land.writes l first bs) ∧ t.copies = s.copies.filter fun y => y.id != x.id
    (∀ first bs, kvAfter x.byte route p depth page = .stop first bs → ends first bs) ∧
    ∀ off n depth' page', kvAfter x.byte route p depth page = .load off n depth' page' →
      (s.kvAddr x.ctx r off n = none → ends 12 (bytesOf (0xFFFFFFFF : Word) 4)) ∧
      ∀ va, s.kvAddr x.ctx r off n = some va → ∃ t qs, exec .copyLanding s = .next t ∧
        let ls := gatherLines [(0, va, n)]
        t.copies = (s.copies.map fun y => if y.id = x.id then
          { x with kind := .kv l r route p depth' land page', size := n, left := ls.length, buf := [] } else y) ∧
        t.reqs = s.reqs ++ qs ∧ qs.map (fun q => (q.kind, q.va, q.pieces, q.land)) =
          ls.map (fun y => (x.like.kind, y.1, y.2.map fun q => { q with lane := x.lane }, x.like.land)) ∧
        { t with copies := s.copies, reqs := s.reqs, nextId := s.nextId } = s) ∧
  (∀ (f : Nat → Byte) (route : DWord) (p depth : Nat),
    let word (i : Nat) : Nat := ofBytes ((List.range 4).map fun k => f (i + k))
    let start := word 8
    let len := word 12
    let tok := ofBytes [f 16, f 17] + (p - start)
    let unit := 2 ^ ((f 18).toNat % 16)
    let digit := route.toNat / 16 ^ depth % 16
    let child := word (64 + 4 * digit)
    let miss : KvNext := .stop 12 (bytesOf (0xFFFFFFFF : Word) 4)
    let step := kvAfter f route p depth none
    (p < start → step = .stop 12 (bytesOf (0xFFFFFFFE : Word) 4)) ∧
    (start ≤ p → p < start + len →
      step = .load ((ofBytes ((List.range 8).map fun k => f k) + 8 * (tok / unit) : Nat) : Int) 8 depth (some (tok % unit))) ∧
    (start + len ≤ p →
      (digit < min 16 ((f 19).toNat % 32) → child ≠ 0 → depth ≠ 15 → step = .load ((128 * child : Nat) : Int) 128 (depth + 1) none) ∧
      (min 16 ((f 19).toNat % 32) ≤ digit ∨ child = 0 ∨ depth = 15 → step = miss)) ∧
    ∀ t, kvAfter f route p depth (some t) = .stop 0 ((List.range 8).map (fun k => f k) ++ natBytes t 4 ++ natBytes depth 4)) ∧
  ∀ (s : State) (p : Pre) (w : SWord),
    let i : Instr := .kvwalk p w
    let r := s.operands.rcd (w.a.setWidth 5)
    let pos (l : Nat) : Nat := (s.operands.lane w.b l).toNat
    let route (l : Nat) : DWord := s.operands.pair p.c l
    let first : Tgt := s.kvTarget s.cur r 0 128
    let ls := lanesOf (s.activeFor i)
    let go := if first.isLine then ls else []
    let out (l : Nat) : Option (Nat × List Byte) := s.kvPads s.cur r (route l) (pos l) 18 .root
    let rf := (if first.isLine then [] else ls).foldl (fun rf l => match out l with
      | some x => (s.issued i).kvWrite w.d rf l x
      | none => rf) (s.rf s.cur)
    s.mayIssue i → (s.activeFor i = 0 → ∃ t, exec i s = .next t ∧ s.wrote (s.rf s.cur) s.readLatches s.gens t) ∧
      (s.activeFor i ≠ 0 → ¬(recSpace r = .reserved ∧ recMode r = .trap) → s.boardFree → s.acquired →
        (first.isLine = false → ∀ l ∈ ls, (out l).isSome = true) → ∃ t, exec i s = .next t ∧
          (let u := s.uncopied t
           s.wrote rf s.readLatches s.gens (u.setGroup (s.groupOf s.cur) { u.group (s.groupOf s.cur) with sb := s.issuer.sb })) ∧
          s.posts t ((s.operands.dest w.d 4).filterMap id) go.length ∧
          (∀ l ∈ go, ∃ y ∈ t.copies, ∃ land, y.kind = .kv l r (route l) (pos l) 0 land none ∧ y.size = 128 ∧ y.left ≠ 0 ∧ y.party = s.cur.party) ∧
          ∀ y ∈ s.copies, y.id < s.nextId → y ∈ t.copies)

/-- R40, R41, R44, R259, R332: LAUNCH checks the block that it has read, and refuses or queues the launch; a block in a scratchpad is read
at once, one at lines through a read for which the split waits. Once it has been read, an offset that is no multiple of 128 is reason 1. As
it releases, it first waits for the accesses before it (R108, R114). The checks of a launch parameter block, in their order. That a record
base which is no multiple of 128, under an offset that is one, is no reason to refuse is the model's choice (log entry 90). -/
def Obligations.Launches : Prop :=
  (∀ (s : State) (p : Pre) (w : SWord),
     let i : Instr := .launch p w
     let r := s.operands.rcd (w.a.setWidth 5)
     (lowest (s.activeFor i) = none → s.givesRegs i (s.rf s.cur)) ∧
     ∀ l, lowest (s.activeFor i) = some l → s.mayIssue i →
       let x := s.operands.lane w.b l
       let g := s.target s.cur r x false 128
       let aligned := laneOffset r x false % 128 == 0
       let id := if (s.sp s.cur).wait = some .release then s.covers else s.nextId
       let unread := (s.sp s.cur).lpb = none ∧ (s.sp s.cur).wait ≠ some .lpb
       let free := unread ∧ s.clsOwed s.cur 0 s.covers = false ∧ s.accessFree true 0 [(l, g)] 0
       (∀ b, (s.sp s.cur).lpb = some b → s.offered i aligned b) ∧
       ((s.sp s.cur).lpb = none → (s.sp s.cur).wait = some .lpb → ∃ t, exec i s = .next t ∧ s.blocks t .lpb) ∧
       (unread → s.clsOwed s.cur 0 s.covers = true → ∃ t, exec i s = .next t ∧ s.blocks (s.uncopied t) .release ∧
         (t.sp s.cur).walks = some id ∧ t.copies = s.copies ∧ t.reqs = s.reqs) ∧
       (free → g.isLine = false → s.offered i aligned (BitVec.ofNat 1024 (ofBytes (s.bytesAt g 128)))) ∧
       (∀ sp va, free → g = .line sp va → ∃ t, exec i s = .next t ∧ s.blocks (s.uncopied t) .lpb ∧ (t.sp s.cur).walks = some id ∧
         (∃ y ∈ t.copies, y.id = id ∧ y.kind = .lpb s.cur ∧ y.size = 128 ∧ y.left = (gatherLines [(0, va, 128)]).length) ∧
         (∀ y ∈ s.copies, y.id ≠ id → y ∈ t.copies) ∧ ∃ qs, t.reqs = s.reqs ++ qs ∧
           qs.map (fun q => (q.kind, q.va, q.pieces, q.order, q.land)) =
             (gatherLines [(0, va, 128)]).map fun y => (.load, y.1, y.2.map (fun q => { q with lane := l }), 0, .copy id))) ∧
  (∀ (r : Ranges) (b : Lpb),
     let f (lo n : Nat) : Nat := (b.extractLsb' lo n).toNat
     let g := f 205 5 + 1
     let clean := f 768 256 = 0 ∧ f 252 4 = 0 ∧ f 240 3 = 0 ∧ f 176 27 = 0
     let inRange := f 234 6 ≤ 32 ∧ f 228 6 ≤ 32 ∧ f 216 12 ≤ 2048 ∧ f 210 6 ≤ 32 ∧ f 210 6 ≠ 0
     let entry := f 0 2 = 0 ∧ (f 56 8 = 0 ∨ f 56 8 = 255)
     let fits := g * f 234 6 ≤ 32 ∧ g * f 216 12 ≤ 2048 ∧ g ≤ r.slots ∧ g * 16 * f 210 6 ≤ r.rows ∧ g * f 216 12 ≤ r.sprows ∧
       g * f 228 6 ≤ r.tiles ∧ g * f 234 6 ≤ r.fifos
     (¬clean → lpbRefused r b = some 2) ∧ (clean → ¬inRange → lpbRefused r b = some 3) ∧
     (clean → inRange → ¬entry → lpbRefused r b = some 5) ∧ (clean → inRange → entry → ¬fits → lpbRefused r b = some 4) ∧
     (clean → inRange → entry → fits → lpbRefused r b = none))


/-- R260, R261, R262, R333: SYSRD writes a register that the issuer may read to every active lane, LANEID being each lane's own
number; any other index, element or index field is illegal. Log entry 53 says what is the model's reading. -/
def Obligations.SystemRead : Prop :=
  ∀ (s : State) (p : Pre) (w : IWord),
    let i : Instr := .sysrd p w
    let r := w.imm.toNat
    s.mayIssue i →
      (isArray r = true ∨ w.a = 0 → regReadable s.rank r 0 = true → lowest (s.activeFor i) = none →
        ∃ t, exec i s = .next t ∧ s.wrote (s.rf s.cur) s.readLatches s.gens t) ∧
      (∀ l, lowest (s.activeFor i) = some l → isArray r = true ∨ w.a = 0 → regReadable s.rank r 0 = true →
        regReadable s.rank r (s.element r w.a l) = true → ∃ t, exec i s = .next t ∧
          s.wrote ((s.rf s.cur).write w.d (s.activeFor i) fun j =>
            if r = 0 then (if s.cur.isThread then 0 else BitVec.ofNat 32 j) else s.readReg s.viewOf r (s.element r w.a l)) s.readLatches s.gens t) ∧
      ((isArray r = false ∧ w.a ≠ 0) ∨ regReadable s.rank r 0 = false → s.illegalAt i) ∧
      (∀ l, lowest (s.activeFor i) = some l → regReadable s.rank r (s.element r w.a l) = false → s.illegalAt i)

/-- R261, R262, R333: SYSWR writes A of the lowest active lane into a register that the issuer may write; a write of LAUNCHQ waits
for room with the block that it named as it issued, and one with an acquire before it that has yet to be performed is not ready (R104); any
other is illegal. -/
def Obligations.SystemWrite : Prop :=
  ∀ (s : State) (p : Pre) (w : IWord),
    let i : Instr := .syswr p w
    let r := w.imm.toNat
    let own := (s.blk s.cur).ctx
    s.mayIssue i →
      (isArray r = true ∨ w.d = 0 → regWritable s.rank r 0 = true → lowest (s.activeFor i) = none →
        ∃ t, exec i s = .next t ∧ s.wrote (s.rf s.cur) s.readLatches s.gens t) ∧
      (∀ l, lowest (s.activeFor i) = some l → isArray r = true ∨ w.d = 0 → regWritable s.rank r 0 = true →
        regWritable s.rank r (s.element r w.d l) = true → s.acquired → ∃ u, s.wrote (s.rf s.cur) s.readLatches s.gens u ∧
          match u.writeReg s.viewOf r (s.element r w.d l) (s.operands.lane w.a l) (s.sp s.cur).lpb with
          | some t => exec i s = .next t
          | none => ∃ t, exec i s = .next t ∧ s.blocks t .launch ∧ (t.sp s.cur).lpb = some ((s.sp s.cur).lpb.getD (BitVec.ofNat 1024 (ofBytes
              (s.seenBytes own ((s.ctx own).launchqhi.toNat * 2 ^ 32 + (s.operands.lane w.a l).toNat) 128))))) ∧
      (∀ l, lowest (s.activeFor i) = some l → isArray r = true ∨ w.d = 0 → regWritable s.rank r 0 = true →
        regWritable s.rank r (s.element r w.d l) = true → ¬s.acquired → ∃ t, exec i s = .next t ∧ s.waits t .operand) ∧
      ((isArray r = false ∧ w.d ≠ 0) ∨ regWritable s.rank r 0 = false → s.illegalAt i) ∧
      (∀ l, lowest (s.activeFor i) = some l → regWritable s.rank r (s.element r w.d l) = false → s.illegalAt i)

/-- R262, R263, R285, R305, R361, R362: a register that stores what is written to it reads back those bits of the value that it has,
and where the read-only registers stand. -/
def Obligations.SystemRegisters : Prop :=
  (∀ (s : State) (v : RegView) (n : Nat) (x : Word) (held : Option Lpb),
     (∀ e ∈ ([(0x038, 0x3FF), (0x048, 0xFFE00000), (0x049, 0xFFFFF), (0x04C, 0xFF), (0x060, 1), (0x061, 0xFFFFFFFF), (0x062, 0xFFFFFFFF),
         (0x070, 0xFFFFF000), (0x071, 0xFFFFF), (0x091, 0xFFFFF), (0x0A0, 0xFFFFF000), (0x0A1, 0xFFFFF), (0x0A5, 0x1FF), (0x0A8, 0xFF000000),
         (0x0A9, 0xFFFFF), (0x0AC, 0x80000FFF), (0x0E0, 0xFFFFFFFF), (0x0E1, 0xFFFFFFFF), (0x0E2, 0xFFFFFFFF), (0x0E3, 1),
         (0x0ED, 0xFFFFFFFF)] : List (Nat × Word)),
       ∃ t, s.writeReg v e.1 n x held = some t ∧ t.readReg v e.1 n = x &&& e.2) ∧
     (4 ≤ x.toNat % 32 → x.toNat % 32 ≤ 16 → ∃ t, s.writeReg v 0x0A2 n x held = some t ∧ t.readReg v 0x0A2 n = x &&& 0x1F) ∧
     (x.toNat ≤ 65536 → ∃ t, s.writeReg v 0x0AB n x held = some t ∧ t.readReg v 0x0AB n = x)) ∧
  (∀ (s : State) (g : GroupAt) (sid ctx n : Nat),
     let v : RegView := { ctx := ctx, core := g.core, who := .split g sid }
     let rd := s.readReg v
     rd 0x001 0 = BitVec.ofNat 32 g.ix ∧ rd 0x003 0 = BitVec.ofNat 32 (s.block g.core g.block).ix ∧
     rd 0x007 0 = BitVec.ofNat 32 g.core ∧ rd 0x008 0 = BitVec.ofNat 32 (g.core / 4) ∧ rd 0x009 0 = BitVec.ofNat 32 ctx ∧
     rd 0x00A 0 = BitVec.ofNat 32 (s.ctx ctx).part ∧ rd 0x010 0 = BitVec.ofNat 32 (s.coreCk g.core) ∧ rd 0x012 0 = BitVec.ofNat 32 s.ns ∧
     rd 0x020 0 = BitVec.ofNat 32 (s.core g.core).khz ∧
     rd 0x030 n = (s.ctx ctx).ev.extractLsb' (32 * n) 32 ∧ rd 0x031 n = BitVec.ofNat 32 ((s.ctx ctx).queue n).length ∧
     rd 0x040 0 = (s.ctx ctx).stallst ∧ rd 0x04A 0 = (s.ctx ctx).tgen ∧ rd 0x059 0 = (s.group g).uipend.setWidth 32 ∧
     rd 0x0D0 0 = (s.group g).xcause ∧ rd 0x0D1 0 = (s.group g).xinfo ∧ rd 0x0D2 0 = (s.group g).xmask ∧
     rd 0x0D9 0 = s.killst ∧ rd 0x0DA 0 = (s.ctx ctx).ctxerr ∧ rd 0x0DC 0 = (s.ctx ctx).lrefuse ∧ rd 0x0E5 0 = s.clkst ∧
     rd 0x0F9 0 = (s.ctx ctx).ctxderr ∧
     rd 0x0A3 0 = BitVec.ofNat 32 (s.part (s.ctx ctx).part).fqhead ∧ rd 0x0A4 0 = BitVec.ofNat 32 (s.part (s.ctx ctx).part).fqtail ∧
     rd 0x0AA 0 = BitVec.ofNat 32 ((s.parked.filter fun q => q.req.part == (s.ctx ctx).part).length +
       (s.reqs.filter fun q => q.record.isSome && q.part == (s.ctx ctx).part).length) ∧
     (∀ e rest, (s.group g).stack = e :: rest → e.trap = true → rd 0x0D3 0 = e.pc.setWidth 32 ∧ rd 0x0D4 0 = e.pc.extractLsb' 32 32) ∧
     ((s.group g).stack = [] → rd 0x0D3 0 = 0 ∧ rd 0x0D4 0 = 0))

/-- R76, R264, R333: TLBINV drops translations of the issuing core, SHOOT those of every core; SHOOT.ctx names a context, which needs
sys. -/
def Obligations.Shootdowns : Prop :=
  ∀ (s : State) (p : Pre) (w : SWord) l,
    let area : Nat × Nat := if s.operands.lane w.b l = 0 then (0, 2 ^ 57)
      else ((s.operands.pair w.a l).toNat % 2 ^ 57, (s.operands.pair w.a l).toNat % 2 ^ 57 + 65536 * (s.operands.lane w.b l).toNat)
    let own := (s.blk s.cur).ctx
    let named := (s.operands.lane p.c l).toNat
    (lowest (s.activeFor (.tlbinv p w)) = some l → s.mayIssue (.tlbinv p w) → ∃ t, exec (.tlbinv p w) s = .next t ∧
      s.wrote (s.rf s.cur) s.readLatches s.gens (t.setCore s.cur.core { t.core s.cur.core with tlb := (s.core s.cur.core).tlb }) ∧
      (t.core s.cur.core).tlb = (s.core s.cur.core).tlb.filter fun e =>
        !(e.ctx == own && decide (e.va < area.2) && decide (area.1 < e.va + e.size))) ∧
    (lowest (s.activeFor (.shoot p w)) = some l → s.mayIssue (.shoot p w) → s.shoots (.shoot p w) own area.1 area.2) ∧
    (lowest (s.activeFor (.shootCtx p w)) = some l → s.mayIssue (.shootCtx p w) → s.mayName named →
      ((s.ctx named).created = true → s.shoots (.shootCtx p w) named area.1 area.2) ∧
      ((s.ctx named).created = false → ∃ t, exec (.shootCtx p w) s = .next t ∧ s.wrote (s.rf s.cur) s.readLatches s.gens t)) ∧
    (lowest (s.activeFor (.shootCtx p w)) = some l → s.mayIssue (.shootCtx p w) → ¬s.mayName named → s.illegalAt (.shootCtx p w)) ∧
    (lowest (s.activeFor (.tlbinv p w)) = none → s.givesRegs (.tlbinv p w) (s.rf s.cur)) ∧
    (lowest (s.activeFor (.shoot p w)) = none → s.givesRegs (.shoot p w) (s.rf s.cur)) ∧
    (lowest (s.activeFor (.shootCtx p w)) = none → s.rank = 1 → s.givesRegs (.shootCtx p w) (s.rf s.cur))

/-- R59, R265, R266, R333: CTXSW asks every core that holds a block of its first context to pre-empt it and stages its second one;
UIEN sets the group's enable mask. That a context without a block stays resident is the model's reading (log entry 47). -/
def Obligations.ContextSwitch : Prop :=
  (∀ (s : State) (p : Pre) (w : SWord) l,
    let i : Instr := .ctxsw p w
    let a := (s.operands.lane w.a l).toNat
    let b := (s.operands.lane w.b l).toNat
    let spills := (s.ctx a).created = true ∧ (s.ctx a).killed = false ∧ (s.ctx a).res = .resident
    let stages := b ≠ 0xFFFFFFFF ∧ (s.ctx b).created = true ∧ (s.ctx b).killed = false ∧ ((s.ctx b).res = .spilled ∨ (s.ctx b).res = .spilling)
    (lowest (s.activeFor i) = none → s.rank = 1 → s.givesRegs i (s.rf s.cur)) ∧
    (lowest (s.activeFor i) = some l → s.mayIssue i → s.mayName a → (b ≠ 0xFFFFFFFF → s.mayName b) → ∃ t, exec i s = .next t ∧
      s.wrote (s.rf s.cur) s.readLatches s.gens (s.unswitched { t with ctxs := s.ctxs }) ∧
      (∀ n, { t.ctx n with staged := (s.ctx n).staged } = s.ctx n) ∧
      (∀ n, (t.ctx n).staged = true ↔ (s.ctx n).staged = true ∨ (stages ∧ n = b)) ∧
      ∀ k, (∀ n, n ∈ (t.core k).preempt ↔ n ∈ (s.core k).preempt ∨ (spills ∧ n = a ∧ (s.core k).holds a = true)) ∧
        ((spills ∧ stages ∧ (s.core k).holds a = true → (t.core k).pairs = (s.core k).pairs.filter (fun q => q.1 != a) ++ [(a, b)]) ∧
         (¬(spills ∧ stages ∧ (s.core k).holds a = true) → (t.core k).pairs = (s.core k).pairs))) ∧
    (lowest (s.activeFor i) = some l → s.mayIssue i → ¬(s.mayName a ∧ (b ≠ 0xFFFFFFFF → s.mayName b)) → s.illegalAt i)) ∧
  ∀ (s : State) (p : Pre) (w : SWord),
    let i : Instr := .uien p w
    (lowest (s.activeFor i) = none → s.givesRegs i (s.rf s.cur)) ∧
    ∀ l g sid, lowest (s.activeFor i) = some l → s.cur = .split g sid → s.mayIssue i → ∃ t, exec i s = .next t ∧
      s.wrote (s.rf s.cur) s.readLatches s.gens (t.setGroup g { t.group g with uien := (s.group g).uien }) ∧
      (t.group g).uien = (s.operands.lane w.a l).setWidth 8

/-- R28, R31, R56, R83, R189, R204, R303, R309: the events of a group. At the start of a cycle, splits at one address and depth merge
(outside a chain span; a core whose cycle falls in a later one of the model's starts none), and after the merges the top divergence entry becomes a split in a free slot while the group has fewer than
four, once a cycle; an atomic or LDFE that a split leaves so while it waits gives up its scoreboard entry; the lowest pending and enabled user interrupt enters the handler as cause 7, before the turns of the cycle; a YIELD ends
after 64 ck; a waiting queue instruction or LDFE tries again in its turn. How the merged split goes on where two did not wait alike,
and that one whose instruction has completed leaves it first, is the model's choice (log entries 45 and 67), and so is which slot a split takes (log entry 81), and which split takes an interrupt where none
is ready (log entry 93). -/
def Obligations.GroupEvents : Prop :=
  (∀ (s : State) g i j, s.arg = .splits g i j → i ≠ j → (s.group g).live = true →
    let x := (s.group g).split i
    let y := (s.group g).split j
    let spans (k : Nat) : Bool := (s.group g).last == some k && s.inSpan g.core (s.block g.core g.block).ctx ((s.group g).split k)
    let gone (p : Split) (n : Nat) : Bool := (p.wait == some .walks || p.wait == some .ldfe) && p.walks == some n
    x.live = true → y.live = true → x.pc = y.pc → x.depth = y.depth → s.leaving g x = false → s.leaving g y = false →
      s.lined = false → (s.core g.core).sits = false → (s.group g).popped = false → spans i = false → spans j = false → ∃ t, exec .splitMerge s = .next t ∧
      (let z := (t.group g).split i
       z.live = true ∧ z.pc = x.pc ∧ z.depth = x.depth ∧ z.mask = x.mask ||| y.mask ∧ z.age = min x.age y.age ∧ z.pos = x.pos ∧
         z.got = x.got ||| y.got ∧
         (x.waitsWith y = true → z.wait = x.wait) ∧ (x.waitsWith y = false → z.wait = none)) ∧
      ((t.group g).split j).live = false ∧ (∀ n, n ≠ i → n ≠ j → (t.group g).split n = (s.group g).split n) ∧
      { t.group g with splits := (s.group g).splits, last := (s.group g).last, sb := (s.group g).sb } = s.group g ∧
      (t.group g).sb = (s.group g).sb.filter (fun e => !gone x e.id && !gone y e.id) ∧
      (∀ q ∈ t.reqs, q ∈ s.reqs) ∧ (∀ q ∈ s.reqs, q.held = false → q ∈ t.reqs) ∧ s.onlyGroup g { t with reqs := s.reqs }) ∧
  (∀ (s : State) g e rest, s.arg = .group g → (s.group g).live = true → (s.group g).liveSplits.length < 4 → (s.group g).stack = e :: rest →
    e.trap = false → s.lined = false → (s.core g.core).sits = false → (s.group g).popped = false → s.merges g = [] → ∃ t n, exec .stackPop s = .next t ∧ ((s.group g).split n).live = false ∧ (t.group g).stack = rest ∧
      (let z := (t.group g).split n
       z.live = true ∧ z.pc = e.pc ∧ z.mask = e.mask ∧ z.depth = trapDepth rest ∧ z.age = (s.core g.core).age ∧ z.got = e.got ∧
         z.walks = e.walks ∧ z.snap = e.snap ∧ z.pos < 4 ∧ (∀ x ∈ (s.group g).liveSplits, x.2.pos ≠ z.pos) ∧
         ∀ k, k < z.pos → ∃ x ∈ (s.group g).liveSplits, x.2.pos = k) ∧
      (t.core g.core).age = (s.core g.core).age + 1 ∧ (∀ m, m ≠ n → (t.group g).split m = (s.group g).split m) ∧
      { t.group g with splits := (s.group g).splits, nextSplit := (s.group g).nextSplit, stack := (s.group g).stack, popped := false } = s.group g ∧
      (t.group g).popped = true ∧ s.onlyGroup g (t.setCore g.core { t.core g.core with age := (s.core g.core).age })) ∧
  (∀ (s : State) g sid, s.arg = .split g sid → s.interruptee g = some sid →
    (s.group g).live = true ∧ s.lined = false ∧ (∀ x ∈ (s.group g).liveSplits, x.2.depth = 0) ∧
    ∀ n, n < 8 → (s.group g).lines.getLsbD n = true → (∀ m, m < n → (s.group g).lines.getLsbD m = false) →
      ((s.group g).stack.length < 16 → (s.ctx (s.block g.core g.block).ctx).handler ≠ 0 → ∃ t, exec .userInterruptDelivery s = .next t ∧
        (let p := (s.group g).split sid
         let sb := (s.group g).sb.filter fun e => !((p.wait == some .walks || p.wait == some .ldfe) && p.walks == some e.id)
         (s.setGroup g { s.group g with sb := sb }).entersTrap g sid 7 (BitVec.ofNat 32 n) p.mask p.pc { t with reqs := s.reqs }) ∧
        (t.group g).uipend = (s.group g).uipend &&& ~~~(1#8 <<< n) ∧ ∀ q ∈ t.reqs, q ∈ s.reqs) ∧
      (16 ≤ (s.group g).stack.length ∨ (s.ctx (s.block g.core g.block).ctx).handler = 0 → ∃ t, exec .userInterruptDelivery s = .next t ∧
        s.halted (s.block g.core g.block).ctx g.core ((s.block g.core g.block).place.slot + g.ix) 7 t)) ∧
  (∀ (s : State) g i peers n stop, s.arg = .split g i → ((s.group g).split i).yield = some (peers, n, stop) → stop ≤ s.coreCk g.core →
    ∃ t, exec .yieldTimeout s = .next t ∧ (t.group g).split i = { (s.group g).split i with yield := none } ∧
      (∀ m, m ≠ i → (t.group g).split m = (s.group g).split m) ∧ { t.group g with splits := (s.group g).splits } = s.group g ∧ s.onlyGroup g t) ∧
  ∀ (s : State) w v n, s.arg = .who w → s.lined = true → (s.sp w).tried = false → s.lives w = true →
    let again (wait : Wait) (event i : Instr) : Prop := (s.sp w).wait = some wait → s.fetched w = .ok i v n →
      ∃ t, exec event s = .next t ∧ exec i (s.hand w i v n) = .next t
    (∀ p x, again .qpush .queueRetry (.qpush p x) ∧ again .qpop .queueRetry (.qpop p x)) ∧
      ∀ p x, again .ldfe .ldfeRetry (.ldfeKeep p x) ∧ again .ldfe .ldfeRetry (.ldfeClr p x)

/-- R29, R35, R42, R45, R48, R62, R124, R216: the events of the dispatcher. A taken launch leaves its queue and becomes a grid; a gang is
placed with its groups in their initial state; an empty block retires, and with its last block its gang, and with the last of its context
in any bank the spilling of the context; a finished grid retires
and applies its setmask; the phase of a barrier at which all have arrived completes. The places and turns are the model's choice
(log entries 46 and 48). -/
def Obligations.DispatchEvents : Prop :=
  (∀ (s : State) ctx p b rest, s.arg = .num2 ctx p → (s.ctx ctx).queue p = b :: rest → (s.ctx ctx).created = true → (s.ctx ctx).killed = false →
    lpbWait b &&& ~~~(s.ctx ctx).ev = 0 → (s.grids.filter fun g => g.2.live && g.2.ctx == ctx).length < 8 →
    (lpbWsr b = true → ∀ j ∈ s.jobs, j.part = (s.ctx ctx).part → j.kind = .pageIn ∨ recSpace j.dst ≠ .weight) →
    ∃ t, exec .launchTake s = .next t ∧ (∀ n, (t.ctx ctx).queue n = if n = p then rest else (s.ctx ctx).queue n) ∧
      { t.ctx ctx with lq := (s.ctx ctx).lq } = s.ctx ctx ∧ (∀ n, n ≠ ctx → t.ctx n = s.ctx n) ∧ t.nextId = s.nextId + 1 ∧
      (∀ n, t.grid n = if n = s.nextId then { live := true, ctx := ctx, lpb := b, next := 0, retired := 0 } else s.grid n) ∧
      { t with ctxs := s.ctxs, grids := s.grids, nextId := s.nextId } = s) ∧
  (∀ (s : State) n ps, s.arg = .places n ps →
    let g := s.grid n
    let part := (s.ctx g.ctx).part
    let b := g.lpb
    let at_ := gangIndex b g.next
    s.placesOk part b ps = true → (s.nextPlacement part).map (·.1) = some n → ∃ t, exec .gangPlace s = .next t ∧
      (∀ k, (h : k < ps.length) → (t.block ps[k].core (s.nextId + 1 + k)).initial g part n s.nextId k ps[k]) ∧
      (∀ m, t.grid m = if m = n then { g with next := g.next + 1 } else s.grid m) ∧
      (t.gang s.nextId).live = true ∧ ((t.gang s.nextId).x, (t.gang s.nextId).y, (t.gang s.nextId).z) = at_ ∧ (t.gang s.nextId).left = ps.length ∧
      (∀ c m, m < s.nextId → t.block c m = s.block c m) ∧ (∀ m, m < s.nextId → t.gang m = s.gang m) ∧
      { t with cores := s.cores, grids := s.grids, gangs := s.gangs, parts := s.parts, nextId := s.nextId } = s ∧
      ∀ c, { t.core c with act := (s.core c).act, age := (s.core c).age } = s.core c) ∧
  (∀ (s : State) core b, s.arg = .num2 core b →
    let bl := s.block core b
    bl.live = true → (∀ e ∈ bl.groups, e.2.live = false) → (∀ e ∈ bl.threads, e.2.live = false) → ∃ t, exec .blockRetire s = .next t ∧
      (t.block core b).live = false ∧ (∀ c m, ¬(c = core ∧ m = b) → t.block c m = s.block c m) ∧
      { t.core core with act := (s.core core).act, mq := (s.core core).mq, preempt := (s.core core).preempt, pairs := (s.core core).pairs } = s.core core ∧
      (∀ c, c ≠ core → t.core c = s.core c) ∧ { t with cores := s.cores, gangs := s.gangs, grids := s.grids, ctxs := s.ctxs } = s ∧
      (∀ n, n ≠ bl.ctx → t.ctx n = s.ctx n) ∧
      t.ctx bl.ctx = { s.ctx bl.ctx with
        res := if (s.ctx bl.ctx).res = .spilling ∧ t.banked bl.ctx = false then .spilled else (s.ctx bl.ctx).res } ∧
      (∀ m, m ≠ bl.gang → t.gang m = s.gang m) ∧ (∀ m, m ≠ bl.grid → t.grid m = s.grid m) ∧
      (1 < (s.gang bl.gang).left → t.gang bl.gang = { s.gang bl.gang with left := (s.gang bl.gang).left - 1 } ∧ t.grid bl.grid = s.grid bl.grid) ∧
      ((s.gang bl.gang).left ≤ 1 → (t.gang bl.gang).live = false ∧
        t.grid bl.grid = { s.grid bl.grid with retired := (s.grid bl.grid).retired + 1 })) ∧
  (∀ (s : State) n, s.arg = .num n →
    let g := s.grid n
    g.live = true → g.next = lpbGangs g.lpb → g.retired = lpbGangs g.lpb → s.gridOwes n = false → ∃ t, exec .gridRetire s = .next t ∧
      (t.grid n).live = false ∧ (∀ m, m ≠ n → t.grid m = s.grid m) ∧
      t.ctx g.ctx = { s.ctx g.ctx with evSet := if (s.ctx g.ctx).killed then (s.ctx g.ctx).evSet else (s.ctx g.ctx).evSet ||| lpbSet g.lpb } ∧
      (∀ m, m ≠ g.ctx → t.ctx m = s.ctx m) ∧ { t with grids := s.grids, ctxs := s.ctxs } = s) ∧
  (∀ (s : State) core b, s.arg = .barrier (.block core b) → s.phaseDone (.block core b) = true →
    (∀ e ∈ (s.block core b).groups, e.2.live = true → e.2.arrB = some (s.block core b).phase) ∧
    ∃ t, exec .barrierPhaseComplete s = .next t ∧ t.block core b = { s.block core b with phase := (s.block core b).phase + 1 } ∧
      (∀ c m, ¬(c = core ∧ m = b) → t.block c m = s.block c m) ∧ (∀ c, { t.core c with act := (s.core c).act } = s.core c) ∧
      { t with cores := s.cores } = s) ∧
  ∀ (s : State) n, s.arg = .barrier (.gang n) → s.phaseDone (.gang n) = true → ∃ t, exec .barrierPhaseComplete s = .next t ∧
    t.gang n = { s.gang n with phase := (s.gang n).phase + 1 } ∧ (∀ m, m ≠ n → t.gang m = s.gang m) ∧
    (s.gangRecord n = none → t.mem = s.mem ∧ t.cipher = s.cipher) ∧
    (∀ a, s.gangRecord n = some a →
      s.wroteFor (s.grid (s.gang n).grid).ctx (a + 264) (at_ 0 (natBytes ((s.gang n).phase + 1) 4 ++ natBytes (t.gangArrivals n).2 4)) t) ∧
    { t with gangs := s.gangs, mem := s.mem, cipher := s.cipher } = s

/-- R59 to R62, R65, R263, R265, R313 to R319: pre-emption, spilling and loading, the layout of the save area, the stall and hang
reports, and KILLCTX. SPILL writes its frame, the header and the barrier words of its gangs' records, under the context's key where they
stand off the package (R25), and no other byte of memory; a load reads them as the context reads memory.
Log entries 15, 36, 47, 49, 50, 52, 70, 71, 72, 73 and 79 say what is the model's. -/
def Obligations.PreemptionEvents : Prop :=
  (∀ (s : State) core ctx, s.arg = .num2 core ctx → s.canSwap core ctx = true →
    ((s.core core).act.map (·.1)).Nodup → ((s.core core).sha.map (·.1)).Nodup →
    let come := s.comer core ctx
    let inn := match come with
      | some b => blocksOf (s.core core).sha b
      | none => []
    let goes (b : Nat) : Prop := (s.block core b).live = true ∧ (s.block core b).ctx = ctx
    let shadow (u : State) (b : Nat) : Block := FMap.get Block.empty (u.core core).sha b
    ∃ t, exec .preemptSwap s = .next t ∧
      (∀ b, goes b → shadow t b = (s.block core b).saved ∧ ((∀ e ∈ inn, e.1 ≠ b) → (t.block core b).live = false)) ∧
      (∀ e ∈ inn, t.block core e.1 = e.2 ∧ (¬goes e.1 → (shadow t e.1).live = false)) ∧
      (∀ b, (∀ e ∈ inn, e.1 ≠ b) → ¬goes b → t.block core b = s.block core b ∧ shadow t b = shadow s b) ∧
      (t.core core).swaps = (s.core core).swaps ++ [{ stop := s.coreCk core + 96, leaving := some ctx, coming := come }] ∧
      ctx ∉ (t.core core).preempt ∧ t.ctx ctx = { s.ctx ctx with res := .spilling, idle := 0 } ∧
      { t.core core with act := (s.core core).act, sha := (s.core core).sha, preempt := (s.core core).preempt, pairs := (s.core core).pairs,
                         swaps := (s.core core).swaps } = s.core core ∧
      (∀ q ∈ t.reqs, q ∈ s.reqs) ∧ (∀ q ∈ s.reqs, q.held = false → q ∈ t.reqs) ∧
      (∀ c, c ≠ core → t.core c = s.core c) ∧ (∀ n, n ≠ ctx → t.ctx n = s.ctx n) ∧ { t with cores := s.cores, ctxs := s.ctxs, reqs := s.reqs } = s) ∧
  (∀ (s : State) core ctx, s.arg = .num2 core ctx → s.canSpill core ctx = true →
    let x := s.ctx ctx
    let r := (s.part x.part).ranges
    let bs := blocksOf (s.core core).sha ctx
    ∃ t im sc, exec .spill s = .next t ∧ blocksOf (t.core core).sha ctx = [] ∧ (t.core core).act = (s.core core).act ∧ (∀ c, c ≠ core → t.core c = s.core c) ∧
      (t.ctx ctx).ranges = some r ∧ (t.ctx ctx).image = some im ∧
      (sc ∈ im ∧ sc.core = core ∧ sc.written = true ∧ sc.blocks = bs ∧ sc.ops = (s.core core).mq.filter fun o => bs.any fun e => e.1 == o.block) ∧
      (let frame := s.saveFrame r (frameBase x.save r ((im.findIdx? fun y => y.core == core).getD 0)) sc
       let header := saveHeader ctx r x.save (im.map (·.core))
       (∀ a, (∀ y ∈ frame, y.1 ≠ a) → (∀ y ∈ header, y.1 ≠ a) → (∀ e ∈ bs, ∀ g, t.gangRecord e.2.gang = some g → a < g + 264 ∨ g + 272 ≤ a) →
         Config.isCxl a = false ∨ ((∀ y ∈ frame, y.1 / 16 ≠ a / 16) ∧ (∀ y ∈ header, y.1 / 16 ≠ a / 16) ∧
           ∀ e ∈ bs, ∀ g, t.gangRecord e.2.gang = some g → a / 16 < (g + 264) / 16 ∨ (g + 271) / 16 < a / 16) →
         t.mem.read a = s.mem.read a) ∧
       ((∀ e ∈ bs, ∀ g, t.gangRecord e.2.gang = some g → x.save + 4096 ≤ g) →
         t.seenBytes ctx x.save 4 = natBytes (ctx % 4096) 4 ∧ t.seenBytes ctx (x.save + 4) 4 = natBytes im.length 4 ∧
         t.seenBytes ctx (x.save + 8) 4 = natBytes ((frameMap r).size / 4096) 4 ∧
         t.seenBytes ctx (x.save + 12) 7 = natBytes r.slots 1 ++ natBytes r.rows 2 ++ natBytes r.sprows 2 ++ natBytes r.tiles 1 ++ natBytes r.fifos 1)) ∧
      ((t.ctx ctx).res = .spilled ↔ t.banked ctx = false) ∧ (∀ n, n ≠ ctx → t.ctx n = s.ctx n) ∧
      { t with cores := s.cores, ctxs := s.ctxs, mem := s.mem, cipher := s.cipher } = s) ∧
  (∀ (r : Ranges),
    let f := frameMap r
    f.groups = 256 + 16384 ∧ f.threads = f.groups + 2048 * r.slots ∧ f.rows = f.threads + 2048 * 8 ∧ f.scratch = f.rows + 128 * r.rows ∧
      f.gran = f.scratch + 128 * r.sprows ∧ r.sprows ≤ f.tiles - f.gran ∧ f.tiles - f.gran < r.sprows + 128 ∧ (f.tiles - f.gran) % 128 = 0 ∧
      f.fifos = f.tiles + 8208 * r.tiles ∧ f.state = f.fifos + 8192 * r.fifos ∧ f.ops = f.fifos + 9216 * r.fifos ∧
      f.size % 4096 = 0 ∧ f.ops + 2048 ≤ f.size ∧ f.size < f.ops + 2048 + 4096) ∧
  (∀ (m : Memory) base ix (g : Group), g.liveSplits.length ≤ 4 → g.stack.length ≤ 16 →
    let u := m.writeAll (saveGroup base ix g)
    u.readN base 4 = natBytes g.rf.wbase 1 ++ natBytes g.liveSplits.length 1 ++ natBytes g.stack.length 1 ++ natBytes ix 1 ∧
      u.readN (base + 544) 12 = bytesOf g.xcause 4 ++ bytesOf g.xinfo 4 ++ bytesOf g.xmask 4 ∧ u.readN (base + 556) 8 = bytesOf g.xpc 8 ∧
      u.readN (base + 568) 8 = natBytes g.uien.toNat 4 ++ natBytes g.uipend.toNat 4 ∧
      ∀ a, a < base ∨ base + 2048 ≤ a → u.read a = m.read a) ∧
  (∀ (m : Memory) base (b : Block) (gang : Nat × Nat),
    let u := m.writeAll (saveBlock base b gang)
    (∀ i, i < 16 → u.readN (base + 16 * i) 12 = natBytes (b.queue i).cap 2 ++ natBytes (b.queue i).base 2 ++ natBytes (b.queue i).head 2 ++
        natBytes (b.queue i).tail 2 ++ natBytes (b.queue i).count 2 ++ natBytes (b.queue i).allow 2) ∧
      u.readN (base + 256) 8 = natBytes b.phase 4 ++ natBytes b.arrivals 4 ∧
      u.readN (base + 264) 8 = (if b.ix = 0 then natBytes gang.1 4 ++ natBytes gang.2 4 else natBytes 0 8) ∧
      ∀ a, a < base ∨ base + 512 ≤ a → u.read a = m.read a) ∧
  (∀ (s : State) core ctx, s.arg = .num2 core ctx → s.canLoad core ctx = true →
    let x := s.ctx ctx
    let r := (s.part x.part).ranges
    let m := s.memFor ctx
    (headerRanges m x.save ≠ [r.slots % 256, r.rows % 65536, r.sprows % 65536, r.tiles % 256, r.fifos % 256] →
      ∃ t, exec .restoreLoad s = .next t ∧ (s.setCtx ctx { x with staged := false }).halted ctx core 0 0 t) ∧
    ∀ i sc, headerRanges m x.save = [r.slots % 256, r.rows % 65536, r.sprows % 65536, r.tiles % 256, r.fifos % 256] →
      x.savedOn core = some (i, sc) →
        let base := frameBase x.save r i
        let new := loadFrame r m base sc
        let c := s.core core
        let loaded := new.blocks.zipIdx.foldl (fun u (e, j) => u.loadGang m (base + 256 + 512 * j) e.2)
          (s.setCore core { c with sha := bankPut c.sha new.blocks, mq := c.mq ++ new.ops })
        ∃ t, exec .restoreLoad s = .next t ∧ (t.ctx ctx).res = .restoring ∧ (∀ n, n ≠ ctx → t.ctx n = loaded.ctx n) ∧
          { t with ctxs := loaded.ctxs } = loaded) ∧
  (∀ (s : State) (m : Memory) record (b : Block),
    let t := s.loadGang m record b
    let here := (s.gangGroups b.gang).take (ofBytes (m.readN (record + 268) 4))
    (b.ix ≠ 0 → t = s) ∧
    (b.ix = 0 → t.gang b.gang = { s.gang b.gang with phase := ofBytes (m.readN (record + 264) 4) } ∧ (∀ n, n ≠ b.gang → t.gang n = s.gang n) ∧
      (∀ c k i, (s.block c k).live = true → (s.block c k).gang = b.gang → ((s.block c k).group i).live = true →
        let g := (s.block c k).group i
        let arr : Option Nat := if (c, k, i) ∈ here then some (ofBytes (m.readN (record + 264) 4)) else if g.arrG = some (s.gang b.gang).phase then none else g.arrG
        (t.block c k).group i = { g with arrG := arr }) ∧
      (∀ c k, (s.block c k).live = false ∨ (s.block c k).gang ≠ b.gang → t.block c k = s.block c k) ∧
      (∀ c, { t.core c with act := (s.core c).act, sha := (s.core c).sha } = s.core c) ∧
      (∀ n, { t.ctx n with image := (s.ctx n).image } = s.ctx n) ∧ { t with cores := s.cores, ctxs := s.ctxs, gangs := s.gangs } = s)) ∧
  (∀ (s : State) core ctx, s.arg = .num2 core ctx → s.canStage core ctx = true → ∃ t, exec .stagedSwap s = .next t ∧
    t.core core = { s.core core with
      act := bankPut (s.core core).act (blocksOf (s.core core).sha ctx)
      sha := bankLess (s.core core).sha ctx
      swaps := (s.core core).swaps ++ [{ stop := s.coreCk core + 96, leaving := none, coming := some ctx }] } ∧
    (∀ c, c ≠ core → t.core c = s.core c) ∧ { t with cores := s.cores } = s) ∧
  (∀ (s : State) ctx, s.arg = .num ctx → (s.ctx ctx).created = true → (s.ctx ctx).killed = false →
    ((s.ctx ctx).ctxerr.getLsbD 30 = false → (s.ctx ctx).stallst.getLsbD 31 = false → 2 ^ 20 ≤ (s.ctx ctx).idle → s.undispatched ctx = true →
      ∃ t, exec .stallReport s = .next t ∧ t.stallIrq = true ∧
        t.ctx ctx = { s.ctx ctx with stallst := 0x80000000 ||| BitVec.ofNat 32 (min (s.unplaced ctx) 0xFFFFF) } ∧
        (∀ n, n ≠ ctx → t.ctx n = s.ctx n) ∧ { t with ctxs := s.ctxs, stallIrq := s.stallIrq } = s) ∧
    ((s.ctx ctx).ctxerr &&& 0xC0000000 = 0 → 2 ^ 24 ≤ (s.ctx ctx).idle → s.undispatched ctx = false →
      (∀ x ∈ s.groupsOf ctx, ∀ e ∈ x.2.2.2.liveSplits, e.2.depth = 0) → ∃ t, exec .hangReport s = .next t ∧ t.ctxIrq = true ∧
        t.ctx ctx = { s.ctx ctx with ctxerr := (s.ctx ctx).ctxerr ||| 0x80000000 } ∧
        (∀ n, n ≠ ctx → t.ctx n = s.ctx n) ∧ { t with ctxs := s.ctxs, ctxIrq := s.ctxIrq } = s)) ∧
  ∀ (s : State) n v, s.arg = .write n v →
    let ctx := v.toNat % 4096
    (s.killst.getLsbD 31 = true → exec .killctx s = .next { s with kills := s.kills ++ [ctx] }) ∧
    (s.killst.getLsbD 31 = false → s.kills = [] → ∃ t, exec .killctx s = .next t ∧ (t.ctx ctx).lq = [] ∧
      ((∀ p ∈ s.parked, p.req.ctx = ctx) → t.parked = [] ∧ t.mem = s.mem ∧ t.ws = s.ws ∧ ∀ m, m ≠ ctx → t.ctx m = s.ctx m) ∧ (t.ctx ctx).ev = 0 ∧ (t.ctx ctx).ctxerr = 0 ∧ (t.ctx ctx).image = none ∧
      (∀ p ∈ t.parked, p.req.ctx ≠ ctx) ∧ (∀ c ∈ t.copies, c.ctx ≠ ctx) ∧ (∀ j ∈ t.jobs, j.ctx ≠ ctx) ∧
      ((t.killst = 0x80000000 ||| BitVec.ofNat 32 ctx ∧ (t.ctx ctx).killed = true) ∨
        (t.killst = BitVec.ofNat 32 ctx ∧ (t.ctx ctx).created = false ∧ (t.ctx ctx).killed = false ∧ t.banked ctx = false ∧
          ∀ q ∈ t.reqs, q.ctx = ctx → q.inbound = true)))

/-- R63, R73, R74, R80, R82, R92, R142, R148, R203, R206, R214, R253, R256, R278, R294, R349, R354, R355: the events of memory. A walk translates a request or
sends it to Sorrel and changes of memory at most the leaf; a performed store writes its bytes and no other; a performed read
changes no memory and its bytes land, or 0xFF bytes where an endpoint does not answer; an atomic replaces the bytes at its lane by its new
value and its old one lands, and a CASWAP that replaces lowers the count of the name that stood there; of the stores of one instruction to a
byte, through two addresses of a line too, the highest lane's stays; an insert's name and status land; failures of peers, endpoints and CXL
memory; an entry of the content store is counted once as poisoned. What a context writes to
memory off the package stands under its key, and what it reads there under another key is free (R25, log entry 79). Log entries 5, 8, 20,
23, 27, 28, 30, 33, 43, 79, 80 and 85 say what is the model's. -/
def Obligations.MemoryEvents : Prop :=
  (∀ (s : State) (r : Req), s.arg = .num r.id → s.req? r.id = some r → r.st = .needWalk → r.translated = true →
    let r1 : Req := { r with gen := (s.ctx r.ctx).tgen.toNat }
    (s.markers.contains (r.ctx, granuleOf r.va) = true → ∃ t, exec .pageWalk s = .next t ∧ s.moves r1 .routed t ∧ { t with reqs := s.reqs } = s) ∧
    (s.markers.contains (r.ctx, granuleOf r.va) = false →
      (∀ c l e, s.translate r.ctx r.va r.need (r.space == .peer) r.isAtomic = .fail c l e → ∃ t, exec .pageWalk s = .next t ∧
        s.moves r1 (.failed c l e) t ∧ { t with reqs := s.reqs } = s) ∧
      ∀ pa cls tier level at_ e, s.translate r.ctx r.va r.need (r.space == .peer) r.isAtomic = .ok pa cls tier level at_ e →
        ∃ t, exec .pageWalk s = .next t ∧ s.moves r1 (.mapped pa cls tier) t ∧ t.mem.read64 at_ = usedLeaf r.need e ∧
          (∀ a, a < at_ ∨ at_ + 8 ≤ a → t.mem.read a = s.mem.read a) ∧ { t with reqs := s.reqs, mem := s.mem, cores := s.cores, l2 := s.l2 } = s ∧
          ∀ c, { t.core c with tlb := (s.core c).tlb } = s.core c)) ∧
  (∀ (s : State) (r : Req) pa tier bs, s.arg = .num r.id → s.ready r pa tier → r.kind = .store bs → r.land = .none →
    ∃ t, exec .completion s = .next t ∧ s.wroteFor r.ctx pa bs t ∧ (s.drained r).served { t with mem := s.mem, cipher := s.cipher, parked := s.parked } ∧
      let later (q : Req) : Req := if q.seq = r.seq ∧ q.party = r.party ∧ q.core = r.core ∧ t.sameLine q r = true then q.without r else q
      t.req? r.id = none ∧ (∀ n, n ≠ r.id → t.req? n = (s.req? n).map fun q => if q.performed = true then q else later q) ∧
      t.parked.map (fun p => { p with ring := none }) = s.parked.map fun p => { p with req := if p.req.id = r.id then p.req else later p.req, ring := none }) ∧
  (∀ (q r : Req) bs, q.kind = .store bs → ∃ cs, (q.without r) = { q with kind := .store cs } ∧
    ∀ e, e ∈ cs ↔ e ∈ bs ∧ ∀ p ∈ r.pieces, p.off ≤ e.1 → e.1 < p.off + p.n → ∃ y ∈ q.pieces, y.off ≤ e.1 ∧ e.1 < y.off + y.n ∧ p.lane ≤ y.lane) ∧
  (∀ (s : State) (r : Req) pa tier, s.arg = .num r.id → s.ready r pa tier → r.kind = .load →
    (∀ c, r.land = .copy c → ∃ t, exec .completion s = .next t ∧ s.onlyReq r.id t ∧
      t.copies = (s.landPart c (r.bytesFrom fun i => s.seenBy r.ctx (pa + i))).copies ∧ (s.drained r).served { t with copies := s.copies }) ∧
    (s.settles r → ∃ t, exec .completion s = .next t ∧ s.onlyReq r.id t ∧ (s.drained r).landed r
      (r.pieces.flatMap fun p => r.land.writes p.lane p.first ((List.range p.n).map fun i => s.seenBy r.ctx (pa + (p.off + i)))) t)) ∧
  (∀ (s : State) (r : Req) pa tier p, s.arg = .num r.id → s.ready r pa tier → r.pieces = [p] → s.homely r →
    let old (n : Nat) : DWord := BitVec.ofNat 64 (ofBytes ((List.range n).map fun i => s.seenBy r.ctx (pa + (p.off + i))))
    let applies (n : Nat) (new : DWord) (part : Part) : Prop := ∃ t, exec .homeSliceAtomic s = .next t ∧
      s.wroteFor r.ctx pa ((bytesOf new n).zipIdx.map fun (b, i) => (p.off + i, b)) t ∧ t.applied = s.applied ++ s.arrivalsOf r ∧
      t.part r.part = part ∧ (∀ m, m ≠ r.part → t.part m = s.part m) ∧
      (s.settles r → s.onlyReq r.id t ∧ (s.drained r).landed r (r.land.writes p.lane 0 (bytesOf (old n) n))
        { t with mem := s.mem, cipher := s.cipher, applied := s.applied, parts := s.parts })
    (∀ op size v c, r.kind = .atom op size v c → size ≤ 8 → applies size (atomNew op size (old size) v c) (s.part r.part)) ∧
    ∀ v c, r.kind = .caswap v c →
      applies 8 (if old 8 = v then c else old 8) (if old 8 = v then (s.part r.part).dec (old 8) else s.part r.part)) ∧
  (∀ (s : State) (r : Req) kind line x, s.arg = .num r.id → s.req? r.id = some r → r.kind = .caInsert kind line → r.st = .mapped x 0 0 →
    s.mayGo r = true → s.homely r →
      let y := (s.part r.part).insert s.poisoned kind line
      let place := if y.2.2 = 0 then (y.1.entry? y.2.1).bind (·.place) else none
      ∃ t, exec .caInsert s = .next t ∧ t.part r.part = y.1 ∧ (∀ n, n ≠ r.part → t.part n = s.part n) ∧ t.ws = s.ws ∧
        (s.settles r → s.onlyReq r.id t ∧ (s.drained r).landed r
          (r.pieces.flatMap fun q => r.land.writes q.lane 0 (bytesOf y.2.1 8 ++ bytesOf (BitVec.ofNat 32 y.2.2) 4))
          { t with mem := s.mem, applied := s.applied, parts := s.parts }) ∧
        t.applied = s.applied ++ s.arrivalsOf r ∧
        (place = none → t.mem = s.mem) ∧ ∀ a, place = some a → (∀ i, i < 128 → t.mem.read (a + i) = CaLine.byte line i) ∧
          ∀ b, b < a ∨ a + 128 ≤ b → t.mem.read b = s.mem.read b) ∧
  (∀ (s : State) n, s.arg = .num n → ((∀ r ∈ s.reqs, r.joins n = false) → exec .readWindowClose s = .next s) ∧
    ∀ (r : Req) pa tier c, s.reqs.filter (·.joins n) = [r] → s.ready r pa tier → r.kind = .load → r.land = .copy c →
      ∃ t, exec .readWindowClose s = .next t ∧ s.onlyReq r.id t ∧ t.mem = s.mem ∧
        t.copies = (s.landPart c (r.bytesFrom fun i => s.seenBy r.ctx (pa + i))).copies) ∧
  (∀ (s : State) (x : Copy) i, s.arg = .num2 x.id i → (s.copies.find? fun y => y.id == x.id && y.left == 0) = some x →
    (∀ dst full core block, x.kind = .scratch dst full [(core, block)] → i = 0 → s.home x.ctx core block = .act → ∃ t, exec .copyLanding s = .next t ∧
      (∀ k, k < x.size → FMap.get 0 (t.block core block).scratch (dst + k) = x.byte k) ∧
      (∀ a, a < dst ∨ dst + x.size ≤ a → FMap.get 0 (t.block core block).scratch a = FMap.get 0 (s.block core block).scratch a) ∧
      (∀ g, (t.block core block).full g = (decide (full = true ∧ g ∈ granules dst x.size) || (s.block core block).full g)) ∧
      t.copies = s.copies.filter (fun y => y.id != x.id) ∧
      { t.block core block with scratch := (s.block core block).scratch, fe := (s.block core block).fe } = s.block core block ∧
      (∀ c b, ¬(c = core ∧ b = block) → t.block c b = s.block c b) ∧ { t with cores := s.cores, copies := s.copies } = s) ∧
    (∀ f e, x.kind = .fifo f e → s.home x.ctx x.core x.block = .act → ∃ t, exec .copyLanding s = .next t ∧
      t.block x.core x.block = (s.block x.core x.block).onEntry f e (fun y => y.fill x.buf) ∧ { t with cores := s.cores, copies := s.copies } = s) ∧
    ∀ w, x.kind = .lpb w → (s.sp w).walks = some x.id → w ≠ .nobody → ∃ t, exec .copyLanding s = .next t ∧
      t.sp w = { s.sp w with lpb := some (BitVec.ofNat 1024 (ofBytes ((List.range 128).map x.byte))) } ∧ { t with cores := s.cores, copies := s.copies } = s) ∧
  ∀ (s : State) (r : Req) pa, s.arg = .num r.id → s.req? r.id = some r → s.mayGo r = true →
    (∀ cls tier, r.st = .mapped pa cls tier → r.space = .peer → cls = 2 ∨ cls = 3 → ∃ t, exec .peerFailureCompletion s = .next t ∧
      s.moves r (.failed 5 0 0) t ∧ { t with reqs := s.reqs } = s) ∧
    (∀ tier, r.st = .mapped pa 4 tier → r.kind = .load → (∀ c, r.land ≠ .copy c ∧ r.land ≠ .job c) → s.homely r → ∃ t, exec .mmioReadTimeout s = .next t ∧
      (t.port (Config.portOf pa).val).uncorr = min 255 ((s.port (Config.portOf pa).val).uncorr + 1) ∧ t.mem = s.mem ∧
      (s.settles r → s.onlyReq r.id t ∧ s.landed r (r.pieces.flatMap fun p => r.land.writes p.lane p.first (List.replicate p.n 0xFF))
        { t with ports := s.ports })) ∧
    (∀ cls tier, r.st = .mapped pa cls tier → cls = 0 ∧ tier = 2 ∨ (cls = 2 ∨ cls = 3) ∧ Config.isCxl pa = true → r.translated = true → r.need ≠ .write → ∃ t, exec .cxlPoisonCompletion s = .next t ∧ s.moves r (.failed 4 0 0) t ∧
      (∀ n, FMap.get false t.poison n = (decide (n = lineOf pa) || FMap.get false s.poison n)) ∧
      t.parts = (s.parts.map fun e => (e.1, e.2.notePoison t.poisoned)) ∧ { t with reqs := s.reqs, poison := s.poison, parts := s.parts } = s) ∧
    ∀ (x : Part) (bad : Nat → Bool), let y := x.notePoison bad
      (y.capois = min 0xFFFFFFFF (x.capois + (x.cas.filter fun e => e.bad bad && !e.counted).length) ∨ 0xFFFFFFFF < x.capois) ∧
      y = { x with cas := y.cas, capois := y.capois } ∧ y.cas = x.cas.map fun e => { e with counted := e.counted || e.bad bad }

/-- R18, R111, R278 to R287, R293, R353 to R355, R362: Sorrel parks a request with its sequence number, its cause, its marker and its
fault record, and writes a record that has no place on chip to the overflow ring; every TLB then drops the granule, and nothing else
of the cores changes; a fault record enters the fault queue in memory; REDRIVE performs what can now be performed; inbound requests;
and the states and counts of the ports. The cause of a record that waits only behind another is that of the record ahead, and a REDRIVE holds
a record behind those of its own port or party alone: the model's choice (log entry 55). Log entries 26, 56, 57 and 64 say what else is the model's. -/
def Obligations.ParkingAndPorts : Prop :=
  (∀ (s : State) (r : Req), s.arg = .num r.id → s.req? r.id = some r → s.canPark r = true → (s.ctx r.ctx).killed = false →
    let ring := (s.dropReq r.id).ringPlace r.part r.slice
    let parks (cause level : Nat) (pte : DWord) (tried told : Bool) (t : State) : Prop :=
      let p : ParkRec := ⟨{ r with record := none }, r.slice, FMap.get 0 s.seqs r.slice, cause, level, pte, s.ns, tried, told, ring⟩
      exec .park s = .next t ∧ s.onlyReq r.id t ∧ t.parked = s.parked ++ [p] ∧
      (∀ n, FMap.get 0 t.seqs n = FMap.get 0 s.seqs n + if n = r.slice then 1 else 0) ∧ (r.translated = true → (r.ctx, granuleOf r.va) ∈ t.markers) ∧
      (ring = none → t.mem = s.mem) ∧
      (∀ k, ring = some k →
        let at_ := (s.part r.part).pkbase + 256 * k
        t.mem.readN at_ 256 = bytesOf (s.recordBits p) 256 ∧ ∀ a, a < at_ ∨ at_ + 256 ≤ a → t.mem.read a = s.mem.read a) ∧
      (∀ k, (t.core k).tlb = (s.core k).tlb.filter fun e =>
        !(r.translated && !s.markers.contains (r.ctx, granuleOf r.va) && e.meets r.ctx (65536 * granuleOf r.va) (65536 * (granuleOf r.va + 1)))) ∧
      (∀ k, { t.core k with tlb := (s.core k).tlb } = s.core k) ∧
      (∀ n, { t.part n with faults := (s.part n).faults } = s.part n ∧ (n ≠ r.part → t.part n = s.part n)) ∧
      { t with reqs := s.reqs, parked := s.parked, seqs := s.seqs, markers := s.markers, cores := s.cores, parts := s.parts, mem := s.mem } = s
    let reports (cause level : Nat) (pte : DWord) (t : State) : Prop :=
      cause ≠ 2 → (∀ p ∈ s.parked, p.near r pte = false) → ∃ f, (t.part r.part).faults = (s.part r.part).faults ++ [f] ∧ f.cause = cause ∧
        f.level = level ∧ f.pte = pte ∧ f.ctx = r.ctx ∧ f.part = r.part ∧ f.slice = r.slice ∧ f.seq = FMap.get 0 s.seqs r.slice ∧
        (r.translated = true → f.va = BitVec.ofNat 64 (r.va.toNat / 65536 * 65536))
    (∀ p, s.parked.find? (fun p => s.holds p r) = some p →
      (s.ownFail r = none → ∃ t, parks p.cause 0 0 false false t ∧ t.parts = s.parts) ∧
      ∀ c l e, s.ownFail r = some (c, l, e) → ∃ t, parks c l e false true t ∧ reports c l e t) ∧
    ∀ c l e, r.st = .failed c l e → c = 5 ∨ (r.translated = true ∧ s.markers.contains (r.ctx, granuleOf r.va) = false) →
      r.gen = (s.ctx r.ctx).tgen.toNat → (∀ p ∈ s.parked, s.holds p r = false) → ∃ t, parks c l e true true t ∧ reports c l e t) ∧
  (∀ (s : State) n f rest, s.arg = .num n → (s.part n).faults = f :: rest → (s.part n).queueRoom = true → ∃ t, exec .faultRecordPost s = .next t ∧
    t.part n = { s.part n with faults := rest, fqtail := ((s.part n).fqtail + 1) % 2 ^ (s.part n).fqsize } ∧ (∀ m, m ≠ n → t.part m = s.part m) ∧
    (let at_ := (s.part n).fqbase + 32 * (s.part n).fqtail
     t.mem.readN at_ 32 = bytesOf f.bits 32 ∧ ∀ a, a < at_ ∨ at_ + 32 ≤ a → t.mem.read a = s.mem.read a) ∧
    { t with parts := s.parts, mem := s.mem } = s) ∧
  (∀ (s : State) ctx v, s.arg = .write ctx v → (s.ctx ctx).created = true → (s.ctx ctx).killed = false →
    v.extractLsb' 24 8 = 0 ∨ v.extractLsb' 24 8 = 0xFF →
    (s.parked = [] → ∃ t, exec .redrive s = .next t ∧ t.ctx ctx = { s.ctx ctx with tgen := (s.ctx ctx).tgen + 1 } ∧
      { t with ctxs := s.ctxs, markers := s.markers } = s) ∧
    ∀ (p : ParkRec) pa tier level at_ e bs, s.parked = [p] → p.req.ctx = ctx → p.req.space = .global → p.req.kind = .store bs → p.req.land = .none →
      granuleOf p.req.va = granuleOf (v ++ ((s.ctx ctx).redrivelo.extractLsb' 16 16 ++ (0 : BitVec 16))) →
      s.translate ctx p.req.va .write false false = .ok pa 0 tier level at_ e → s.poisoned pa = false → ∃ t, exec .redrive s = .next t ∧ t.parked = [] ∧
        ({ s with mem := s.mem.write64 at_ (usedLeaf .write e) } : State).wroteFor ctx pa bs t) ∧
  (∀ (s : State) n tag va bs, s.arg = .posted n tag va bs → s.portUp n = true → s.quotaFree n = true → bs ≠ [] →
    va.toNat % 128 + bs.length ≤ 128 →
    let ctx := (s.port n).ioctx.toNat % 4096
    ((s.port n).ioctx.getLsbD 31 = false → ∃ t, exec .inboundPostedWrite s = .next t ∧
      t.port n = { s.port n with uncorr := min 255 ((s.port n).uncorr + 1) } ∧ (∀ m, m ≠ n → t.port m = s.port m) ∧ { t with ports := s.ports } = s) ∧
    ∀ pa tier level at_ e, (s.port n).ioctx.getLsbD 31 = true → (s.ctx ctx).created = true → (s.ctx ctx).killed = false → s.parked = [] →
      s.translate ctx (va - BitVec.ofNat 64 (va.toNat % 128)) .write false false = .ok pa 0 tier level at_ e → s.poisoned pa = false →
      ∃ t, exec .inboundPostedWrite s = .next t ∧ t.ports = s.ports ∧
        ({ s with mem := s.mem.write64 at_ (usedLeaf .write e) } : State).wroteFor ctx pa (bs.zipIdx.map fun (b, i) => (va.toNat % 128 + i, b)) t) ∧
  (∀ (s : State) n tag va len pa tier level at_ e, s.arg = .inbound n tag va len → s.portUp n = true → s.quotaFree n = true ∨ n < 8 → len ≠ 0 →
    va.toNat % 128 + len ≤ 128 →
    let ctx := (s.port n).ioctx.toNat % 4096
    (s.port n).ioctx.getLsbD 31 = true → (s.ctx ctx).created = true → (s.ctx ctx).killed = false → s.parked = [] →
      s.translate ctx (va - BitVec.ofNat 64 (va.toNat % 128)) .read false false = .ok pa 0 tier level at_ e → s.poisoned pa = false →
      let u : State := { s with mem := s.mem.write64 at_ (usedLeaf .read e) }
      ∃ t, exec .inboundRead s = .next t ∧ t.mem = u.mem ∧
        (t.port n).answers = (s.port n).answers ++ [(tag, some ((List.range len).map fun i => u.seenBy ctx (pa + (va.toNat % 128 + i))))]) ∧
  (∀ (s : State) (p : ParkRec) n tag, s.arg = .num p.req.id → s.parked = [p] → p.req.land = .port n tag → p.since + 100000000 ≤ s.ns →
    ∃ t f, exec .inboundTimeout s = .next t ∧ t.parked = [] ∧ (t.part p.req.part).faults = (s.part p.req.part).faults ++ [f] ∧ f.cause = p.cause ∧
      (t.port n).answers = (s.port n).answers ++ (if p.req.kind = .load then [(tag, none)] else []) ∧ t.mem = s.mem) ∧
  (∀ (s : State) n, s.arg = .num n →
    let p := s.port n
    let makes (i : Instr) (q : Port) : Prop := ∃ t, exec i s = .next t ∧ t.port n = q ∧ (∀ m, m ≠ n → t.port m = s.port m) ∧ { t with ports := s.ports } = s
    (p.state = 0 → makes .relaxedFlushAck { p with out := p.out ++ p.relaxed.map (fun e => (e.pa, e.bytes)), relaxed := [] }) ∧
    (p.state = 1 → makes .portRetrained { p with state := 0 }) ∧
    (p.state = 1 → (∀ q ∈ s.parked, q.req.party ≠ .port n) → ∃ t, exec .portDown s = .next t ∧
      t.port n = { p with
        state := 2
        uncorr := min 255 (p.uncorr + 1 + p.relaxed.length)
        relaxed := []
        poison := p.poison || decide (n < 4) } ∧
      (∀ m, m ≠ n → t.port m = s.port m) ∧ t.parts = (s.parts.map fun e => (e.1, e.2.notePoison t.poisoned)) ∧
      { t with ports := s.ports, parts := s.parts } = s)) ∧
  (∀ (s : State) n beat, s.arg = .num2 n beat → n < 24 → (s.port n).state = 0 →
    let p := s.port n
    let k := if p.fails ≠ 0 ∧ p.beat = beat then p.fails + 1 else 1
    ∃ t, exec .linkCheckFail s = .next t ∧ (∀ m, m ≠ n → t.port m = s.port m) ∧ { t with ports := s.ports } = s ∧
      (k ≤ 8 → t.port n = { p with corr := min 65535 (p.corr + 1), beat := beat, fails := k }) ∧
      (8 < k → t.port n = { p with corr := min 65535 (p.corr + 1), beat := beat, fails := 0, state := 1 })) ∧
  ∀ (s : State) n v, s.arg = .write n v → n < 24 →
    let p := s.port n
    let makes (i : Instr) (q : Port) : Prop := ∃ t, exec i s = .next t ∧ t.port n = q ∧ (∀ m, m ≠ n → t.port m = s.port m) ∧ { t with ports := s.ports } = s
    (v.getLsbD 29 = true → v.getLsbD 28 = false → makes .portRetrain (if p.state = 2 then { p with state := 1, fails := 0 } else p)) ∧
    (v.getLsbD 28 = true → v.getLsbD 29 = false → makes .portRearm (if p.state = 0 then { p with poison := false } else p)) ∧
    (v.getLsbD 28 = false → v.getLsbD 29 = false → makes .portstClear { p with uncorr := 0, corr := 0 })

/-- R86 to R88, R91, R98, R99, R112, R145, R150, R251, R292, R297, R346, R350: the jobs of Chervil, Lovage and Savory, the pools
and the hart that reads them, and the refresh windows of the weight store. Log entries 43, 58, 59, 60, 65, 76 and 77 say what is the
model's. -/
def Obligations.JobsAndPools : Prop :=
  (∀ (s : State) (j : Job), s.arg = .num j.id → s.job? j.id = some j → j.kind = .pageIn → j.left = 0 →
    let list := poolList 0 j.size
    let e := s.mem.read64 j.leafAt
    let sets (t : State) : Prop := t.job? j.id = none ∧ ∀ n ∈ j.ev, (t.ctx j.ctx).evSet.getLsbD (n % 256) = true
    (j.frame = none → s.pageOwed j = true ∨ s.engineFree = false → exec .pageInJob s = .next s) ∧
    (j.frame = none → s.pageOwed j = false → s.engineFree = true → s.stillFar j = false → ∃ t, exec .pageInJob s = .next t ∧ sets t ∧ t.mem = s.mem) ∧
    (∀ f rest, j.frame = none → s.pageOwed j = false → s.engineFree = true → s.stillFar j = true → FMap.get [] s.pools list = f :: rest → ∃ t, exec .pageInJob s = .next t ∧
      t.job? j.id = some { j with phase := 1, frame := some f, leaf := e } ∧ FMap.get [] t.pools list = rest ∧
      t.moving = s.moving ++ (pageGranules j.page j.size).map (fun g => (j.ctx, g)) ∧ t.mem.read64 j.leafAt = heldLeaf e ∧
      ∀ a, a < j.leafAt ∨ j.leafAt + 8 ≤ a → t.mem.read a = s.mem.read a) ∧
    ∀ f, j.frame = some f → s.badLines j = [] → s.parked = [] →
      let old := pteAddr j.leaf
      (∀ i, i < j.size → (f + i) / 16 < j.leafAt / 16 ∨ (j.leafAt + 7) / 16 < (f + i) / 16) → ∃ t, exec .pageInJob s = .next t ∧ sets t ∧
        (∀ i, i < j.size → t.seenBy j.ctx (f + i) = s.seenBy j.ctx (old + i)) ∧ t.mem.read64 j.leafAt = movedLeaf e j.leaf f ∧
        (∀ a, a < f ∨ f + j.size ≤ a → a < j.leafAt ∨ j.leafAt + 8 ≤ a → (Config.isCxl a = false ∨ ∀ i, i < j.size → (f + i) / 16 ≠ a / 16) →
          t.mem.read a = s.mem.read a) ∧
        t.savory = s.savory ++ [(old, poolList (pteTier j.leaf) j.size)] ∧
        ∀ g ∈ pageGranules j.page j.size, (j.ctx, g) ∉ t.moving) ∧
  (∀ (s : State) (j : Job), s.arg = .num j.id → s.job? j.id = some j → ∀ x ∈ ([(.bulkCopyJob, .bulk), (.cacopyJob, .tree)] : List (Instr × JobKind)),
    j.kind = x.2 →
    let asks (phase : Nat) (ls : List (DWord × List Piece)) (kind : List Piece → ReqKind) (t : State) : Prop :=
      (t.job? j.id).map (fun y => (y.phase, y.left)) = some (phase, ls.length) ∧ t.mem = s.mem ∧ ∃ qs, t.reqs = s.reqs ++ qs ∧
        qs.map (fun q => (q.kind, q.va, q.pieces)) = ls.map (fun y => (kind y.2, y.1, y.2))
    (j.phase = 0 → s.jobStarts j = true → ∃ t, exec x.1 s = .next t ∧ asks 1 (jobLines j.src j.len) (fun _ => .load) t) ∧
    (j.phase = 1 → j.left = 0 → recSpace j.dst ≠ .weight → ∃ t, exec x.1 s = .next t ∧ asks 2 (jobLines j.dst j.len)
      (fun ps => .store (ps.flatMap fun p => (List.range p.n).map fun i => (p.off + i, j.byte (p.first + i)))) t) ∧
    (j.phase = 1 → j.left = 0 → recSpace j.dst = .weight → s.parked = [] → ∃ t, exec x.1 s = .next t ∧ t.job? j.id = none ∧ t.mem = s.mem ∧
      (∀ n ∈ j.ev, (t.ctx j.ctx).evSet.getLsbD (n % 256) = true) ∧ (∀ i, i < j.len → FMap.get 0 t.ws (weightBase j.dst + i) = j.byte i) ∧
      ∀ a, a < weightBase j.dst ∨ weightBase j.dst + j.len ≤ a → FMap.get 0 t.ws a = FMap.get 0 s.ws a) ∧
    (j.phase = 2 → j.left = 0 → ∃ t, exec x.1 s = .next t ∧ t.job? j.id = none ∧ t.mem = s.mem ∧ t.ws = s.ws ∧
      ∀ n ∈ j.ev, (t.ctx j.ctx).evSet.getLsbD (n % 256) = true)) ∧
  (∀ (s : State) n e rest, s.arg = .num n → (s.part n).dying = e :: rest → ∃ t, exec .lovageReclaim s = .next t ∧ t.part n = (s.part n).reclaim s.poisoned ∧
    (e.kind ≠ 2 → t.part n = { s.part n with dying := rest }) ∧ (∀ m, m ≠ n → t.part m = s.part m) ∧
    t.applied = s.applied ++ (e.reached.map fun d => atDigest n d lovagePlace) ∧ { t with parts := s.parts, applied := s.applied } = s) ∧
  (∀ (s : State) pa list rest ok, s.arg = .flag ok → s.savory = (pa, list) :: rest → ∃ t, exec .savoryScrub s = .next t ∧ t.savory = rest ∧
    (∀ a, t.mem.read a = if pa ≤ a ∧ a < pa + listSize list then 0 else s.mem.read a) ∧
    (∀ n, FMap.get false t.poison n = (FMap.get false s.poison n && !decide (pa / 128 ≤ n ∧ n < (pa + listSize list) / 128))) ∧
    (∀ n, FMap.get none t.cipher n = if pa / 16 ≤ n ∧ n < (pa + listSize list) / 16 then none else FMap.get none s.cipher n) ∧
    (ok = true → (∀ m, FMap.get [] t.pools m = FMap.get [] s.pools m ++ if m = list then [pa] else []) ∧ t.retired = s.retired) ∧
    (ok = false → t.pools = s.pools ∧ t.retired = min 255 (s.retired + 1)) ∧
    { t with savory := s.savory, mem := s.mem, cipher := s.cipher, poison := s.poison, pools := s.pools, retired := s.retired } = s) ∧
  (∀ (s : State) pa list, s.arg = .num2 pa list → frameOk pa list = true → exec .savoryScrub s = .next { s with savory := s.savory ++ [(pa, list)] }) ∧
  (∀ (s : State) core tier, s.arg = .num2 core tier → tier < 3 →
    let h := s.hart core
    let takes (i : Instr) (list : Nat) : Prop :=
      (s.hartOn core = false ∨ s.poolNext core ≠ some list → exec i s = .next s) ∧
      ∀ w n f rd a off pa ctx e, s.hartNext core w n → rvOf w n = some (.load f rd a off) →
        s.hartReach core .read (h.xr a + off) (2 ^ (f % 4)) false = .ok pa → windowShape pa (2 ^ (f % 4)) = true → h.accessMode .read = .m →
        hartWindow pa = some (ctx, e, 0) → inWindow pa e = true → poolOf e = some list →
        (∀ fr rest, FMap.get [] s.pools list = fr :: rest → ∃ t, exec i s = .next t ∧
          t.core core = { s.core core with hart := (Rv.load f rd a off).lands h n ((frameWord fr list).setWidth 64) } ∧
          (∀ m, FMap.get [] t.pools m = if m = list then rest else FMap.get [] s.pools m) ∧ (∀ c, c ≠ core → t.core c = s.core c) ∧
          { t with cores := s.cores, pools := s.pools } = s) ∧
        (FMap.get [] s.pools list = [] → ∃ t, exec i s = .next t ∧
          t.core core = { s.core core with hart := { h with pending := some { word := w, len := n, pa := pa, lpb := h.pending.bind (·.lpb) } } } ∧
          (∀ c, c ≠ core → t.core c = s.core c) ∧ { t with cores := s.cores } = s ∧ (3 ≤ list → t.poolIrq = true))
    takes .poolTake64k tier ∧ takes .poolTake2m (tier + 3) ∧ takes .poolTake1g (tier + 6)) ∧
  (∀ s : State, exec .wsRefreshOpen s = .next s) ∧
  ∀ (s : State) seg, s.arg = .num seg → inRefresh seg s.ns = false → ((∀ r ∈ s.reqs, r.reads seg = false) → exec .wsRefreshClose s = .next s) ∧
    ∀ (r : Req) c x, s.reqs.filter (·.reads seg) = [r] → s.req? r.id = some r → r.kind = .load → r.land = .copy c → r.st = .mapped x 0 0 → s.mayGo r = true →
      FMap.get false s.wsPoison (lineOf r.va.toNat) = false → ∃ t, exec .wsRefreshClose s = .next t ∧ s.onlyReq r.id t ∧
        t.copies = (s.landPart c (r.bytesFrom fun i => FMap.get 0 s.ws (r.va.toNat + i))).copies ∧ s.recordsStand t ∧ s.markersStand t ∧
        { t with reqs := s.reqs, copies := s.copies, parked := s.parked, markers := s.markers } = s.drained r

/-- R16, R21 to R25, R97, R340, R342 to R344, R356 to R362: errors, clocks, throttling, resets, the boot ROM, the trust anchors and
the sideband. Log entries 7, 13, 22, 60, 61, 62, 68 and 79 say what is the model's. -/
def Obligations.DeviceEvents : Prop :=
  (∀ (s : State) engine part, s.arg = .num2 engine part →
    let old := FMap.get (1, 1) (s.part part).rate engine
    let sets (i : Instr) (ok : Nat × Nat → Prop) : Prop := ∃ t, exec i s = .next t ∧ ok (FMap.get (1, 1) (t.part part).rate engine) ∧
      (∀ n, n ≠ engine → FMap.get (1, 1) (t.part part).rate n = FMap.get (1, 1) (s.part part).rate n) ∧ (∀ n, n ≠ part → t.part n = s.part n) ∧
      { t.part part with rate := (s.part part).rate } = s.part part ∧ { t with parts := s.parts } = s
    sets .congestionMark (fun r => if 16 * (7 * old.1) < 8 * old.2 then r = (1, 16) else r.1 * (8 * old.2) = r.2 * (7 * old.1)) ∧
    sets .injectionRateRecover (fun r => if 64 * old.2 ≤ 64 * old.1 + old.2 then r = (1, 1) else r.1 * (64 * old.2) = r.2 * (64 * old.1 + old.2))) ∧
  (∀ s : State, exec .eccCorrected s = .next { s with corrected := min 65535 (s.corrected + 1) }) ∧
  (∀ s : State,
    (∀ pa, s.arg = .ecc (.line pa) → ∃ t, exec .eccUncorrectable s = .next t ∧
      (∀ n, FMap.get false t.poison n = (decide (n = lineOf pa) || FMap.get false s.poison n)) ∧
      t.parts = (s.parts.map fun e => (e.1, e.2.notePoison t.poisoned)) ∧ { t with poison := s.poison, parts := s.parts } = s) ∧
    (∀ pa, s.arg = .ecc (.cleanLine pa) → ∃ t, exec .eccUncorrectable s = .next t ∧ { t with l2 := s.l2 } = s) ∧
    (∀ a, s.arg = .ecc (.weightLine a) → ∃ t, exec .eccUncorrectable s = .next t ∧
      (∀ n, FMap.get false t.wsPoison n = (decide (n = lineOf a) || FMap.get false s.wsPoison n)) ∧ { t with wsPoison := s.wsPoison } = s) ∧
    (∀ g store row, s.arg = .ecc (.bank g store row) → (s.block g.core g.block).live = true →
      let b := s.block g.core g.block
      ∃ t, exec .eccUncorrectable s = .next t ∧ (t.ctx b.ctx).ctxderr = BitVec.ofNat 32 (storeCode store * 2 ^ 28 + row % 4096) ∧
        (s.setCtx b.ctx { s.ctx b.ctx with ctxderr := (t.ctx b.ctx).ctxderr }).halted b.ctx g.core (b.place.slot + g.ix) 0 t) ∧
    (∀ part name, s.arg = .ecc (.content part name) → ∃ t, exec .eccUncorrectable s = .next t ∧ t.part part = (s.part part).poisonEntry name ∧
      (∀ n, n ≠ part → t.part n = s.part n) ∧ { t with parts := s.parts } = s) ∧
    (∀ g store row c x sc b, s.arg = .ecc (.bank g store row) → ((s.core g.core).find g.block).live = false → s.ctxs = [(c, x)] →
      x.image = some [sc] → sc.core = g.core → sc.blocks = [(g.block, b)] → b.live = true → ∃ t, exec .eccUncorrectable s = .next t ∧
        (t.ctx b.ctx).ctxderr = BitVec.ofNat 32 (storeCode store * 2 ^ 28 + row % 4096) ∧
        (s.setCtx b.ctx { s.ctx b.ctx with ctxderr := (t.ctx b.ctx).ctxderr }).halted b.ctx g.core (b.place.slot + g.ix) 0 t) ∧
    ∀ (p : ParkRec), s.arg = .ecc (.park p.req.id) → s.parked = [p] → p.req.inbound = false → ∃ t, exec .eccUncorrectable s = .next t ∧ t.parked = [] ∧
      (t.ctx p.req.ctx).ctxderr = BitVec.ofNat 32 (6 * 2 ^ 28) ∧ t.mem = s.mem) ∧
  (∀ (s : State) i, s.arg = .island i → i ∈ s.switching → ∃ t, exec .clockIslandSwitch s = .next t ∧ t.switching = s.switching.filter (· != i) ∧
    (∀ c, (t.core c).khz = if i = .core c then s.going.1 else (s.core c).khz) ∧
    (∀ c, FMap.get 1700000 t.net c = if i = .cluster c then s.going.2.1 else FMap.get 1700000 s.net c) ∧
    (if t.switching = [] then t.clkst = 0 ∧ t.ssc = s.going.2.2 else t.clkst = s.clkst ∧ t.ssc = s.ssc) ∧
    { t with switching := s.switching, cores := s.cores, net := s.net, clkst := s.clkst, ssc := s.ssc } = s) ∧
  (∀ (s : State) n v, s.arg = .write n v →
    let within (v lo hi step : Nat) : Prop := lo ≤ v ∧ v ≤ hi ∧ v % step = 0
    let ok := within s.planar.toNat 700000 900000 1000 ∧ within s.plannet.toNat 1400000 1800000 1000 ∧
      ∀ j, j < 48 → within (FMap.get (2000 : Word) s.planreg j).toNat 1000 4000 10
    (v ≠ 1 → exec .plango s = .next s) ∧ (v = 1 → ¬ok → exec .plango s = .next { s with clkst := 3 }) ∧
    (v = 1 → ok → exec .plango s = .next { s with clkst := 1, switching := islands, going := (s.planar.toNat, s.plannet.toNat, s.planssc), regs := s.planreg })) ∧
  (∀ (s : State) bands, s.arg = .bands bands → exec .plango s = .next (if s.firmware = .running ∧ noPlan bands = true then { s with clkst := 2 } else s)) ∧
  (∀ (s : State) pwr therm, s.arg = .flags pwr therm →
    let t : State := { s with pwr := pwr, therm := therm, metAt := if (s.pwr = true ∨ s.therm = true) ∧ pwr = false ∧ therm = false then s.ns else s.metAt }
    ((pwr = true ∨ therm = true) ∧ s.levelAt + 100000 ≤ s.ns → exec .throttleRaise s = .next { t with level := min 12 (s.level + 1), levelAt := s.ns }) ∧
    (¬((pwr = true ∨ therm = true) ∧ s.levelAt + 100000 ≤ s.ns) → exec .throttleRaise s = .next t)) ∧
  (∀ s : State,
    let met := s.pwr = false ∧ s.therm = false ∧ s.metAt + 1000000 ≤ s.ns ∧ s.levelAt + 100000 ≤ s.ns
    (met → exec .throttleLower s = .next { s with level := s.level - 1, levelAt := s.ns }) ∧ (¬met → exec .throttleLower s = .next s) ∧
    (let t : State := { State.reset with agenda := s.agenda, draws := s.draws }
     exec .powerRemove s = .next t ∧ exec .sidebandReset s = .next t ∧
       exec .thermalReset s = .next { t with firmware := .thermal, image := s.image, therm := true, overheated := true })) ∧
  (∀ (s : State) i, s.arg = .boot i → s.firmware = .thermal → s.therm = true → exec .powerOnBoot s = .next s) ∧
  (∀ (s : State) i, s.arg = .boot i → s.windowsLocked = false → s.firmware ≠ .running → ¬(s.firmware = .thermal ∧ s.therm = true) → ∃ t, exec .powerOnBoot s = .next t ∧ t.windowsLocked = true ∧
    t.image = i ∧ { t with windowsLocked := s.windowsLocked, image := s.image, firmware := s.firmware, cores := s.cores } = s ∧
    (i.verifies = false → t.firmware = .none ∧ t.cores = s.cores) ∧
    (i.verifies = true → i.version.toNat < Config.minSecurityVersion → t.firmware = .refused ∧ t.cores = s.cores) ∧
    (i.verifies = true → Config.minSecurityVersion ≤ i.version.toNat → t.firmware = .running ∧ ∀ c,
      t.core c = if c < 512 then { s.core c with hart := { (s.core c).hart with started := true, mode := .m } } else s.core c)) ∧
  (∀ (s : State) bs, s.arg = .bytes bs →
    (bs.length = 32 → ∃ r, exec .attestation s = .next { s with sideband := s.sideband ++ [.attestation r], overheated := false } ∧ r.length = 136 ∧
      r.take 4 = [if s.overheated = true then 3 else BitVec.ofNat 8 s.firmware.status, 0, 0, 0] ∧ (r.drop 40).take 32 = bs ∧
      (s.firmware = .running → (r.drop 4).take 4 = bytesOf s.image.version 4) ∧
      (s.firmware = .none ∨ s.firmware = .refused → (r.drop 4).take 36 = List.replicate 36 0)) ∧
    (bs ≠ [1] → ¬(bs.length = 33 ∧ bs.head? = some 2) → exec .sidebandNack s = .next { s with sideband := s.sideband ++ [.nack] })) ∧
  ∀ (s : State) a, s.arg = .trust a →
    (a = .rootPortWindow ∧ s.windowsLocked = true ∨ (∃ k, a = .keySlotRead k) ∨ a = .powerLimit →
      exec .trustWriteRefused s = .next { s with trust := min 255 (s.trust + 1) }) ∧
    (∀ core k, a = .keySlotLoad core k → ∃ t, exec .trustWriteRefused s = .next t ∧ t.trust = min 255 (s.trust + 1) ∧
      t.core core = { s.core core with hart := { (s.core core).hart with result := 0 } } ∧ (∀ c, c ≠ core → t.core c = s.core c) ∧
      { t with cores := s.cores, trust := s.trust } = s) ∧
    ∀ k x, a = .keySlotWrite k x → k < 256 → ∃ t, exec .trustWriteRefused s = .next t ∧
      (∀ n, FMap.get 0 t.keys n = if n = k then x else FMap.get 0 s.keys n) ∧ { t with keys := s.keys } = s

/-- R37, R39, R137, R139, R262, R263, R284, R285, R295, R305, R310, R312, R332, R333, R361, R362: the writes of the system
registers, the creation of contexts and partitions, and the accesses of the harts. (That the interrupts of R263 and R305 stay
raised while another context raises them is the model's reading, log entry 40; that a write of CTXTAB is ignored once a context
exists is left to R262.) The harts run: each occurrence of theirs is the instruction
at the pc, an interrupt, or the retry of a waiting access, in the mode in which the hart is (R14, R15, R297). Their instructions, registers,
traps and translation are those of RV64GC and its privileged architecture, PRESUMED (log entry 9); an atomic of a hart to the register window
returns 0 and writes nothing, and LR and SC there leave no reservation and fail: the model's choice (log entry 78); so is that a write of
LAUNCHQ through the window of a number that holds no context is dropped (log entry 91). One that waits keeps the block that it named as it
arrived. Log entries 53, 54, 63 and 74 say what else is the model's. -/
def Obligations.RegisterWriteEvents : Prop :=
  (∀ (s : State) ctx v, s.arg = .write ctx v →
    let x := s.ctx ctx
    let a := x.launchqhi.toNat * 2 ^ 32 + v.toNat
    (x.created = false ∨ x.killed = true → exec .launchq s = .next s) ∧
    (x.created = true → x.killed = false → v.toNat % 128 ≠ 0 → ∃ t, exec .launchq s = .next t ∧
      s.onlyCtx ctx { x with lrefuse := refusedReg x.lrefuse 1 } t) ∧
    (x.created = true → x.killed = false → v.toNat % 128 = 0 → ∃ t, exec .launchq s = .next t ∧
      s.takesBlock ctx (BitVec.ofNat 1024 (ofBytes (s.seenBytes ctx a 128))) t) ∧
    (v.getLsbD 31 = false → exec .stallstClear s = .next s) ∧
    (v.getLsbD 31 = true → ∃ t, exec .stallstClear s = .next t ∧ t.ctx ctx = { x with stallst := x.stallst &&& 0x7FFFFFFF } ∧
      (t.stallIrq = true ↔ ∃ e ∈ t.ctxs, e.2.stallst.getLsbD 31 = true) ∧
      (∀ n, n ≠ ctx → t.ctx n = s.ctx n) ∧ { t with ctxs := s.ctxs, stallIrq := s.stallIrq } = s) ∧
    (v &&& 0xC0000000 = 0 → exec .ctxerrClear s = .next s) ∧
    (v &&& 0xC0000000 ≠ 0 → ∃ t, exec .ctxerrClear s = .next t ∧
      t.ctx ctx = { x with ctxerr := x.ctxerr &&& ~~~(v &&& 0xC0000000) } ∧
      (t.ctxIrq = true ↔ ∃ e ∈ t.ctxs, e.2.ctxerr &&& 0xC0000000 ≠ 0) ∧
      (∀ n, n ≠ ctx → t.ctx n = s.ctx n) ∧ { t with ctxs := s.ctxs, ctxIrq := s.ctxIrq } = s) ∧
    (∃ t, exec .lrefuseClear s = .next t ∧ s.onlyCtx ctx { x with lrefuse := 0 } t) ∧
    (∃ t, exec .ctxderrClear s = .next t ∧ s.onlyCtx ctx { x with ctxderr := 0 } t) ∧
    exec .memerrClear s = .next { s with trust := 0, retired := 0, corrected := 0 }) ∧
  (∀ (s : State) ctx v, s.arg = .write ctx v →
    let n := (s.ctx ctx).part
    let p := s.part n
    (v ≠ 1 → exec .careset s = .next s) ∧
    (v = 1 → s.parked = [] → ∃ t, exec .careset s = .next t ∧
      s.onlyPart n { p with cas := [], dying := [], casat := 0, cafull := 0, capois := 0 } { t with markers := s.markers, jobs := s.jobs } ∧
      t.jobs = s.jobs.map fun j => if j.part = n then { j with holds := false } else j) ∧
    ∃ t, exec .caframe s = .next t ∧ s.onlyPart n { p with frames := (t.part n).frames } t ∧
      ∀ f, f ∈ (t.part n).frames ↔ f ∈ p.frames ∨ f = v.toNat) ∧
  (∀ (s : State) part v, s.arg = .write part v → ∃ t, exec .fqheadAdvance s = .next t ∧
    s.onlyPart part { s.part part with fqhead := v.toNat % 2 ^ (s.part part).fqsize } t) ∧
  (∀ (s : State) core ctx v, s.arg = .coreWrite core ctx v →
    (∀ b bl, (s.core core).act = [(b, bl)] → bl.live = true → bl.ctx = ctx → bl.place.slot ≤ (v.extractLsb' 8 5).toNat →
      let g : GroupAt := { core := core, block := b, ix := (v.extractLsb' 8 5).toNat - bl.place.slot }
      (s.group g).live = true → ∃ t, exec .uiraise s = .next t ∧ s.onlyGroup g t ∧
        t.group g = { s.group g with uipend := (s.group g).uipend ||| (1#8 <<< (v.extractLsb' 0 3).toNat) }) ∧
    ((∀ e ∈ (s.core core).act, e.2.ctx ≠ ctx) → exec .uiraise s = .next s)) ∧
  (∀ (s : State) g high v, s.arg = .groupWrite g high v →
    (∃ t, exec .mfreezeFreeze s = .next t ∧ s.onlyGroup g t ∧ t.group g = { s.group g with freeze := v.getLsbD 0 }) ∧
    (∃ t, exec .mfreezeDiscard s = .next t ∧ t.group g = { s.group g with freeze := v.getLsbD 0 } ∧
      (v.getLsbD 1 = false ∨ v.getLsbD 0 = false → s.onlyGroup g t) ∧
      (v.getLsbD 1 = true → v.getLsbD 0 = true →
        (t.core g.core).mq = ((s.core g.core).mq.filter fun o => !(o.block == g.block && o.group == g.ix && !o.begun))) ∧
      (∀ c, c ≠ g.core → t.core c = s.core c) ∧ { t with cores := s.cores } = s ∧
      (∀ m, (t.group g).tile m = (s.group g).tile m ∧ (t.group g).bnd m = (s.group g).bnd m) ∧
      ∀ b, b ≠ g.block → t.block g.core b = s.block g.core b) ∧
    ∃ t, exec .xpcWrite s = .next t ∧ s.onlyGroup g t ∧ { t.group g with stack := (s.group g).stack } = s.group g ∧
      ((∀ e ∈ (s.group g).stack, e.trap = false) → t.group g = s.group g) ∧
      ∀ above e below, (s.group g).stack = above ++ e :: below → (∀ y ∈ above, y.trap = false) → e.trap = true →
        ∃ pc, (t.group g).stack = above ++ e.goTo pc :: below ∧ (e.goTo pc).pc = pc ∧ (e.goTo pc).mask = e.mask ∧ (e.goTo pc).trap = true ∧
          pc.setWidth 32 = (if high = true then e.pc.setWidth 32 else v) ∧ pc.extractLsb' 32 32 = if high = true then v else e.pc.extractLsb' 32 32) ∧
  (∀ (s : State) core ctx mode i n v, s.arg = .regWrite core ctx mode i n v → ∃ t, exec .registerWrite s = .next t ∧
    let may := s.hartOn core = true ∧ (s.hart core).mode = mode ∧ (s.hart core).pending = none ∧ ctx < 4096 ∧ regWritable (modeRank mode) i n = true ∧ plainReg i = true
    (¬may → t = s) ∧
    (may → i = 0x038 → s.onlyCtx ctx { s.ctx ctx with tclass := v &&& 0x3FF } t) ∧
    (may → i = 0x04C → s.onlyCtx ctx { s.ctx ctx with keyslot := v.setWidth 8 } t) ∧
    (may → i = 0x060 → s.onlyCtx ctx { s.ctx ctx with sys := v.getLsbD 0 } t) ∧
    (may → i = 0x0A2 → let b := v.toNat % 32
      s.onlyPart (s.ctx ctx).part { s.part (s.ctx ctx).part with fqsize := if 4 ≤ b ∧ b ≤ 16 then b else 4 } t) ∧
    (may → i = 0x0AB → s.onlyPart (s.ctx ctx).part { s.part (s.ctx ctx).part with pkioq := min v.toNat 65536 } t) ∧
    (may → i = 0x0AC → t.port n = { s.port n with ioctx := v &&& 0x80000FFF } ∧ (∀ m, m ≠ n → t.port m = s.port m) ∧
      { t with ports := s.ports } = s)) ∧
  (∀ (s : State) ctx part key, s.arg = .create ctx part key → ∃ t, exec .contextCreate s = .next t ∧
    (ctx < 4096 → part < 16 → (s.ctx ctx).created = false →
      ((t.ctx ctx).created = true ∧ (t.ctx ctx).killed = false ∧ (t.ctx ctx).part = part ∧ (t.ctx ctx).keyslot = key ∧ (t.ctx ctx).ev = 0 ∧
        ∀ q, (t.ctx ctx).queue q = []) ∧ (∀ n, n ≠ ctx → t.ctx n = s.ctx n) ∧ { t with ctxs := s.ctxs } = s) ∧
    (¬(ctx < 4096 ∧ part < 16 ∧ (s.ctx ctx).created = false) → t = s)) ∧
  (∀ (s : State) part r, s.arg = .ranges part r → ∃ t, exec .partitionRangesSet s = .next t ∧
    (t = s ∨ s.onlyPart part { s.part part with ranges := r } t) ∧
    (s.partBusy part = true → t = s) ∧ (16 ≤ part → t = s) ∧
    (∀ q e, (q, e) ∈ s.parts → q ≠ part → r.slots ≠ 0 → e.ranges.slots ≠ 0 → r.slot0 = e.ranges.slot0 → t = s) ∧
    (part < 16 → s.partBusy part = false → (∀ e ∈ s.parts, e.1 ≠ part → let q := e.2.ranges
        let apart (a n b m : Nat) : Prop := n = 0 ∨ m = 0 ∨ a + n ≤ b ∨ b + m ≤ a
        apart r.slot0 r.slots q.slot0 q.slots ∧ apart r.row0 r.rows q.row0 q.rows ∧ apart r.sprow0 r.sprows q.sprow0 q.sprows ∧
          apart r.tile0 r.tiles q.tile0 q.tiles ∧ apart r.fifo0 r.fifos q.fifo0 q.fifos) → r.slot0 + r.slots ≤ 32 → r.row0 + r.rows ≤ 4096 → r.row0 % 16 = 0 → r.rows % 16 = 0 →
      r.sprow0 + r.sprows ≤ 2048 → r.tile0 + r.tiles ≤ 32 → r.fifo0 + r.fifos ≤ 32 → s.onlyPart part { s.part part with ranges := r } t)) ∧
  (∀ (s : State) part v, s.arg = .segs part v → ∃ t, exec .partitionRangesSet s = .next t ∧
    (part < 16 → (∀ e ∈ s.parts, e.1 ≠ part → v &&& e.2.segs = 0) → s.onlyPart part { s.part part with segs := v } t) ∧
    (16 ≤ part ∨ (∃ e ∈ s.parts, e.1 ≠ part ∧ v &&& e.2.segs ≠ 0) → t = s)) ∧
  (∀ (h : Hart) irq code (tval : DWord), h.mode = .m ∨ (h.reg (if irq = true then 0x303 else 0x302)).getLsbD code = false →
    let x := h.trap irq code tval
    x.mode = .m ∧ x.mcause = (if irq = true then 0x8000000000000000 else 0) ||| BitVec.ofNat 64 code ∧ x.reg 0x341 = h.pc ∧ x.reg 0x343 = tval ∧
      x.pc = trapVector (h.reg 0x305) irq code ∧ x.x = h.x ∧ x.f = h.f ∧ x.result = h.result ∧ x.pending = none ∧ x.lr = none ∧
      (x.reg 0x300).getLsbD 3 = false ∧ (x.reg 0x300).getLsbD 7 = (h.reg 0x300).getLsbD 3 ∧
      (x.reg 0x300).extractLsb' 11 2 = BitVec.ofNat 2 (modeNumber h.mode)) ∧
  (∀ (h : Hart) irq code (tval : DWord), h.mode ≠ .m → (h.reg (if irq = true then 0x303 else 0x302)).getLsbD code = true →
    let x := h.trap irq code tval
    x.mode = .s ∧ x.reg 0x142 = (if irq = true then 0x8000000000000000 else 0) ||| BitVec.ofNat 64 code ∧ x.reg 0x141 = h.pc ∧
      x.reg 0x143 = tval ∧ x.pc = trapVector (h.reg 0x105) irq code ∧ x.x = h.x ∧ x.f = h.f ∧ x.mcause = h.mcause ∧
      (x.reg 0x300).getLsbD 1 = false ∧ (x.reg 0x300).getLsbD 5 = (h.reg 0x300).getLsbD 1 ∧
      (x.reg 0x300).getLsbD 8 = decide (h.mode = .s)) ∧
  (∀ (h : Hart) ck csr w n,
    let next (x : Hart) (pc : DWord) (rd : Nat) (v : DWord) : Prop :=
      x.pc = pc ∧ (rd ≠ 0 → rd < 32 → x.xr rd = v) ∧ (∀ k, k ≠ rd → x.xr k = h.xr k) ∧ x.mode = h.mode ∧ x.f = h.f
    let on : DWord := h.pc + BitVec.ofNat 64 n
    (∀ rd v, next (h.rv ck csr w n (.lui rd v)) on rd v ∧ next (h.rv ck csr w n (.auipc rd v)) on rd (h.pc + v)) ∧
    (∀ rd off, next (h.rv ck csr w n (.jal rd off)) (h.pc + off) rd on) ∧
    (∀ rd a off, next (h.rv ck csr w n (.jalr rd a off)) ((h.xr a + off) &&& ~~~(1 : DWord)) rd on) ∧
    (∀ rd a b, next (h.rv ck csr w n (.op false 0 false rd a b)) on rd (h.xr a + h.src b)) ∧
    (∀ a b off, (h.rv ck csr w n (.branch 0 a b off)).pc = if h.xr a = h.xr b then h.pc + off else on) ∧
    (h.mode = .u → h.rv ck csr w n .ecall = h.trap false 8 0 ∧ h.rv ck csr w n .mret = h.trap false 2 (w.setWidth 64)) ∧
    (h.mode = .m → (h.rv ck csr w n .mret).pc = h.reg 0x341 ∧
      (h.rv ck csr w n .mret).mode = hartModeOf ((h.reg 0x300).extractLsb' 11 2).toNat) ∧
    ∀ (r : Rv) v, (r.lands h n v).pc = on ∧ (r.lands h n v).mode = h.mode ∧ (r.lands h n v).pending = none ∧
      ∀ f rd a off, r = .load f rd a off → (rd ≠ 0 → rd < 32 → (r.lands h n v).xr rd = match f with
          | 0 => (v.setWidth 8).signExtend 64
          | 1 => (v.setWidth 16).signExtend 64
          | 2 => (v.setWidth 32).signExtend 64
          | _ => v) ∧ ∀ k, k ≠ rd → (r.lands h n v).xr k = h.xr k) ∧
  (∀ (s : State) core,
    let h := s.hart core
    (s.faultIrq core = true → h.mie16 = true → (h.reg 0x303).getLsbD 16 = false → h.mode ≠ .m ∨ (h.reg 0x300).getLsbD 3 = true →
      s.hartIrq core = some (true, 16)) ∧
    (∀ need va size strict, s.hartReach core need va size strict = match h.pending with
      | some p => .ok p.pa
      | none => if va.toNat % size ≠ 0 ∧ (strict = true ∨ (4096 < va.toNat % 4096 + size ∧ s.hartInWindow core need va = false)) then .error (if need = .read then 4 else 6)
        else match s.hartAddr core need va with
          | some pa => .ok pa
          | none => .error (if need = .read then 13 else 15)) ∧
    (s.hartAddr core .fetch h.pc = none → s.hartFetch core = .error (12, h.pc)) ∧
    ∀ pa, s.hartAddr core .fetch h.pc = some pa → let lo : BitVec 16 := BitVec.ofNat 16 (ofBytes (s.mem.readN pa 2))
      (hartWindow pa ≠ none ∨ s.badBytes pa 2 = true → s.hartFetch core = .error (1, h.pc)) ∧
      (hartWindow pa = none → s.badBytes pa 2 = false →
        (lo.toNat % 4 ≠ 3 → s.hartFetch core = .ok (lo.setWidth 32, 2)) ∧
        ∀ pb, lo.toNat % 4 = 3 → s.hartAddr core .fetch (h.pc + 2) = some pb → hartWindow pb = none → s.badBytes pb 2 = false →
          s.hartFetch core = .ok (BitVec.ofNat 16 (ofBytes (s.mem.readN pb 2)) ++ lo, 4))) ∧
  ∀ (s : State) core, s.arg = .hart core →
    let h := s.hart core
    let i : Instr := .supervisorHartAccess
    let becomes (x : Hart) : Prop := ∃ t, exec i s = .next t ∧ { t with cores := s.cores } = s ∧ s.onlyHart core x t
    (s.hartOn core = false → exec i s = .next s) ∧
    (s.hartOn core = true → h.pending = none →
      (∀ code, s.hartIrq core = some (true, code) → becomes (h.trapM true code 0)) ∧
      (∀ code, s.hartIrq core = some (false, code) → becomes (h.trapS true code 0)) ∧
      ∀ c v, s.hartIrq core = none → s.hartFetch core = .error (c, v) → becomes (h.trap false c v)) ∧
    (∀ w n, s.hartNext core w n → rvOf w n = none → becomes (h.trap false 2 (w.setWidth 64))) ∧
    ∀ w n r, s.hartNext core w n → rvOf w n = some r →
      (r.usesFp = true → h.fpOff = true → becomes (h.trap false 2 (w.setWidth 64))) ∧
      ((r.usesFp = true → h.fpOff = false) →
        (r.access h = none → becomes (h.rv (s.coreCk core) (s.csr core) w n r)) ∧
        ∀ need va size strict, r.access h = some (need, va, size, strict) →
          (∀ c, s.hartReach core need va size strict = .error c → becomes (h.trap false c va)) ∧
          ∀ pa, s.hartReach core need va size strict = .ok pa →
            let old : DWord := BitVec.ofNat 64 (ofBytes (s.mem.readN pa size))
            let stores (bs : List Byte) (x : Hart) : Prop := ∃ t, exec i s = .next t ∧ t.mem.readN pa bs.length = bs ∧
              (∀ a, a < pa ∨ pa + bs.length ≤ a → t.mem.read a = s.mem.read a) ∧ s.onlyHart core x t ∧
              { t with cores := s.cores, mem := s.mem, l2 := s.l2, applied := s.applied } = s
            let loads (x : Hart) : Prop := ∃ t, exec i s = .next t ∧ s.onlyHart core x t ∧ { t with cores := s.cores, l2 := s.l2 } = s
            (hartWindow pa = none → s.badBytes pa size = true →
              (need = .read → becomes (h.trap false 5 va)) ∧
              (r.storeBytes h size ≠ none ∨ (∃ op rd a src, r = .amo op size rd a src) → becomes (h.trap false 7 va))) ∧
            (hartWindow pa = none → s.badBytes pa size = false →
              (r.isLoad = true → loads (r.lands h n old)) ∧
              (∀ bs, r.storeBytes h size = some bs → stores bs (r.lands h n 0)) ∧
              (∀ op rd a src, r = .amo op size rd a src → stores (bytesOf (atomNew op size old (h.xr src) 0) size) (r.lands h n old)) ∧
              (∀ rd a, r = .lr size rd a → loads (r.lands { h with lr := some (pa, size, old) } n old)) ∧
              ∀ rd a src, r = .sc size rd a src → h.lr = some (pa, size, old) → stores (bytesOf (h.xr src) size) (r.lands { h with lr := none } n 0)) ∧
            (∀ rd a src, r = .sc size rd a src → h.lr ≠ some (pa, size, old) → becomes (r.lands { h with lr := none } n 1)) ∧
            ∀ ctx e x, hartWindow pa = some (ctx, e, x) →
              let may (f : Nat → Nat → Nat → Bool) (k : HartNeed) : Prop :=
                windowShape pa size = true ∧ inWindow pa e = true ∧ f (h.rank k) e x = true
              let view : RegView := { ctx := ctx, core := core, who := .nobody }
              (r.isLoad = true → (¬may regReadable .read → becomes (r.lands h n 0)) ∧
                (may regReadable .read → poolOf e = none → becomes (r.lands h n ((s.readReg view e x).setWidth 64)))) ∧
              (∀ bs, r.storeBytes h size = some bs → (¬may regWritable .write → becomes (r.lands h n 0)) ∧
                (may regWritable .write →
                  let held := h.pending.bind (·.lpb)
                  (∀ u, s.writeReg view e x (BitVec.ofNat 32 (ofBytes bs)) held = some u →
                    exec i s = .next (u.setHart core (r.lands (u.hart core) n 0))) ∧
                  (s.writeReg view e x (BitVec.ofNat 32 (ofBytes bs)) held = none →
                    becomes { h with pending := some { word := w, len := n, pa := pa, lpb := some (held.getD (BitVec.ofNat 1024 (ofBytes
                      (s.seenBytes ctx ((s.ctx ctx).launchqhi.toNat * 2 ^ 32 + ofBytes (bs.take 4)) 128)))) } }))) ∧
              ((∃ op rd a src, r = .amo op size rd a src) ∨ (∃ rd a, r = .lr size rd a) → becomes (r.lands h n 0)))
end

