-- ==== Sys2Proof/Laws/Maps.lean ====
section
/-! SUPPORT. The laws of the sorted maps: read after write, and that writes keep the canonical form. -/

namespace Sys2Proof

variable {α : Type}

@[simp] theorem FMap.get_nil (d : α) (j : Nat) : FMap.get d [] j = d := rfl

@[simp] theorem FMap.get_put_same (d : α) (m : FMap α) (j : Nat) (v : α) : FMap.get d (m.put j v) j = v := by
  induction m with
  | nil => simp [FMap.put, FMap.get]
  | cons e m ih =>
    obtain ⟨k, u⟩ := e
    simp only [FMap.put]
    split_ifs with h1 h2
    · simp [FMap.get]
    · simp [FMap.get]
    · simp [FMap.get, h2, ih]

theorem FMap.get_put_ne (d : α) (m : FMap α) {i j : Nat} (v : α) (h : i ≠ j) : FMap.get d (m.put j v) i = FMap.get d m i := by
  induction m with
  | nil => simp [FMap.put, FMap.get, h]
  | cons e m ih =>
    obtain ⟨k, u⟩ := e
    simp only [FMap.put]
    split_ifs with h1 h2
    · simp [FMap.get, h]
    · subst h2; simp [FMap.get, h]
    · simp only [FMap.get]; rw [ih]

theorem FMap.get_put (d : α) (m : FMap α) (i j : Nat) (v : α) :
    FMap.get d (m.put j v) i = if i = j then v else FMap.get d m i := by
  split_ifs with h
  · subst h; simp
  · exact FMap.get_put_ne d m v h

theorem FMap.get_erase (d : α) (m : FMap α) (i j : Nat) :
    FMap.get d (m.erase j) i = if i = j then d else FMap.get d m i := by
  induction m with
  | nil => simp [FMap.erase]
  | cons e m ih =>
    obtain ⟨k, u⟩ := e
    unfold FMap.erase at ih ⊢
    by_cases hk : k = j
    · subst hk
      rw [List.filter_cons]
      simp only [bne_self_eq_false, Bool.false_eq_true, if_false, ih, FMap.get]
      split_ifs <;> rfl
    · rw [List.filter_cons]
      have : (k != j) = true := by simpa using hk
      simp only [this, if_true, FMap.get, ih]
      split_ifs with h1 h2 <;> first | rfl | simp_all

/-- Read after write: the key written holds its value and every other key keeps its own. -/
theorem FMap.get_set [DecidableEq α] (d : α) (m : FMap α) (i j : Nat) (v : α) :
    FMap.get d (m.set d j v) i = if i = j then v else FMap.get d m i := by
  unfold FMap.set
  split_ifs with h1 h2 h2
  · rw [FMap.get_erase, if_pos h2, h1]
  · rw [FMap.get_erase, if_neg h2]
  · subst h2; simp
  · exact FMap.get_put_ne d m v h2

theorem FMap.mem_put {m : FMap α} {j : Nat} {v : α} {e : Nat × α} (h : e ∈ m.put j v) : e = (j, v) ∨ e ∈ m := by
  induction m with
  | nil => simp [FMap.put] at h; exact .inl h
  | cons x m ih =>
    obtain ⟨k, u⟩ := x
    simp only [FMap.put] at h
    split_ifs at h with h1 h2
    · rcases List.mem_cons.1 h with h | h
      · exact .inl h
      · exact .inr h
    · rcases List.mem_cons.1 h with h | h
      · exact .inl h
      · exact .inr (List.mem_cons_of_mem _ h)
    · rcases List.mem_cons.1 h with h | h
      · exact .inr (h ▸ List.mem_cons_self)
      · rcases ih h with h | h
        · exact .inl h
        · exact .inr (List.mem_cons_of_mem _ h)

theorem FMap.sorted_put {m : FMap α} (h : m.sorted = true) (j : Nat) (v : α) : (m.put j v).sorted = true := by
  simp only [FMap.sorted, decide_eq_true_eq] at h ⊢
  induction m with
  | nil => simp [FMap.put]
  | cons x m ih =>
    obtain ⟨k, u⟩ := x
    rw [List.pairwise_cons] at h
    simp only [FMap.put]
    split_ifs with h1 h2
    · rw [List.pairwise_cons]
      refine ⟨fun e he => ?_, by rw [List.pairwise_cons]; exact h⟩
      rcases List.mem_cons.1 he with rfl | he
      · exact h1
      · exact lt_trans h1 (h.1 e he)
    · subst h2
      rw [List.pairwise_cons]
      exact ⟨fun e he => h.1 e he, h.2⟩
    · rw [List.pairwise_cons]
      refine ⟨fun e he => ?_, ih h.2⟩
      rcases FMap.mem_put he with rfl | he
      · show k < j
        omega
      · exact h.1 e he

theorem FMap.sorted_erase {m : FMap α} (h : m.sorted = true) (j : Nat) : (m.erase j).sorted = true := by
  simp only [FMap.sorted, decide_eq_true_eq] at h ⊢
  exact h.filter _

/-- A write keeps the canonical form. -/
theorem FMap.wf_set [DecidableEq α] {d : α} {m : FMap α} (h : m.wf d = true) (j : Nat) (v : α) : (m.set d j v).wf d = true := by
  simp only [FMap.wf, Bool.and_eq_true, List.all_eq_true, decide_eq_true_eq] at h ⊢
  unfold FMap.set
  split_ifs with hv
  · exact ⟨FMap.sorted_erase h.1 j, fun e he => h.2 e (List.mem_of_mem_filter he)⟩
  · refine ⟨FMap.sorted_put h.1 j v, fun e he => ?_⟩
    rcases FMap.mem_put he with rfl | he
    · exact hv
    · exact h.2 e he

/-- Taking a key off keeps the canonical form. -/
theorem FMap.wf_erase [DecidableEq α] {d : α} {m : FMap α} (h : m.wf d = true) (j : Nat) : (m.erase j).wf d = true := by
  simp only [FMap.wf, Bool.and_eq_true, List.all_eq_true, decide_eq_true_eq] at h ⊢
  exact ⟨FMap.sorted_erase h.1 j, fun e he => h.2 e (List.mem_of_mem_filter he)⟩

end Sys2Proof

namespace Sys2Proof.Machine

/-- Read after write in memory. -/
theorem Memory.read_write (m : Memory) (a b : Nat) (v : Byte) : (m.write b v).read a = if a = b then v else m.read a :=
  FMap.get_set _ m a b v

/-- A write keeps memory's canonical form. -/
theorem Memory.wf_write {m : Memory} (h : m.wf = true) (a : Nat) (b : Byte) : (m.write a b).wf = true := FMap.wf_set h a b

/-- Writes keep memory's canonical form. -/
theorem Memory.wf_writeAll {m : Memory} (h : m.wf = true) (ws : List (Nat × Byte)) : (m.writeAll ws).wf = true := by
  induction ws generalizing m with
  | nil => exact h
  | cons e ws ih => exact ih (Memory.wf_write h e.1 e.2)

/-- A byte at which no write of the list falls keeps its value. -/
theorem Memory.read_writeAll_of_not_mem {m : Memory} {ws : List (Nat × Byte)} {a : Nat} (h : ∀ e ∈ ws, e.1 ≠ a) :
    (m.writeAll ws).read a = m.read a := by
  induction ws generalizing m with
  | nil => rfl
  | cons e ws ih =>
    obtain ⟨b, v⟩ := e
    have h1 : b ≠ a := h (b, v) List.mem_cons_self
    rw [Memory.writeAll, ih fun e he => h e (List.mem_cons_of_mem _ he), Memory.read_write, if_neg (fun hh => h1 hh.symm)]

/-- A byte to which the list gives one value takes it. -/
theorem Memory.read_writeAll_of_mem {m : Memory} {ws : List (Nat × Byte)} {e : Nat × Byte} (h : e ∈ ws) (hu : ∀ x ∈ ws, x.1 = e.1 → x = e) :
    (m.writeAll ws).read e.1 = e.2 := by
  induction ws generalizing m with
  | nil => cases h
  | cons w ws ih =>
    obtain ⟨b, v⟩ := w
    by_cases h1 : e ∈ ws
    · exact ih h1 fun x hx => hu x (List.mem_cons_of_mem _ hx)
    · have h2 : (b, v) = e := by
        rcases List.mem_cons.1 h with h | h
        · exact h.symm
        · exact absurd h h1
      subst h2
      have := Memory.read_writeAll_of_not_mem (m := m.write b v) (ws := ws) (a := b)
        (fun x hx hb => h1 (hu x (List.mem_cons_of_mem _ hx) hb ▸ hx))
      rw [show (m.writeAll ((b, v) :: ws)) = (m.write b v).writeAll ws from rfl, this, Memory.read_write, if_pos rfl]

/-- Consecutive bytes that are written are read. -/
theorem Memory.read_writeAll_at (m : Memory) (a n : Nat) (f : Nat → Byte) (x : Nat) :
    (m.writeAll (at_ a ((List.range n).map f))).read x = if a ≤ x ∧ x < a + n then f (x - a) else m.read x := by
  have mem : ∀ e, e ∈ at_ a ((List.range n).map f) ↔ ∃ i, i < n ∧ e = (a + i, f i) := by
    intro e
    simp only [at_, List.mem_map, List.mem_zipIdx_iff_getElem?, Prod.exists]
    constructor
    · rintro ⟨b, i, hb, rfl⟩
      rw [List.getElem?_map] at hb
      by_cases hi : i < n
      · rw [List.getElem?_range hi] at hb
        exact ⟨i, hi, by simpa using hb.symm⟩
      · rw [List.getElem?_eq_none (by simpa using hi)] at hb; simp at hb
    · rintro ⟨i, hi, rfl⟩
      exact ⟨f i, i, by rw [List.getElem?_map, List.getElem?_range hi]; rfl, rfl⟩
  split
  · rename_i h
    have := Memory.read_writeAll_of_mem (m := m) ((mem (a + (x - a), f (x - a))).2 ⟨x - a, by omega, rfl⟩) (by
      intro y hy hxy
      obtain ⟨i, hi, rfl⟩ := (mem y).1 hy
      simp only at hxy
      have : i = x - a := by omega
      subst this; rfl)
    simpa [show a + (x - a) = x by omega] using this
  · rename_i h
    refine Memory.read_writeAll_of_not_mem fun y hy hx => h ?_
    obtain ⟨i, hi, rfl⟩ := (mem y).1 hy
    simp only at hx
    omega

/-- The distinct elements of a list are its elements. -/
theorem mem_distinct (l : List Nat) (x : Nat) : x ∈ distinct l ↔ x ∈ l := by
  have : ∀ (l a : List Nat), x ∈ l.foldl (fun a x => if a.contains x then a else a ++ [x]) a ↔ x ∈ a ∨ x ∈ l := by
    intro l
    induction l with
    | nil => intro a; simp
    | cons y l ih =>
      intro a
      rw [List.foldl_cons, ih]
      split
      · rename_i h
        have : y ∈ a := by simpa using h
        constructor
        · rintro (h | h)
          · exact .inl h
          · exact .inr (List.mem_cons_of_mem _ h)
        · rintro (h | h)
          · exact .inl h
          · rcases List.mem_cons.1 h with rfl | h
            · exact .inl this
            · exact .inr h
      · simp [or_assoc]
  simpa [distinct] using this l []

end Sys2Proof.Machine
end

