-- ==== Sys2Proof/Laws/State.lean ====
section
/-! SUPPORT. What each named update of the state changes and keeps: one lemma for each field and update, and read after write
for the objects of the machine. -/

namespace Sys2Proof.Machine

@[simp] theorem State.setCore_mem (s : State) (c : Nat) (x : Core) : (s.setCore c x).mem = s.mem := rfl
@[simp] theorem State.setCore_ws (s : State) (c : Nat) (x : Core) : (s.setCore c x).ws = s.ws := rfl
@[simp] theorem State.setCore_poison (s : State) (c : Nat) (x : Core) : (s.setCore c x).poison = s.poison := rfl
@[simp] theorem State.setCore_wsPoison (s : State) (c : Nat) (x : Core) : (s.setCore c x).wsPoison = s.wsPoison := rfl
@[simp] theorem State.setCore_l2 (s : State) (c : Nat) (x : Core) : (s.setCore c x).l2 = s.l2 := rfl
@[simp] theorem State.setCore_net (s : State) (c : Nat) (x : Core) : (s.setCore c x).net = s.net := rfl
@[simp] theorem State.setCore_ctxs (s : State) (c : Nat) (x : Core) : (s.setCore c x).ctxs = s.ctxs := rfl
@[simp] theorem State.setCore_parts (s : State) (c : Nat) (x : Core) : (s.setCore c x).parts = s.parts := rfl
@[simp] theorem State.setCore_grids (s : State) (c : Nat) (x : Core) : (s.setCore c x).grids = s.grids := rfl
@[simp] theorem State.setCore_gangs (s : State) (c : Nat) (x : Core) : (s.setCore c x).gangs = s.gangs := rfl
@[simp] theorem State.setCore_ports (s : State) (c : Nat) (x : Core) : (s.setCore c x).ports = s.ports := rfl
@[simp] theorem State.setCore_reqs (s : State) (c : Nat) (x : Core) : (s.setCore c x).reqs = s.reqs := rfl
@[simp] theorem State.setCore_copies (s : State) (c : Nat) (x : Core) : (s.setCore c x).copies = s.copies := rfl
@[simp] theorem State.setCore_jobs (s : State) (c : Nat) (x : Core) : (s.setCore c x).jobs = s.jobs := rfl
@[simp] theorem State.setCore_parked (s : State) (c : Nat) (x : Core) : (s.setCore c x).parked = s.parked := rfl
@[simp] theorem State.setCore_seqs (s : State) (c : Nat) (x : Core) : (s.setCore c x).seqs = s.seqs := rfl
@[simp] theorem State.setCore_markers (s : State) (c : Nat) (x : Core) : (s.setCore c x).markers = s.markers := rfl
@[simp] theorem State.setCore_moving (s : State) (c : Nat) (x : Core) : (s.setCore c x).moving = s.moving := rfl
@[simp] theorem State.setCore_pools (s : State) (c : Nat) (x : Core) : (s.setCore c x).pools = s.pools := rfl
@[simp] theorem State.setCore_savory (s : State) (c : Nat) (x : Core) : (s.setCore c x).savory = s.savory := rfl
@[simp] theorem State.setCore_poollow (s : State) (c : Nat) (x : Core) : (s.setCore c x).poollow = s.poollow := rfl
@[simp] theorem State.setCore_killst (s : State) (c : Nat) (x : Core) : (s.setCore c x).killst = s.killst := rfl
@[simp] theorem State.setCore_kills (s : State) (c : Nat) (x : Core) : (s.setCore c x).kills = s.kills := rfl
@[simp] theorem State.setCore_ctxtab (s : State) (c : Nat) (x : Core) : (s.setCore c x).ctxtab = s.ctxtab := rfl
@[simp] theorem State.setCore_planar (s : State) (c : Nat) (x : Core) : (s.setCore c x).planar = s.planar := rfl
@[simp] theorem State.setCore_plannet (s : State) (c : Nat) (x : Core) : (s.setCore c x).plannet = s.plannet := rfl
@[simp] theorem State.setCore_planreg (s : State) (c : Nat) (x : Core) : (s.setCore c x).planreg = s.planreg := rfl
@[simp] theorem State.setCore_planssc (s : State) (c : Nat) (x : Core) : (s.setCore c x).planssc = s.planssc := rfl
@[simp] theorem State.setCore_clkst (s : State) (c : Nat) (x : Core) : (s.setCore c x).clkst = s.clkst := rfl
@[simp] theorem State.setCore_ssc (s : State) (c : Nat) (x : Core) : (s.setCore c x).ssc = s.ssc := rfl
@[simp] theorem State.setCore_switching (s : State) (c : Nat) (x : Core) : (s.setCore c x).switching = s.switching := rfl
@[simp] theorem State.setCore_going (s : State) (c : Nat) (x : Core) : (s.setCore c x).going = s.going := rfl
@[simp] theorem State.setCore_regs (s : State) (c : Nat) (x : Core) : (s.setCore c x).regs = s.regs := rfl
@[simp] theorem State.setCore_level (s : State) (c : Nat) (x : Core) : (s.setCore c x).level = s.level := rfl
@[simp] theorem State.setCore_pwr (s : State) (c : Nat) (x : Core) : (s.setCore c x).pwr = s.pwr := rfl
@[simp] theorem State.setCore_therm (s : State) (c : Nat) (x : Core) : (s.setCore c x).therm = s.therm := rfl
@[simp] theorem State.setCore_levelAt (s : State) (c : Nat) (x : Core) : (s.setCore c x).levelAt = s.levelAt := rfl
@[simp] theorem State.setCore_metAt (s : State) (c : Nat) (x : Core) : (s.setCore c x).metAt = s.metAt := rfl
@[simp] theorem State.setCore_overheated (s : State) (c : Nat) (x : Core) : (s.setCore c x).overheated = s.overheated := rfl
@[simp] theorem State.setCore_trust (s : State) (c : Nat) (x : Core) : (s.setCore c x).trust = s.trust := rfl
@[simp] theorem State.setCore_retired (s : State) (c : Nat) (x : Core) : (s.setCore c x).retired = s.retired := rfl
@[simp] theorem State.setCore_corrected (s : State) (c : Nat) (x : Core) : (s.setCore c x).corrected = s.corrected := rfl
@[simp] theorem State.setCore_keys (s : State) (c : Nat) (x : Core) : (s.setCore c x).keys = s.keys := rfl
@[simp] theorem State.setCore_cipher (s : State) (c : Nat) (x : Core) : (s.setCore c x).cipher = s.cipher := rfl
@[simp] theorem State.setCore_windowsLocked (s : State) (c : Nat) (x : Core) : (s.setCore c x).windowsLocked = s.windowsLocked := rfl
@[simp] theorem State.setCore_firmware (s : State) (c : Nat) (x : Core) : (s.setCore c x).firmware = s.firmware := rfl
@[simp] theorem State.setCore_image (s : State) (c : Nat) (x : Core) : (s.setCore c x).image = s.image := rfl
@[simp] theorem State.setCore_sideband (s : State) (c : Nat) (x : Core) : (s.setCore c x).sideband = s.sideband := rfl
@[simp] theorem State.setCore_ck (s : State) (c : Nat) (x : Core) : (s.setCore c x).ck = s.ck := rfl
@[simp] theorem State.setCore_ns (s : State) (c : Nat) (x : Core) : (s.setCore c x).ns = s.ns := rfl
@[simp] theorem State.setCore_frac (s : State) (c : Nat) (x : Core) : (s.setCore c x).frac = s.frac := rfl
@[simp] theorem State.setCore_stallIrq (s : State) (c : Nat) (x : Core) : (s.setCore c x).stallIrq = s.stallIrq := rfl
@[simp] theorem State.setCore_ctxIrq (s : State) (c : Nat) (x : Core) : (s.setCore c x).ctxIrq = s.ctxIrq := rfl
@[simp] theorem State.setCore_nextId (s : State) (c : Nat) (x : Core) : (s.setCore c x).nextId = s.nextId := rfl
@[simp] theorem State.setCore_draws (s : State) (c : Nat) (x : Core) : (s.setCore c x).draws = s.draws := rfl
@[simp] theorem State.setCore_lined (s : State) (c : Nat) (x : Core) : (s.setCore c x).lined = s.lined := rfl
@[simp] theorem State.setCore_issues (s : State) (c : Nat) (x : Core) : (s.setCore c x).issues = s.issues := rfl
@[simp] theorem State.setCore_agenda (s : State) (c : Nat) (x : Core) : (s.setCore c x).agenda = s.agenda := rfl
@[simp] theorem State.setCore_cur (s : State) (c : Nat) (x : Core) : (s.setCore c x).cur = s.cur := rfl
@[simp] theorem State.setCore_iword (s : State) (c : Nat) (x : Core) : (s.setCore c x).iword = s.iword := rfl
@[simp] theorem State.setCore_ilen (s : State) (c : Nat) (x : Core) : (s.setCore c x).ilen = s.ilen := rfl
@[simp] theorem State.setCore_arg (s : State) (c : Nat) (x : Core) : (s.setCore c x).arg = s.arg := rfl
@[simp] theorem State.setCore_iinstr (s : State) (c : Nat) (x : Core) : (s.setCore c x).iinstr = s.iinstr := rfl
@[simp] theorem State.setCore_applied (s : State) (c : Nat) (x : Core) : (s.setCore c x).applied = s.applied := rfl

@[simp] theorem State.setCtx_mem (s : State) (c : Nat) (x : Ctx) : (s.setCtx c x).mem = s.mem := rfl
@[simp] theorem State.setCtx_ws (s : State) (c : Nat) (x : Ctx) : (s.setCtx c x).ws = s.ws := rfl
@[simp] theorem State.setCtx_poison (s : State) (c : Nat) (x : Ctx) : (s.setCtx c x).poison = s.poison := rfl
@[simp] theorem State.setCtx_wsPoison (s : State) (c : Nat) (x : Ctx) : (s.setCtx c x).wsPoison = s.wsPoison := rfl
@[simp] theorem State.setCtx_l2 (s : State) (c : Nat) (x : Ctx) : (s.setCtx c x).l2 = s.l2 := rfl
@[simp] theorem State.setCtx_cores (s : State) (c : Nat) (x : Ctx) : (s.setCtx c x).cores = s.cores := rfl
@[simp] theorem State.setCtx_net (s : State) (c : Nat) (x : Ctx) : (s.setCtx c x).net = s.net := rfl
@[simp] theorem State.setCtx_parts (s : State) (c : Nat) (x : Ctx) : (s.setCtx c x).parts = s.parts := rfl
@[simp] theorem State.setCtx_grids (s : State) (c : Nat) (x : Ctx) : (s.setCtx c x).grids = s.grids := rfl
@[simp] theorem State.setCtx_gangs (s : State) (c : Nat) (x : Ctx) : (s.setCtx c x).gangs = s.gangs := rfl
@[simp] theorem State.setCtx_ports (s : State) (c : Nat) (x : Ctx) : (s.setCtx c x).ports = s.ports := rfl
@[simp] theorem State.setCtx_reqs (s : State) (c : Nat) (x : Ctx) : (s.setCtx c x).reqs = s.reqs := rfl
@[simp] theorem State.setCtx_copies (s : State) (c : Nat) (x : Ctx) : (s.setCtx c x).copies = s.copies := rfl
@[simp] theorem State.setCtx_jobs (s : State) (c : Nat) (x : Ctx) : (s.setCtx c x).jobs = s.jobs := rfl
@[simp] theorem State.setCtx_parked (s : State) (c : Nat) (x : Ctx) : (s.setCtx c x).parked = s.parked := rfl
@[simp] theorem State.setCtx_seqs (s : State) (c : Nat) (x : Ctx) : (s.setCtx c x).seqs = s.seqs := rfl
@[simp] theorem State.setCtx_markers (s : State) (c : Nat) (x : Ctx) : (s.setCtx c x).markers = s.markers := rfl
@[simp] theorem State.setCtx_moving (s : State) (c : Nat) (x : Ctx) : (s.setCtx c x).moving = s.moving := rfl
@[simp] theorem State.setCtx_pools (s : State) (c : Nat) (x : Ctx) : (s.setCtx c x).pools = s.pools := rfl
@[simp] theorem State.setCtx_savory (s : State) (c : Nat) (x : Ctx) : (s.setCtx c x).savory = s.savory := rfl
@[simp] theorem State.setCtx_poollow (s : State) (c : Nat) (x : Ctx) : (s.setCtx c x).poollow = s.poollow := rfl
@[simp] theorem State.setCtx_killst (s : State) (c : Nat) (x : Ctx) : (s.setCtx c x).killst = s.killst := rfl
@[simp] theorem State.setCtx_kills (s : State) (c : Nat) (x : Ctx) : (s.setCtx c x).kills = s.kills := rfl
@[simp] theorem State.setCtx_ctxtab (s : State) (c : Nat) (x : Ctx) : (s.setCtx c x).ctxtab = s.ctxtab := rfl
@[simp] theorem State.setCtx_planar (s : State) (c : Nat) (x : Ctx) : (s.setCtx c x).planar = s.planar := rfl
@[simp] theorem State.setCtx_plannet (s : State) (c : Nat) (x : Ctx) : (s.setCtx c x).plannet = s.plannet := rfl
@[simp] theorem State.setCtx_planreg (s : State) (c : Nat) (x : Ctx) : (s.setCtx c x).planreg = s.planreg := rfl
@[simp] theorem State.setCtx_planssc (s : State) (c : Nat) (x : Ctx) : (s.setCtx c x).planssc = s.planssc := rfl
@[simp] theorem State.setCtx_clkst (s : State) (c : Nat) (x : Ctx) : (s.setCtx c x).clkst = s.clkst := rfl
@[simp] theorem State.setCtx_ssc (s : State) (c : Nat) (x : Ctx) : (s.setCtx c x).ssc = s.ssc := rfl
@[simp] theorem State.setCtx_switching (s : State) (c : Nat) (x : Ctx) : (s.setCtx c x).switching = s.switching := rfl
@[simp] theorem State.setCtx_going (s : State) (c : Nat) (x : Ctx) : (s.setCtx c x).going = s.going := rfl
@[simp] theorem State.setCtx_regs (s : State) (c : Nat) (x : Ctx) : (s.setCtx c x).regs = s.regs := rfl
@[simp] theorem State.setCtx_level (s : State) (c : Nat) (x : Ctx) : (s.setCtx c x).level = s.level := rfl
@[simp] theorem State.setCtx_pwr (s : State) (c : Nat) (x : Ctx) : (s.setCtx c x).pwr = s.pwr := rfl
@[simp] theorem State.setCtx_therm (s : State) (c : Nat) (x : Ctx) : (s.setCtx c x).therm = s.therm := rfl
@[simp] theorem State.setCtx_levelAt (s : State) (c : Nat) (x : Ctx) : (s.setCtx c x).levelAt = s.levelAt := rfl
@[simp] theorem State.setCtx_metAt (s : State) (c : Nat) (x : Ctx) : (s.setCtx c x).metAt = s.metAt := rfl
@[simp] theorem State.setCtx_overheated (s : State) (c : Nat) (x : Ctx) : (s.setCtx c x).overheated = s.overheated := rfl
@[simp] theorem State.setCtx_trust (s : State) (c : Nat) (x : Ctx) : (s.setCtx c x).trust = s.trust := rfl
@[simp] theorem State.setCtx_retired (s : State) (c : Nat) (x : Ctx) : (s.setCtx c x).retired = s.retired := rfl
@[simp] theorem State.setCtx_corrected (s : State) (c : Nat) (x : Ctx) : (s.setCtx c x).corrected = s.corrected := rfl
@[simp] theorem State.setCtx_keys (s : State) (c : Nat) (x : Ctx) : (s.setCtx c x).keys = s.keys := rfl
@[simp] theorem State.setCtx_cipher (s : State) (c : Nat) (x : Ctx) : (s.setCtx c x).cipher = s.cipher := rfl
@[simp] theorem State.setCtx_windowsLocked (s : State) (c : Nat) (x : Ctx) : (s.setCtx c x).windowsLocked = s.windowsLocked := rfl
@[simp] theorem State.setCtx_firmware (s : State) (c : Nat) (x : Ctx) : (s.setCtx c x).firmware = s.firmware := rfl
@[simp] theorem State.setCtx_image (s : State) (c : Nat) (x : Ctx) : (s.setCtx c x).image = s.image := rfl
@[simp] theorem State.setCtx_sideband (s : State) (c : Nat) (x : Ctx) : (s.setCtx c x).sideband = s.sideband := rfl
@[simp] theorem State.setCtx_ck (s : State) (c : Nat) (x : Ctx) : (s.setCtx c x).ck = s.ck := rfl
@[simp] theorem State.setCtx_ns (s : State) (c : Nat) (x : Ctx) : (s.setCtx c x).ns = s.ns := rfl
@[simp] theorem State.setCtx_frac (s : State) (c : Nat) (x : Ctx) : (s.setCtx c x).frac = s.frac := rfl
@[simp] theorem State.setCtx_stallIrq (s : State) (c : Nat) (x : Ctx) : (s.setCtx c x).stallIrq = s.stallIrq := rfl
@[simp] theorem State.setCtx_ctxIrq (s : State) (c : Nat) (x : Ctx) : (s.setCtx c x).ctxIrq = s.ctxIrq := rfl
@[simp] theorem State.setCtx_nextId (s : State) (c : Nat) (x : Ctx) : (s.setCtx c x).nextId = s.nextId := rfl
@[simp] theorem State.setCtx_draws (s : State) (c : Nat) (x : Ctx) : (s.setCtx c x).draws = s.draws := rfl
@[simp] theorem State.setCtx_lined (s : State) (c : Nat) (x : Ctx) : (s.setCtx c x).lined = s.lined := rfl
@[simp] theorem State.setCtx_issues (s : State) (c : Nat) (x : Ctx) : (s.setCtx c x).issues = s.issues := rfl
@[simp] theorem State.setCtx_agenda (s : State) (c : Nat) (x : Ctx) : (s.setCtx c x).agenda = s.agenda := rfl
@[simp] theorem State.setCtx_cur (s : State) (c : Nat) (x : Ctx) : (s.setCtx c x).cur = s.cur := rfl
@[simp] theorem State.setCtx_iword (s : State) (c : Nat) (x : Ctx) : (s.setCtx c x).iword = s.iword := rfl
@[simp] theorem State.setCtx_ilen (s : State) (c : Nat) (x : Ctx) : (s.setCtx c x).ilen = s.ilen := rfl
@[simp] theorem State.setCtx_arg (s : State) (c : Nat) (x : Ctx) : (s.setCtx c x).arg = s.arg := rfl
@[simp] theorem State.setCtx_iinstr (s : State) (c : Nat) (x : Ctx) : (s.setCtx c x).iinstr = s.iinstr := rfl
@[simp] theorem State.setCtx_applied (s : State) (c : Nat) (x : Ctx) : (s.setCtx c x).applied = s.applied := rfl

@[simp] theorem State.setPart_mem (s : State) (c : Nat) (x : Part) : (s.setPart c x).mem = s.mem := rfl
@[simp] theorem State.setPart_ws (s : State) (c : Nat) (x : Part) : (s.setPart c x).ws = s.ws := rfl
@[simp] theorem State.setPart_poison (s : State) (c : Nat) (x : Part) : (s.setPart c x).poison = s.poison := rfl
@[simp] theorem State.setPart_wsPoison (s : State) (c : Nat) (x : Part) : (s.setPart c x).wsPoison = s.wsPoison := rfl
@[simp] theorem State.setPart_l2 (s : State) (c : Nat) (x : Part) : (s.setPart c x).l2 = s.l2 := rfl
@[simp] theorem State.setPart_cores (s : State) (c : Nat) (x : Part) : (s.setPart c x).cores = s.cores := rfl
@[simp] theorem State.setPart_net (s : State) (c : Nat) (x : Part) : (s.setPart c x).net = s.net := rfl
@[simp] theorem State.setPart_ctxs (s : State) (c : Nat) (x : Part) : (s.setPart c x).ctxs = s.ctxs := rfl
@[simp] theorem State.setPart_grids (s : State) (c : Nat) (x : Part) : (s.setPart c x).grids = s.grids := rfl
@[simp] theorem State.setPart_gangs (s : State) (c : Nat) (x : Part) : (s.setPart c x).gangs = s.gangs := rfl
@[simp] theorem State.setPart_ports (s : State) (c : Nat) (x : Part) : (s.setPart c x).ports = s.ports := rfl
@[simp] theorem State.setPart_reqs (s : State) (c : Nat) (x : Part) : (s.setPart c x).reqs = s.reqs := rfl
@[simp] theorem State.setPart_copies (s : State) (c : Nat) (x : Part) : (s.setPart c x).copies = s.copies := rfl
@[simp] theorem State.setPart_jobs (s : State) (c : Nat) (x : Part) : (s.setPart c x).jobs = s.jobs := rfl
@[simp] theorem State.setPart_parked (s : State) (c : Nat) (x : Part) : (s.setPart c x).parked = s.parked := rfl
@[simp] theorem State.setPart_seqs (s : State) (c : Nat) (x : Part) : (s.setPart c x).seqs = s.seqs := rfl
@[simp] theorem State.setPart_markers (s : State) (c : Nat) (x : Part) : (s.setPart c x).markers = s.markers := rfl
@[simp] theorem State.setPart_moving (s : State) (c : Nat) (x : Part) : (s.setPart c x).moving = s.moving := rfl
@[simp] theorem State.setPart_pools (s : State) (c : Nat) (x : Part) : (s.setPart c x).pools = s.pools := rfl
@[simp] theorem State.setPart_savory (s : State) (c : Nat) (x : Part) : (s.setPart c x).savory = s.savory := rfl
@[simp] theorem State.setPart_poollow (s : State) (c : Nat) (x : Part) : (s.setPart c x).poollow = s.poollow := rfl
@[simp] theorem State.setPart_killst (s : State) (c : Nat) (x : Part) : (s.setPart c x).killst = s.killst := rfl
@[simp] theorem State.setPart_kills (s : State) (c : Nat) (x : Part) : (s.setPart c x).kills = s.kills := rfl
@[simp] theorem State.setPart_ctxtab (s : State) (c : Nat) (x : Part) : (s.setPart c x).ctxtab = s.ctxtab := rfl
@[simp] theorem State.setPart_planar (s : State) (c : Nat) (x : Part) : (s.setPart c x).planar = s.planar := rfl
@[simp] theorem State.setPart_plannet (s : State) (c : Nat) (x : Part) : (s.setPart c x).plannet = s.plannet := rfl
@[simp] theorem State.setPart_planreg (s : State) (c : Nat) (x : Part) : (s.setPart c x).planreg = s.planreg := rfl
@[simp] theorem State.setPart_planssc (s : State) (c : Nat) (x : Part) : (s.setPart c x).planssc = s.planssc := rfl
@[simp] theorem State.setPart_clkst (s : State) (c : Nat) (x : Part) : (s.setPart c x).clkst = s.clkst := rfl
@[simp] theorem State.setPart_ssc (s : State) (c : Nat) (x : Part) : (s.setPart c x).ssc = s.ssc := rfl
@[simp] theorem State.setPart_switching (s : State) (c : Nat) (x : Part) : (s.setPart c x).switching = s.switching := rfl
@[simp] theorem State.setPart_going (s : State) (c : Nat) (x : Part) : (s.setPart c x).going = s.going := rfl
@[simp] theorem State.setPart_regs (s : State) (c : Nat) (x : Part) : (s.setPart c x).regs = s.regs := rfl
@[simp] theorem State.setPart_level (s : State) (c : Nat) (x : Part) : (s.setPart c x).level = s.level := rfl
@[simp] theorem State.setPart_pwr (s : State) (c : Nat) (x : Part) : (s.setPart c x).pwr = s.pwr := rfl
@[simp] theorem State.setPart_therm (s : State) (c : Nat) (x : Part) : (s.setPart c x).therm = s.therm := rfl
@[simp] theorem State.setPart_levelAt (s : State) (c : Nat) (x : Part) : (s.setPart c x).levelAt = s.levelAt := rfl
@[simp] theorem State.setPart_metAt (s : State) (c : Nat) (x : Part) : (s.setPart c x).metAt = s.metAt := rfl
@[simp] theorem State.setPart_overheated (s : State) (c : Nat) (x : Part) : (s.setPart c x).overheated = s.overheated := rfl
@[simp] theorem State.setPart_trust (s : State) (c : Nat) (x : Part) : (s.setPart c x).trust = s.trust := rfl
@[simp] theorem State.setPart_retired (s : State) (c : Nat) (x : Part) : (s.setPart c x).retired = s.retired := rfl
@[simp] theorem State.setPart_corrected (s : State) (c : Nat) (x : Part) : (s.setPart c x).corrected = s.corrected := rfl
@[simp] theorem State.setPart_keys (s : State) (c : Nat) (x : Part) : (s.setPart c x).keys = s.keys := rfl
@[simp] theorem State.setPart_cipher (s : State) (c : Nat) (x : Part) : (s.setPart c x).cipher = s.cipher := rfl
@[simp] theorem State.setPart_windowsLocked (s : State) (c : Nat) (x : Part) : (s.setPart c x).windowsLocked = s.windowsLocked := rfl
@[simp] theorem State.setPart_firmware (s : State) (c : Nat) (x : Part) : (s.setPart c x).firmware = s.firmware := rfl
@[simp] theorem State.setPart_image (s : State) (c : Nat) (x : Part) : (s.setPart c x).image = s.image := rfl
@[simp] theorem State.setPart_sideband (s : State) (c : Nat) (x : Part) : (s.setPart c x).sideband = s.sideband := rfl
@[simp] theorem State.setPart_ck (s : State) (c : Nat) (x : Part) : (s.setPart c x).ck = s.ck := rfl
@[simp] theorem State.setPart_ns (s : State) (c : Nat) (x : Part) : (s.setPart c x).ns = s.ns := rfl
@[simp] theorem State.setPart_frac (s : State) (c : Nat) (x : Part) : (s.setPart c x).frac = s.frac := rfl
@[simp] theorem State.setPart_stallIrq (s : State) (c : Nat) (x : Part) : (s.setPart c x).stallIrq = s.stallIrq := rfl
@[simp] theorem State.setPart_ctxIrq (s : State) (c : Nat) (x : Part) : (s.setPart c x).ctxIrq = s.ctxIrq := rfl
@[simp] theorem State.setPart_nextId (s : State) (c : Nat) (x : Part) : (s.setPart c x).nextId = s.nextId := rfl
@[simp] theorem State.setPart_draws (s : State) (c : Nat) (x : Part) : (s.setPart c x).draws = s.draws := rfl
@[simp] theorem State.setPart_lined (s : State) (c : Nat) (x : Part) : (s.setPart c x).lined = s.lined := rfl
@[simp] theorem State.setPart_issues (s : State) (c : Nat) (x : Part) : (s.setPart c x).issues = s.issues := rfl
@[simp] theorem State.setPart_agenda (s : State) (c : Nat) (x : Part) : (s.setPart c x).agenda = s.agenda := rfl
@[simp] theorem State.setPart_cur (s : State) (c : Nat) (x : Part) : (s.setPart c x).cur = s.cur := rfl
@[simp] theorem State.setPart_iword (s : State) (c : Nat) (x : Part) : (s.setPart c x).iword = s.iword := rfl
@[simp] theorem State.setPart_ilen (s : State) (c : Nat) (x : Part) : (s.setPart c x).ilen = s.ilen := rfl
@[simp] theorem State.setPart_arg (s : State) (c : Nat) (x : Part) : (s.setPart c x).arg = s.arg := rfl
@[simp] theorem State.setPart_iinstr (s : State) (c : Nat) (x : Part) : (s.setPart c x).iinstr = s.iinstr := rfl
@[simp] theorem State.setPart_applied (s : State) (c : Nat) (x : Part) : (s.setPart c x).applied = s.applied := rfl

@[simp] theorem State.setGrid_mem (s : State) (c : Nat) (x : Grid) : (s.setGrid c x).mem = s.mem := rfl
@[simp] theorem State.setGrid_ws (s : State) (c : Nat) (x : Grid) : (s.setGrid c x).ws = s.ws := rfl
@[simp] theorem State.setGrid_poison (s : State) (c : Nat) (x : Grid) : (s.setGrid c x).poison = s.poison := rfl
@[simp] theorem State.setGrid_wsPoison (s : State) (c : Nat) (x : Grid) : (s.setGrid c x).wsPoison = s.wsPoison := rfl
@[simp] theorem State.setGrid_l2 (s : State) (c : Nat) (x : Grid) : (s.setGrid c x).l2 = s.l2 := rfl
@[simp] theorem State.setGrid_cores (s : State) (c : Nat) (x : Grid) : (s.setGrid c x).cores = s.cores := rfl
@[simp] theorem State.setGrid_net (s : State) (c : Nat) (x : Grid) : (s.setGrid c x).net = s.net := rfl
@[simp] theorem State.setGrid_ctxs (s : State) (c : Nat) (x : Grid) : (s.setGrid c x).ctxs = s.ctxs := rfl
@[simp] theorem State.setGrid_parts (s : State) (c : Nat) (x : Grid) : (s.setGrid c x).parts = s.parts := rfl
@[simp] theorem State.setGrid_gangs (s : State) (c : Nat) (x : Grid) : (s.setGrid c x).gangs = s.gangs := rfl
@[simp] theorem State.setGrid_ports (s : State) (c : Nat) (x : Grid) : (s.setGrid c x).ports = s.ports := rfl
@[simp] theorem State.setGrid_reqs (s : State) (c : Nat) (x : Grid) : (s.setGrid c x).reqs = s.reqs := rfl
@[simp] theorem State.setGrid_copies (s : State) (c : Nat) (x : Grid) : (s.setGrid c x).copies = s.copies := rfl
@[simp] theorem State.setGrid_jobs (s : State) (c : Nat) (x : Grid) : (s.setGrid c x).jobs = s.jobs := rfl
@[simp] theorem State.setGrid_parked (s : State) (c : Nat) (x : Grid) : (s.setGrid c x).parked = s.parked := rfl
@[simp] theorem State.setGrid_seqs (s : State) (c : Nat) (x : Grid) : (s.setGrid c x).seqs = s.seqs := rfl
@[simp] theorem State.setGrid_markers (s : State) (c : Nat) (x : Grid) : (s.setGrid c x).markers = s.markers := rfl
@[simp] theorem State.setGrid_moving (s : State) (c : Nat) (x : Grid) : (s.setGrid c x).moving = s.moving := rfl
@[simp] theorem State.setGrid_pools (s : State) (c : Nat) (x : Grid) : (s.setGrid c x).pools = s.pools := rfl
@[simp] theorem State.setGrid_savory (s : State) (c : Nat) (x : Grid) : (s.setGrid c x).savory = s.savory := rfl
@[simp] theorem State.setGrid_poollow (s : State) (c : Nat) (x : Grid) : (s.setGrid c x).poollow = s.poollow := rfl
@[simp] theorem State.setGrid_killst (s : State) (c : Nat) (x : Grid) : (s.setGrid c x).killst = s.killst := rfl
@[simp] theorem State.setGrid_kills (s : State) (c : Nat) (x : Grid) : (s.setGrid c x).kills = s.kills := rfl
@[simp] theorem State.setGrid_ctxtab (s : State) (c : Nat) (x : Grid) : (s.setGrid c x).ctxtab = s.ctxtab := rfl
@[simp] theorem State.setGrid_planar (s : State) (c : Nat) (x : Grid) : (s.setGrid c x).planar = s.planar := rfl
@[simp] theorem State.setGrid_plannet (s : State) (c : Nat) (x : Grid) : (s.setGrid c x).plannet = s.plannet := rfl
@[simp] theorem State.setGrid_planreg (s : State) (c : Nat) (x : Grid) : (s.setGrid c x).planreg = s.planreg := rfl
@[simp] theorem State.setGrid_planssc (s : State) (c : Nat) (x : Grid) : (s.setGrid c x).planssc = s.planssc := rfl
@[simp] theorem State.setGrid_clkst (s : State) (c : Nat) (x : Grid) : (s.setGrid c x).clkst = s.clkst := rfl
@[simp] theorem State.setGrid_ssc (s : State) (c : Nat) (x : Grid) : (s.setGrid c x).ssc = s.ssc := rfl
@[simp] theorem State.setGrid_switching (s : State) (c : Nat) (x : Grid) : (s.setGrid c x).switching = s.switching := rfl
@[simp] theorem State.setGrid_going (s : State) (c : Nat) (x : Grid) : (s.setGrid c x).going = s.going := rfl
@[simp] theorem State.setGrid_regs (s : State) (c : Nat) (x : Grid) : (s.setGrid c x).regs = s.regs := rfl
@[simp] theorem State.setGrid_level (s : State) (c : Nat) (x : Grid) : (s.setGrid c x).level = s.level := rfl
@[simp] theorem State.setGrid_pwr (s : State) (c : Nat) (x : Grid) : (s.setGrid c x).pwr = s.pwr := rfl
@[simp] theorem State.setGrid_therm (s : State) (c : Nat) (x : Grid) : (s.setGrid c x).therm = s.therm := rfl
@[simp] theorem State.setGrid_levelAt (s : State) (c : Nat) (x : Grid) : (s.setGrid c x).levelAt = s.levelAt := rfl
@[simp] theorem State.setGrid_metAt (s : State) (c : Nat) (x : Grid) : (s.setGrid c x).metAt = s.metAt := rfl
@[simp] theorem State.setGrid_overheated (s : State) (c : Nat) (x : Grid) : (s.setGrid c x).overheated = s.overheated := rfl
@[simp] theorem State.setGrid_trust (s : State) (c : Nat) (x : Grid) : (s.setGrid c x).trust = s.trust := rfl
@[simp] theorem State.setGrid_retired (s : State) (c : Nat) (x : Grid) : (s.setGrid c x).retired = s.retired := rfl
@[simp] theorem State.setGrid_corrected (s : State) (c : Nat) (x : Grid) : (s.setGrid c x).corrected = s.corrected := rfl
@[simp] theorem State.setGrid_keys (s : State) (c : Nat) (x : Grid) : (s.setGrid c x).keys = s.keys := rfl
@[simp] theorem State.setGrid_cipher (s : State) (c : Nat) (x : Grid) : (s.setGrid c x).cipher = s.cipher := rfl
@[simp] theorem State.setGrid_windowsLocked (s : State) (c : Nat) (x : Grid) : (s.setGrid c x).windowsLocked = s.windowsLocked := rfl
@[simp] theorem State.setGrid_firmware (s : State) (c : Nat) (x : Grid) : (s.setGrid c x).firmware = s.firmware := rfl
@[simp] theorem State.setGrid_image (s : State) (c : Nat) (x : Grid) : (s.setGrid c x).image = s.image := rfl
@[simp] theorem State.setGrid_sideband (s : State) (c : Nat) (x : Grid) : (s.setGrid c x).sideband = s.sideband := rfl
@[simp] theorem State.setGrid_ck (s : State) (c : Nat) (x : Grid) : (s.setGrid c x).ck = s.ck := rfl
@[simp] theorem State.setGrid_ns (s : State) (c : Nat) (x : Grid) : (s.setGrid c x).ns = s.ns := rfl
@[simp] theorem State.setGrid_frac (s : State) (c : Nat) (x : Grid) : (s.setGrid c x).frac = s.frac := rfl
@[simp] theorem State.setGrid_stallIrq (s : State) (c : Nat) (x : Grid) : (s.setGrid c x).stallIrq = s.stallIrq := rfl
@[simp] theorem State.setGrid_ctxIrq (s : State) (c : Nat) (x : Grid) : (s.setGrid c x).ctxIrq = s.ctxIrq := rfl
@[simp] theorem State.setGrid_nextId (s : State) (c : Nat) (x : Grid) : (s.setGrid c x).nextId = s.nextId := rfl
@[simp] theorem State.setGrid_draws (s : State) (c : Nat) (x : Grid) : (s.setGrid c x).draws = s.draws := rfl
@[simp] theorem State.setGrid_lined (s : State) (c : Nat) (x : Grid) : (s.setGrid c x).lined = s.lined := rfl
@[simp] theorem State.setGrid_issues (s : State) (c : Nat) (x : Grid) : (s.setGrid c x).issues = s.issues := rfl
@[simp] theorem State.setGrid_agenda (s : State) (c : Nat) (x : Grid) : (s.setGrid c x).agenda = s.agenda := rfl
@[simp] theorem State.setGrid_cur (s : State) (c : Nat) (x : Grid) : (s.setGrid c x).cur = s.cur := rfl
@[simp] theorem State.setGrid_iword (s : State) (c : Nat) (x : Grid) : (s.setGrid c x).iword = s.iword := rfl
@[simp] theorem State.setGrid_ilen (s : State) (c : Nat) (x : Grid) : (s.setGrid c x).ilen = s.ilen := rfl
@[simp] theorem State.setGrid_arg (s : State) (c : Nat) (x : Grid) : (s.setGrid c x).arg = s.arg := rfl
@[simp] theorem State.setGrid_iinstr (s : State) (c : Nat) (x : Grid) : (s.setGrid c x).iinstr = s.iinstr := rfl
@[simp] theorem State.setGrid_applied (s : State) (c : Nat) (x : Grid) : (s.setGrid c x).applied = s.applied := rfl

@[simp] theorem State.setGang_mem (s : State) (c : Nat) (x : Gang) : (s.setGang c x).mem = s.mem := rfl
@[simp] theorem State.setGang_ws (s : State) (c : Nat) (x : Gang) : (s.setGang c x).ws = s.ws := rfl
@[simp] theorem State.setGang_poison (s : State) (c : Nat) (x : Gang) : (s.setGang c x).poison = s.poison := rfl
@[simp] theorem State.setGang_wsPoison (s : State) (c : Nat) (x : Gang) : (s.setGang c x).wsPoison = s.wsPoison := rfl
@[simp] theorem State.setGang_l2 (s : State) (c : Nat) (x : Gang) : (s.setGang c x).l2 = s.l2 := rfl
@[simp] theorem State.setGang_cores (s : State) (c : Nat) (x : Gang) : (s.setGang c x).cores = s.cores := rfl
@[simp] theorem State.setGang_net (s : State) (c : Nat) (x : Gang) : (s.setGang c x).net = s.net := rfl
@[simp] theorem State.setGang_ctxs (s : State) (c : Nat) (x : Gang) : (s.setGang c x).ctxs = s.ctxs := rfl
@[simp] theorem State.setGang_parts (s : State) (c : Nat) (x : Gang) : (s.setGang c x).parts = s.parts := rfl
@[simp] theorem State.setGang_grids (s : State) (c : Nat) (x : Gang) : (s.setGang c x).grids = s.grids := rfl
@[simp] theorem State.setGang_ports (s : State) (c : Nat) (x : Gang) : (s.setGang c x).ports = s.ports := rfl
@[simp] theorem State.setGang_reqs (s : State) (c : Nat) (x : Gang) : (s.setGang c x).reqs = s.reqs := rfl
@[simp] theorem State.setGang_copies (s : State) (c : Nat) (x : Gang) : (s.setGang c x).copies = s.copies := rfl
@[simp] theorem State.setGang_jobs (s : State) (c : Nat) (x : Gang) : (s.setGang c x).jobs = s.jobs := rfl
@[simp] theorem State.setGang_parked (s : State) (c : Nat) (x : Gang) : (s.setGang c x).parked = s.parked := rfl
@[simp] theorem State.setGang_seqs (s : State) (c : Nat) (x : Gang) : (s.setGang c x).seqs = s.seqs := rfl
@[simp] theorem State.setGang_markers (s : State) (c : Nat) (x : Gang) : (s.setGang c x).markers = s.markers := rfl
@[simp] theorem State.setGang_moving (s : State) (c : Nat) (x : Gang) : (s.setGang c x).moving = s.moving := rfl
@[simp] theorem State.setGang_pools (s : State) (c : Nat) (x : Gang) : (s.setGang c x).pools = s.pools := rfl
@[simp] theorem State.setGang_savory (s : State) (c : Nat) (x : Gang) : (s.setGang c x).savory = s.savory := rfl
@[simp] theorem State.setGang_poollow (s : State) (c : Nat) (x : Gang) : (s.setGang c x).poollow = s.poollow := rfl
@[simp] theorem State.setGang_killst (s : State) (c : Nat) (x : Gang) : (s.setGang c x).killst = s.killst := rfl
@[simp] theorem State.setGang_kills (s : State) (c : Nat) (x : Gang) : (s.setGang c x).kills = s.kills := rfl
@[simp] theorem State.setGang_ctxtab (s : State) (c : Nat) (x : Gang) : (s.setGang c x).ctxtab = s.ctxtab := rfl
@[simp] theorem State.setGang_planar (s : State) (c : Nat) (x : Gang) : (s.setGang c x).planar = s.planar := rfl
@[simp] theorem State.setGang_plannet (s : State) (c : Nat) (x : Gang) : (s.setGang c x).plannet = s.plannet := rfl
@[simp] theorem State.setGang_planreg (s : State) (c : Nat) (x : Gang) : (s.setGang c x).planreg = s.planreg := rfl
@[simp] theorem State.setGang_planssc (s : State) (c : Nat) (x : Gang) : (s.setGang c x).planssc = s.planssc := rfl
@[simp] theorem State.setGang_clkst (s : State) (c : Nat) (x : Gang) : (s.setGang c x).clkst = s.clkst := rfl
@[simp] theorem State.setGang_ssc (s : State) (c : Nat) (x : Gang) : (s.setGang c x).ssc = s.ssc := rfl
@[simp] theorem State.setGang_switching (s : State) (c : Nat) (x : Gang) : (s.setGang c x).switching = s.switching := rfl
@[simp] theorem State.setGang_going (s : State) (c : Nat) (x : Gang) : (s.setGang c x).going = s.going := rfl
@[simp] theorem State.setGang_regs (s : State) (c : Nat) (x : Gang) : (s.setGang c x).regs = s.regs := rfl
@[simp] theorem State.setGang_level (s : State) (c : Nat) (x : Gang) : (s.setGang c x).level = s.level := rfl
@[simp] theorem State.setGang_pwr (s : State) (c : Nat) (x : Gang) : (s.setGang c x).pwr = s.pwr := rfl
@[simp] theorem State.setGang_therm (s : State) (c : Nat) (x : Gang) : (s.setGang c x).therm = s.therm := rfl
@[simp] theorem State.setGang_levelAt (s : State) (c : Nat) (x : Gang) : (s.setGang c x).levelAt = s.levelAt := rfl
@[simp] theorem State.setGang_metAt (s : State) (c : Nat) (x : Gang) : (s.setGang c x).metAt = s.metAt := rfl
@[simp] theorem State.setGang_overheated (s : State) (c : Nat) (x : Gang) : (s.setGang c x).overheated = s.overheated := rfl
@[simp] theorem State.setGang_trust (s : State) (c : Nat) (x : Gang) : (s.setGang c x).trust = s.trust := rfl
@[simp] theorem State.setGang_retired (s : State) (c : Nat) (x : Gang) : (s.setGang c x).retired = s.retired := rfl
@[simp] theorem State.setGang_corrected (s : State) (c : Nat) (x : Gang) : (s.setGang c x).corrected = s.corrected := rfl
@[simp] theorem State.setGang_keys (s : State) (c : Nat) (x : Gang) : (s.setGang c x).keys = s.keys := rfl
@[simp] theorem State.setGang_cipher (s : State) (c : Nat) (x : Gang) : (s.setGang c x).cipher = s.cipher := rfl
@[simp] theorem State.setGang_windowsLocked (s : State) (c : Nat) (x : Gang) : (s.setGang c x).windowsLocked = s.windowsLocked := rfl
@[simp] theorem State.setGang_firmware (s : State) (c : Nat) (x : Gang) : (s.setGang c x).firmware = s.firmware := rfl
@[simp] theorem State.setGang_image (s : State) (c : Nat) (x : Gang) : (s.setGang c x).image = s.image := rfl
@[simp] theorem State.setGang_sideband (s : State) (c : Nat) (x : Gang) : (s.setGang c x).sideband = s.sideband := rfl
@[simp] theorem State.setGang_ck (s : State) (c : Nat) (x : Gang) : (s.setGang c x).ck = s.ck := rfl
@[simp] theorem State.setGang_ns (s : State) (c : Nat) (x : Gang) : (s.setGang c x).ns = s.ns := rfl
@[simp] theorem State.setGang_frac (s : State) (c : Nat) (x : Gang) : (s.setGang c x).frac = s.frac := rfl
@[simp] theorem State.setGang_stallIrq (s : State) (c : Nat) (x : Gang) : (s.setGang c x).stallIrq = s.stallIrq := rfl
@[simp] theorem State.setGang_ctxIrq (s : State) (c : Nat) (x : Gang) : (s.setGang c x).ctxIrq = s.ctxIrq := rfl
@[simp] theorem State.setGang_nextId (s : State) (c : Nat) (x : Gang) : (s.setGang c x).nextId = s.nextId := rfl
@[simp] theorem State.setGang_draws (s : State) (c : Nat) (x : Gang) : (s.setGang c x).draws = s.draws := rfl
@[simp] theorem State.setGang_lined (s : State) (c : Nat) (x : Gang) : (s.setGang c x).lined = s.lined := rfl
@[simp] theorem State.setGang_issues (s : State) (c : Nat) (x : Gang) : (s.setGang c x).issues = s.issues := rfl
@[simp] theorem State.setGang_agenda (s : State) (c : Nat) (x : Gang) : (s.setGang c x).agenda = s.agenda := rfl
@[simp] theorem State.setGang_cur (s : State) (c : Nat) (x : Gang) : (s.setGang c x).cur = s.cur := rfl
@[simp] theorem State.setGang_iword (s : State) (c : Nat) (x : Gang) : (s.setGang c x).iword = s.iword := rfl
@[simp] theorem State.setGang_ilen (s : State) (c : Nat) (x : Gang) : (s.setGang c x).ilen = s.ilen := rfl
@[simp] theorem State.setGang_arg (s : State) (c : Nat) (x : Gang) : (s.setGang c x).arg = s.arg := rfl
@[simp] theorem State.setGang_iinstr (s : State) (c : Nat) (x : Gang) : (s.setGang c x).iinstr = s.iinstr := rfl
@[simp] theorem State.setGang_applied (s : State) (c : Nat) (x : Gang) : (s.setGang c x).applied = s.applied := rfl

@[simp] theorem State.setPort_mem (s : State) (c : Nat) (x : Port) : (s.setPort c x).mem = s.mem := rfl
@[simp] theorem State.setPort_ws (s : State) (c : Nat) (x : Port) : (s.setPort c x).ws = s.ws := rfl
@[simp] theorem State.setPort_poison (s : State) (c : Nat) (x : Port) : (s.setPort c x).poison = s.poison := rfl
@[simp] theorem State.setPort_wsPoison (s : State) (c : Nat) (x : Port) : (s.setPort c x).wsPoison = s.wsPoison := rfl
@[simp] theorem State.setPort_l2 (s : State) (c : Nat) (x : Port) : (s.setPort c x).l2 = s.l2 := rfl
@[simp] theorem State.setPort_cores (s : State) (c : Nat) (x : Port) : (s.setPort c x).cores = s.cores := rfl
@[simp] theorem State.setPort_net (s : State) (c : Nat) (x : Port) : (s.setPort c x).net = s.net := rfl
@[simp] theorem State.setPort_ctxs (s : State) (c : Nat) (x : Port) : (s.setPort c x).ctxs = s.ctxs := rfl
@[simp] theorem State.setPort_parts (s : State) (c : Nat) (x : Port) : (s.setPort c x).parts = s.parts := rfl
@[simp] theorem State.setPort_grids (s : State) (c : Nat) (x : Port) : (s.setPort c x).grids = s.grids := rfl
@[simp] theorem State.setPort_gangs (s : State) (c : Nat) (x : Port) : (s.setPort c x).gangs = s.gangs := rfl
@[simp] theorem State.setPort_reqs (s : State) (c : Nat) (x : Port) : (s.setPort c x).reqs = s.reqs := rfl
@[simp] theorem State.setPort_copies (s : State) (c : Nat) (x : Port) : (s.setPort c x).copies = s.copies := rfl
@[simp] theorem State.setPort_jobs (s : State) (c : Nat) (x : Port) : (s.setPort c x).jobs = s.jobs := rfl
@[simp] theorem State.setPort_parked (s : State) (c : Nat) (x : Port) : (s.setPort c x).parked = s.parked := rfl
@[simp] theorem State.setPort_seqs (s : State) (c : Nat) (x : Port) : (s.setPort c x).seqs = s.seqs := rfl
@[simp] theorem State.setPort_markers (s : State) (c : Nat) (x : Port) : (s.setPort c x).markers = s.markers := rfl
@[simp] theorem State.setPort_moving (s : State) (c : Nat) (x : Port) : (s.setPort c x).moving = s.moving := rfl
@[simp] theorem State.setPort_pools (s : State) (c : Nat) (x : Port) : (s.setPort c x).pools = s.pools := rfl
@[simp] theorem State.setPort_savory (s : State) (c : Nat) (x : Port) : (s.setPort c x).savory = s.savory := rfl
@[simp] theorem State.setPort_poollow (s : State) (c : Nat) (x : Port) : (s.setPort c x).poollow = s.poollow := rfl
@[simp] theorem State.setPort_killst (s : State) (c : Nat) (x : Port) : (s.setPort c x).killst = s.killst := rfl
@[simp] theorem State.setPort_kills (s : State) (c : Nat) (x : Port) : (s.setPort c x).kills = s.kills := rfl
@[simp] theorem State.setPort_ctxtab (s : State) (c : Nat) (x : Port) : (s.setPort c x).ctxtab = s.ctxtab := rfl
@[simp] theorem State.setPort_planar (s : State) (c : Nat) (x : Port) : (s.setPort c x).planar = s.planar := rfl
@[simp] theorem State.setPort_plannet (s : State) (c : Nat) (x : Port) : (s.setPort c x).plannet = s.plannet := rfl
@[simp] theorem State.setPort_planreg (s : State) (c : Nat) (x : Port) : (s.setPort c x).planreg = s.planreg := rfl
@[simp] theorem State.setPort_planssc (s : State) (c : Nat) (x : Port) : (s.setPort c x).planssc = s.planssc := rfl
@[simp] theorem State.setPort_clkst (s : State) (c : Nat) (x : Port) : (s.setPort c x).clkst = s.clkst := rfl
@[simp] theorem State.setPort_ssc (s : State) (c : Nat) (x : Port) : (s.setPort c x).ssc = s.ssc := rfl
@[simp] theorem State.setPort_switching (s : State) (c : Nat) (x : Port) : (s.setPort c x).switching = s.switching := rfl
@[simp] theorem State.setPort_going (s : State) (c : Nat) (x : Port) : (s.setPort c x).going = s.going := rfl
@[simp] theorem State.setPort_regs (s : State) (c : Nat) (x : Port) : (s.setPort c x).regs = s.regs := rfl
@[simp] theorem State.setPort_level (s : State) (c : Nat) (x : Port) : (s.setPort c x).level = s.level := rfl
@[simp] theorem State.setPort_pwr (s : State) (c : Nat) (x : Port) : (s.setPort c x).pwr = s.pwr := rfl
@[simp] theorem State.setPort_therm (s : State) (c : Nat) (x : Port) : (s.setPort c x).therm = s.therm := rfl
@[simp] theorem State.setPort_levelAt (s : State) (c : Nat) (x : Port) : (s.setPort c x).levelAt = s.levelAt := rfl
@[simp] theorem State.setPort_metAt (s : State) (c : Nat) (x : Port) : (s.setPort c x).metAt = s.metAt := rfl
@[simp] theorem State.setPort_overheated (s : State) (c : Nat) (x : Port) : (s.setPort c x).overheated = s.overheated := rfl
@[simp] theorem State.setPort_trust (s : State) (c : Nat) (x : Port) : (s.setPort c x).trust = s.trust := rfl
@[simp] theorem State.setPort_retired (s : State) (c : Nat) (x : Port) : (s.setPort c x).retired = s.retired := rfl
@[simp] theorem State.setPort_corrected (s : State) (c : Nat) (x : Port) : (s.setPort c x).corrected = s.corrected := rfl
@[simp] theorem State.setPort_keys (s : State) (c : Nat) (x : Port) : (s.setPort c x).keys = s.keys := rfl
@[simp] theorem State.setPort_cipher (s : State) (c : Nat) (x : Port) : (s.setPort c x).cipher = s.cipher := rfl
@[simp] theorem State.setPort_windowsLocked (s : State) (c : Nat) (x : Port) : (s.setPort c x).windowsLocked = s.windowsLocked := rfl
@[simp] theorem State.setPort_firmware (s : State) (c : Nat) (x : Port) : (s.setPort c x).firmware = s.firmware := rfl
@[simp] theorem State.setPort_image (s : State) (c : Nat) (x : Port) : (s.setPort c x).image = s.image := rfl
@[simp] theorem State.setPort_sideband (s : State) (c : Nat) (x : Port) : (s.setPort c x).sideband = s.sideband := rfl
@[simp] theorem State.setPort_ck (s : State) (c : Nat) (x : Port) : (s.setPort c x).ck = s.ck := rfl
@[simp] theorem State.setPort_ns (s : State) (c : Nat) (x : Port) : (s.setPort c x).ns = s.ns := rfl
@[simp] theorem State.setPort_frac (s : State) (c : Nat) (x : Port) : (s.setPort c x).frac = s.frac := rfl
@[simp] theorem State.setPort_stallIrq (s : State) (c : Nat) (x : Port) : (s.setPort c x).stallIrq = s.stallIrq := rfl
@[simp] theorem State.setPort_ctxIrq (s : State) (c : Nat) (x : Port) : (s.setPort c x).ctxIrq = s.ctxIrq := rfl
@[simp] theorem State.setPort_nextId (s : State) (c : Nat) (x : Port) : (s.setPort c x).nextId = s.nextId := rfl
@[simp] theorem State.setPort_draws (s : State) (c : Nat) (x : Port) : (s.setPort c x).draws = s.draws := rfl
@[simp] theorem State.setPort_lined (s : State) (c : Nat) (x : Port) : (s.setPort c x).lined = s.lined := rfl
@[simp] theorem State.setPort_issues (s : State) (c : Nat) (x : Port) : (s.setPort c x).issues = s.issues := rfl
@[simp] theorem State.setPort_agenda (s : State) (c : Nat) (x : Port) : (s.setPort c x).agenda = s.agenda := rfl
@[simp] theorem State.setPort_cur (s : State) (c : Nat) (x : Port) : (s.setPort c x).cur = s.cur := rfl
@[simp] theorem State.setPort_iword (s : State) (c : Nat) (x : Port) : (s.setPort c x).iword = s.iword := rfl
@[simp] theorem State.setPort_ilen (s : State) (c : Nat) (x : Port) : (s.setPort c x).ilen = s.ilen := rfl
@[simp] theorem State.setPort_arg (s : State) (c : Nat) (x : Port) : (s.setPort c x).arg = s.arg := rfl
@[simp] theorem State.setPort_iinstr (s : State) (c : Nat) (x : Port) : (s.setPort c x).iinstr = s.iinstr := rfl
@[simp] theorem State.setPort_applied (s : State) (c : Nat) (x : Port) : (s.setPort c x).applied = s.applied := rfl

@[simp] theorem State.setBlock_mem (s : State) (c b : Nat) (x : Block) : (s.setBlock c b x).mem = s.mem := rfl
@[simp] theorem State.setBlock_ws (s : State) (c b : Nat) (x : Block) : (s.setBlock c b x).ws = s.ws := rfl
@[simp] theorem State.setBlock_poison (s : State) (c b : Nat) (x : Block) : (s.setBlock c b x).poison = s.poison := rfl
@[simp] theorem State.setBlock_wsPoison (s : State) (c b : Nat) (x : Block) : (s.setBlock c b x).wsPoison = s.wsPoison := rfl
@[simp] theorem State.setBlock_l2 (s : State) (c b : Nat) (x : Block) : (s.setBlock c b x).l2 = s.l2 := rfl
@[simp] theorem State.setBlock_net (s : State) (c b : Nat) (x : Block) : (s.setBlock c b x).net = s.net := rfl
@[simp] theorem State.setBlock_ctxs (s : State) (c b : Nat) (x : Block) : (s.setBlock c b x).ctxs = s.ctxs := rfl
@[simp] theorem State.setBlock_parts (s : State) (c b : Nat) (x : Block) : (s.setBlock c b x).parts = s.parts := rfl
@[simp] theorem State.setBlock_grids (s : State) (c b : Nat) (x : Block) : (s.setBlock c b x).grids = s.grids := rfl
@[simp] theorem State.setBlock_gangs (s : State) (c b : Nat) (x : Block) : (s.setBlock c b x).gangs = s.gangs := rfl
@[simp] theorem State.setBlock_ports (s : State) (c b : Nat) (x : Block) : (s.setBlock c b x).ports = s.ports := rfl
@[simp] theorem State.setBlock_reqs (s : State) (c b : Nat) (x : Block) : (s.setBlock c b x).reqs = s.reqs := rfl
@[simp] theorem State.setBlock_copies (s : State) (c b : Nat) (x : Block) : (s.setBlock c b x).copies = s.copies := rfl
@[simp] theorem State.setBlock_jobs (s : State) (c b : Nat) (x : Block) : (s.setBlock c b x).jobs = s.jobs := rfl
@[simp] theorem State.setBlock_parked (s : State) (c b : Nat) (x : Block) : (s.setBlock c b x).parked = s.parked := rfl
@[simp] theorem State.setBlock_seqs (s : State) (c b : Nat) (x : Block) : (s.setBlock c b x).seqs = s.seqs := rfl
@[simp] theorem State.setBlock_markers (s : State) (c b : Nat) (x : Block) : (s.setBlock c b x).markers = s.markers := rfl
@[simp] theorem State.setBlock_moving (s : State) (c b : Nat) (x : Block) : (s.setBlock c b x).moving = s.moving := rfl
@[simp] theorem State.setBlock_pools (s : State) (c b : Nat) (x : Block) : (s.setBlock c b x).pools = s.pools := rfl
@[simp] theorem State.setBlock_savory (s : State) (c b : Nat) (x : Block) : (s.setBlock c b x).savory = s.savory := rfl
@[simp] theorem State.setBlock_poollow (s : State) (c b : Nat) (x : Block) : (s.setBlock c b x).poollow = s.poollow := rfl
@[simp] theorem State.setBlock_killst (s : State) (c b : Nat) (x : Block) : (s.setBlock c b x).killst = s.killst := rfl
@[simp] theorem State.setBlock_kills (s : State) (c b : Nat) (x : Block) : (s.setBlock c b x).kills = s.kills := rfl
@[simp] theorem State.setBlock_ctxtab (s : State) (c b : Nat) (x : Block) : (s.setBlock c b x).ctxtab = s.ctxtab := rfl
@[simp] theorem State.setBlock_planar (s : State) (c b : Nat) (x : Block) : (s.setBlock c b x).planar = s.planar := rfl
@[simp] theorem State.setBlock_plannet (s : State) (c b : Nat) (x : Block) : (s.setBlock c b x).plannet = s.plannet := rfl
@[simp] theorem State.setBlock_planreg (s : State) (c b : Nat) (x : Block) : (s.setBlock c b x).planreg = s.planreg := rfl
@[simp] theorem State.setBlock_planssc (s : State) (c b : Nat) (x : Block) : (s.setBlock c b x).planssc = s.planssc := rfl
@[simp] theorem State.setBlock_clkst (s : State) (c b : Nat) (x : Block) : (s.setBlock c b x).clkst = s.clkst := rfl
@[simp] theorem State.setBlock_ssc (s : State) (c b : Nat) (x : Block) : (s.setBlock c b x).ssc = s.ssc := rfl
@[simp] theorem State.setBlock_switching (s : State) (c b : Nat) (x : Block) : (s.setBlock c b x).switching = s.switching := rfl
@[simp] theorem State.setBlock_going (s : State) (c b : Nat) (x : Block) : (s.setBlock c b x).going = s.going := rfl
@[simp] theorem State.setBlock_regs (s : State) (c b : Nat) (x : Block) : (s.setBlock c b x).regs = s.regs := rfl
@[simp] theorem State.setBlock_level (s : State) (c b : Nat) (x : Block) : (s.setBlock c b x).level = s.level := rfl
@[simp] theorem State.setBlock_pwr (s : State) (c b : Nat) (x : Block) : (s.setBlock c b x).pwr = s.pwr := rfl
@[simp] theorem State.setBlock_therm (s : State) (c b : Nat) (x : Block) : (s.setBlock c b x).therm = s.therm := rfl
@[simp] theorem State.setBlock_levelAt (s : State) (c b : Nat) (x : Block) : (s.setBlock c b x).levelAt = s.levelAt := rfl
@[simp] theorem State.setBlock_metAt (s : State) (c b : Nat) (x : Block) : (s.setBlock c b x).metAt = s.metAt := rfl
@[simp] theorem State.setBlock_overheated (s : State) (c b : Nat) (x : Block) : (s.setBlock c b x).overheated = s.overheated := rfl
@[simp] theorem State.setBlock_trust (s : State) (c b : Nat) (x : Block) : (s.setBlock c b x).trust = s.trust := rfl
@[simp] theorem State.setBlock_retired (s : State) (c b : Nat) (x : Block) : (s.setBlock c b x).retired = s.retired := rfl
@[simp] theorem State.setBlock_corrected (s : State) (c b : Nat) (x : Block) : (s.setBlock c b x).corrected = s.corrected := rfl
@[simp] theorem State.setBlock_keys (s : State) (c b : Nat) (x : Block) : (s.setBlock c b x).keys = s.keys := rfl
@[simp] theorem State.setBlock_cipher (s : State) (c b : Nat) (x : Block) : (s.setBlock c b x).cipher = s.cipher := rfl
@[simp] theorem State.setBlock_windowsLocked (s : State) (c b : Nat) (x : Block) : (s.setBlock c b x).windowsLocked = s.windowsLocked := rfl
@[simp] theorem State.setBlock_firmware (s : State) (c b : Nat) (x : Block) : (s.setBlock c b x).firmware = s.firmware := rfl
@[simp] theorem State.setBlock_image (s : State) (c b : Nat) (x : Block) : (s.setBlock c b x).image = s.image := rfl
@[simp] theorem State.setBlock_sideband (s : State) (c b : Nat) (x : Block) : (s.setBlock c b x).sideband = s.sideband := rfl
@[simp] theorem State.setBlock_ck (s : State) (c b : Nat) (x : Block) : (s.setBlock c b x).ck = s.ck := rfl
@[simp] theorem State.setBlock_ns (s : State) (c b : Nat) (x : Block) : (s.setBlock c b x).ns = s.ns := rfl
@[simp] theorem State.setBlock_frac (s : State) (c b : Nat) (x : Block) : (s.setBlock c b x).frac = s.frac := rfl
@[simp] theorem State.setBlock_stallIrq (s : State) (c b : Nat) (x : Block) : (s.setBlock c b x).stallIrq = s.stallIrq := rfl
@[simp] theorem State.setBlock_ctxIrq (s : State) (c b : Nat) (x : Block) : (s.setBlock c b x).ctxIrq = s.ctxIrq := rfl
@[simp] theorem State.setBlock_nextId (s : State) (c b : Nat) (x : Block) : (s.setBlock c b x).nextId = s.nextId := rfl
@[simp] theorem State.setBlock_draws (s : State) (c b : Nat) (x : Block) : (s.setBlock c b x).draws = s.draws := rfl
@[simp] theorem State.setBlock_lined (s : State) (c b : Nat) (x : Block) : (s.setBlock c b x).lined = s.lined := rfl
@[simp] theorem State.setBlock_issues (s : State) (c b : Nat) (x : Block) : (s.setBlock c b x).issues = s.issues := rfl
@[simp] theorem State.setBlock_agenda (s : State) (c b : Nat) (x : Block) : (s.setBlock c b x).agenda = s.agenda := rfl
@[simp] theorem State.setBlock_cur (s : State) (c b : Nat) (x : Block) : (s.setBlock c b x).cur = s.cur := rfl
@[simp] theorem State.setBlock_iword (s : State) (c b : Nat) (x : Block) : (s.setBlock c b x).iword = s.iword := rfl
@[simp] theorem State.setBlock_ilen (s : State) (c b : Nat) (x : Block) : (s.setBlock c b x).ilen = s.ilen := rfl
@[simp] theorem State.setBlock_arg (s : State) (c b : Nat) (x : Block) : (s.setBlock c b x).arg = s.arg := rfl
@[simp] theorem State.setBlock_iinstr (s : State) (c b : Nat) (x : Block) : (s.setBlock c b x).iinstr = s.iinstr := rfl
@[simp] theorem State.setBlock_applied (s : State) (c b : Nat) (x : Block) : (s.setBlock c b x).applied = s.applied := rfl

@[simp] theorem State.setGroup_mem (s : State) (g : GroupAt) (x : Group) : (s.setGroup g x).mem = s.mem := rfl
@[simp] theorem State.setGroup_ws (s : State) (g : GroupAt) (x : Group) : (s.setGroup g x).ws = s.ws := rfl
@[simp] theorem State.setGroup_poison (s : State) (g : GroupAt) (x : Group) : (s.setGroup g x).poison = s.poison := rfl
@[simp] theorem State.setGroup_wsPoison (s : State) (g : GroupAt) (x : Group) : (s.setGroup g x).wsPoison = s.wsPoison := rfl
@[simp] theorem State.setGroup_l2 (s : State) (g : GroupAt) (x : Group) : (s.setGroup g x).l2 = s.l2 := rfl
@[simp] theorem State.setGroup_net (s : State) (g : GroupAt) (x : Group) : (s.setGroup g x).net = s.net := rfl
@[simp] theorem State.setGroup_ctxs (s : State) (g : GroupAt) (x : Group) : (s.setGroup g x).ctxs = s.ctxs := rfl
@[simp] theorem State.setGroup_parts (s : State) (g : GroupAt) (x : Group) : (s.setGroup g x).parts = s.parts := rfl
@[simp] theorem State.setGroup_grids (s : State) (g : GroupAt) (x : Group) : (s.setGroup g x).grids = s.grids := rfl
@[simp] theorem State.setGroup_gangs (s : State) (g : GroupAt) (x : Group) : (s.setGroup g x).gangs = s.gangs := rfl
@[simp] theorem State.setGroup_ports (s : State) (g : GroupAt) (x : Group) : (s.setGroup g x).ports = s.ports := rfl
@[simp] theorem State.setGroup_reqs (s : State) (g : GroupAt) (x : Group) : (s.setGroup g x).reqs = s.reqs := rfl
@[simp] theorem State.setGroup_copies (s : State) (g : GroupAt) (x : Group) : (s.setGroup g x).copies = s.copies := rfl
@[simp] theorem State.setGroup_jobs (s : State) (g : GroupAt) (x : Group) : (s.setGroup g x).jobs = s.jobs := rfl
@[simp] theorem State.setGroup_parked (s : State) (g : GroupAt) (x : Group) : (s.setGroup g x).parked = s.parked := rfl
@[simp] theorem State.setGroup_seqs (s : State) (g : GroupAt) (x : Group) : (s.setGroup g x).seqs = s.seqs := rfl
@[simp] theorem State.setGroup_markers (s : State) (g : GroupAt) (x : Group) : (s.setGroup g x).markers = s.markers := rfl
@[simp] theorem State.setGroup_moving (s : State) (g : GroupAt) (x : Group) : (s.setGroup g x).moving = s.moving := rfl
@[simp] theorem State.setGroup_pools (s : State) (g : GroupAt) (x : Group) : (s.setGroup g x).pools = s.pools := rfl
@[simp] theorem State.setGroup_savory (s : State) (g : GroupAt) (x : Group) : (s.setGroup g x).savory = s.savory := rfl
@[simp] theorem State.setGroup_poollow (s : State) (g : GroupAt) (x : Group) : (s.setGroup g x).poollow = s.poollow := rfl
@[simp] theorem State.setGroup_killst (s : State) (g : GroupAt) (x : Group) : (s.setGroup g x).killst = s.killst := rfl
@[simp] theorem State.setGroup_kills (s : State) (g : GroupAt) (x : Group) : (s.setGroup g x).kills = s.kills := rfl
@[simp] theorem State.setGroup_ctxtab (s : State) (g : GroupAt) (x : Group) : (s.setGroup g x).ctxtab = s.ctxtab := rfl
@[simp] theorem State.setGroup_planar (s : State) (g : GroupAt) (x : Group) : (s.setGroup g x).planar = s.planar := rfl
@[simp] theorem State.setGroup_plannet (s : State) (g : GroupAt) (x : Group) : (s.setGroup g x).plannet = s.plannet := rfl
@[simp] theorem State.setGroup_planreg (s : State) (g : GroupAt) (x : Group) : (s.setGroup g x).planreg = s.planreg := rfl
@[simp] theorem State.setGroup_planssc (s : State) (g : GroupAt) (x : Group) : (s.setGroup g x).planssc = s.planssc := rfl
@[simp] theorem State.setGroup_clkst (s : State) (g : GroupAt) (x : Group) : (s.setGroup g x).clkst = s.clkst := rfl
@[simp] theorem State.setGroup_ssc (s : State) (g : GroupAt) (x : Group) : (s.setGroup g x).ssc = s.ssc := rfl
@[simp] theorem State.setGroup_switching (s : State) (g : GroupAt) (x : Group) : (s.setGroup g x).switching = s.switching := rfl
@[simp] theorem State.setGroup_going (s : State) (g : GroupAt) (x : Group) : (s.setGroup g x).going = s.going := rfl
@[simp] theorem State.setGroup_regs (s : State) (g : GroupAt) (x : Group) : (s.setGroup g x).regs = s.regs := rfl
@[simp] theorem State.setGroup_level (s : State) (g : GroupAt) (x : Group) : (s.setGroup g x).level = s.level := rfl
@[simp] theorem State.setGroup_pwr (s : State) (g : GroupAt) (x : Group) : (s.setGroup g x).pwr = s.pwr := rfl
@[simp] theorem State.setGroup_therm (s : State) (g : GroupAt) (x : Group) : (s.setGroup g x).therm = s.therm := rfl
@[simp] theorem State.setGroup_levelAt (s : State) (g : GroupAt) (x : Group) : (s.setGroup g x).levelAt = s.levelAt := rfl
@[simp] theorem State.setGroup_metAt (s : State) (g : GroupAt) (x : Group) : (s.setGroup g x).metAt = s.metAt := rfl
@[simp] theorem State.setGroup_overheated (s : State) (g : GroupAt) (x : Group) : (s.setGroup g x).overheated = s.overheated := rfl
@[simp] theorem State.setGroup_trust (s : State) (g : GroupAt) (x : Group) : (s.setGroup g x).trust = s.trust := rfl
@[simp] theorem State.setGroup_retired (s : State) (g : GroupAt) (x : Group) : (s.setGroup g x).retired = s.retired := rfl
@[simp] theorem State.setGroup_corrected (s : State) (g : GroupAt) (x : Group) : (s.setGroup g x).corrected = s.corrected := rfl
@[simp] theorem State.setGroup_keys (s : State) (g : GroupAt) (x : Group) : (s.setGroup g x).keys = s.keys := rfl
@[simp] theorem State.setGroup_cipher (s : State) (g : GroupAt) (x : Group) : (s.setGroup g x).cipher = s.cipher := rfl
@[simp] theorem State.setGroup_windowsLocked (s : State) (g : GroupAt) (x : Group) : (s.setGroup g x).windowsLocked = s.windowsLocked := rfl
@[simp] theorem State.setGroup_firmware (s : State) (g : GroupAt) (x : Group) : (s.setGroup g x).firmware = s.firmware := rfl
@[simp] theorem State.setGroup_image (s : State) (g : GroupAt) (x : Group) : (s.setGroup g x).image = s.image := rfl
@[simp] theorem State.setGroup_sideband (s : State) (g : GroupAt) (x : Group) : (s.setGroup g x).sideband = s.sideband := rfl
@[simp] theorem State.setGroup_ck (s : State) (g : GroupAt) (x : Group) : (s.setGroup g x).ck = s.ck := rfl
@[simp] theorem State.setGroup_ns (s : State) (g : GroupAt) (x : Group) : (s.setGroup g x).ns = s.ns := rfl
@[simp] theorem State.setGroup_frac (s : State) (g : GroupAt) (x : Group) : (s.setGroup g x).frac = s.frac := rfl
@[simp] theorem State.setGroup_stallIrq (s : State) (g : GroupAt) (x : Group) : (s.setGroup g x).stallIrq = s.stallIrq := rfl
@[simp] theorem State.setGroup_ctxIrq (s : State) (g : GroupAt) (x : Group) : (s.setGroup g x).ctxIrq = s.ctxIrq := rfl
@[simp] theorem State.setGroup_nextId (s : State) (g : GroupAt) (x : Group) : (s.setGroup g x).nextId = s.nextId := rfl
@[simp] theorem State.setGroup_draws (s : State) (g : GroupAt) (x : Group) : (s.setGroup g x).draws = s.draws := rfl
@[simp] theorem State.setGroup_lined (s : State) (g : GroupAt) (x : Group) : (s.setGroup g x).lined = s.lined := rfl
@[simp] theorem State.setGroup_issues (s : State) (g : GroupAt) (x : Group) : (s.setGroup g x).issues = s.issues := rfl
@[simp] theorem State.setGroup_agenda (s : State) (g : GroupAt) (x : Group) : (s.setGroup g x).agenda = s.agenda := rfl
@[simp] theorem State.setGroup_cur (s : State) (g : GroupAt) (x : Group) : (s.setGroup g x).cur = s.cur := rfl
@[simp] theorem State.setGroup_iword (s : State) (g : GroupAt) (x : Group) : (s.setGroup g x).iword = s.iword := rfl
@[simp] theorem State.setGroup_ilen (s : State) (g : GroupAt) (x : Group) : (s.setGroup g x).ilen = s.ilen := rfl
@[simp] theorem State.setGroup_arg (s : State) (g : GroupAt) (x : Group) : (s.setGroup g x).arg = s.arg := rfl
@[simp] theorem State.setGroup_iinstr (s : State) (g : GroupAt) (x : Group) : (s.setGroup g x).iinstr = s.iinstr := rfl
@[simp] theorem State.setGroup_applied (s : State) (g : GroupAt) (x : Group) : (s.setGroup g x).applied = s.applied := rfl

@[simp] theorem State.setSp_mem (s : State) (w : Who) (x : Split) : (s.setSp w x).mem = s.mem := by cases w <;> rfl
@[simp] theorem State.setSp_ws (s : State) (w : Who) (x : Split) : (s.setSp w x).ws = s.ws := by cases w <;> rfl
@[simp] theorem State.setSp_poison (s : State) (w : Who) (x : Split) : (s.setSp w x).poison = s.poison := by cases w <;> rfl
@[simp] theorem State.setSp_wsPoison (s : State) (w : Who) (x : Split) : (s.setSp w x).wsPoison = s.wsPoison := by cases w <;> rfl
@[simp] theorem State.setSp_l2 (s : State) (w : Who) (x : Split) : (s.setSp w x).l2 = s.l2 := by cases w <;> rfl
@[simp] theorem State.setSp_net (s : State) (w : Who) (x : Split) : (s.setSp w x).net = s.net := by cases w <;> rfl
@[simp] theorem State.setSp_ctxs (s : State) (w : Who) (x : Split) : (s.setSp w x).ctxs = s.ctxs := by cases w <;> rfl
@[simp] theorem State.setSp_parts (s : State) (w : Who) (x : Split) : (s.setSp w x).parts = s.parts := by cases w <;> rfl
@[simp] theorem State.setSp_grids (s : State) (w : Who) (x : Split) : (s.setSp w x).grids = s.grids := by cases w <;> rfl
@[simp] theorem State.setSp_gangs (s : State) (w : Who) (x : Split) : (s.setSp w x).gangs = s.gangs := by cases w <;> rfl
@[simp] theorem State.setSp_ports (s : State) (w : Who) (x : Split) : (s.setSp w x).ports = s.ports := by cases w <;> rfl
@[simp] theorem State.setSp_reqs (s : State) (w : Who) (x : Split) : (s.setSp w x).reqs = s.reqs := by cases w <;> rfl
@[simp] theorem State.setSp_copies (s : State) (w : Who) (x : Split) : (s.setSp w x).copies = s.copies := by cases w <;> rfl
@[simp] theorem State.setSp_jobs (s : State) (w : Who) (x : Split) : (s.setSp w x).jobs = s.jobs := by cases w <;> rfl
@[simp] theorem State.setSp_parked (s : State) (w : Who) (x : Split) : (s.setSp w x).parked = s.parked := by cases w <;> rfl
@[simp] theorem State.setSp_seqs (s : State) (w : Who) (x : Split) : (s.setSp w x).seqs = s.seqs := by cases w <;> rfl
@[simp] theorem State.setSp_markers (s : State) (w : Who) (x : Split) : (s.setSp w x).markers = s.markers := by cases w <;> rfl
@[simp] theorem State.setSp_moving (s : State) (w : Who) (x : Split) : (s.setSp w x).moving = s.moving := by cases w <;> rfl
@[simp] theorem State.setSp_pools (s : State) (w : Who) (x : Split) : (s.setSp w x).pools = s.pools := by cases w <;> rfl
@[simp] theorem State.setSp_savory (s : State) (w : Who) (x : Split) : (s.setSp w x).savory = s.savory := by cases w <;> rfl
@[simp] theorem State.setSp_poollow (s : State) (w : Who) (x : Split) : (s.setSp w x).poollow = s.poollow := by cases w <;> rfl
@[simp] theorem State.setSp_killst (s : State) (w : Who) (x : Split) : (s.setSp w x).killst = s.killst := by cases w <;> rfl
@[simp] theorem State.setSp_kills (s : State) (w : Who) (x : Split) : (s.setSp w x).kills = s.kills := by cases w <;> rfl
@[simp] theorem State.setSp_ctxtab (s : State) (w : Who) (x : Split) : (s.setSp w x).ctxtab = s.ctxtab := by cases w <;> rfl
@[simp] theorem State.setSp_planar (s : State) (w : Who) (x : Split) : (s.setSp w x).planar = s.planar := by cases w <;> rfl
@[simp] theorem State.setSp_plannet (s : State) (w : Who) (x : Split) : (s.setSp w x).plannet = s.plannet := by cases w <;> rfl
@[simp] theorem State.setSp_planreg (s : State) (w : Who) (x : Split) : (s.setSp w x).planreg = s.planreg := by cases w <;> rfl
@[simp] theorem State.setSp_planssc (s : State) (w : Who) (x : Split) : (s.setSp w x).planssc = s.planssc := by cases w <;> rfl
@[simp] theorem State.setSp_clkst (s : State) (w : Who) (x : Split) : (s.setSp w x).clkst = s.clkst := by cases w <;> rfl
@[simp] theorem State.setSp_ssc (s : State) (w : Who) (x : Split) : (s.setSp w x).ssc = s.ssc := by cases w <;> rfl
@[simp] theorem State.setSp_switching (s : State) (w : Who) (x : Split) : (s.setSp w x).switching = s.switching := by cases w <;> rfl
@[simp] theorem State.setSp_going (s : State) (w : Who) (x : Split) : (s.setSp w x).going = s.going := by cases w <;> rfl
@[simp] theorem State.setSp_regs (s : State) (w : Who) (x : Split) : (s.setSp w x).regs = s.regs := by cases w <;> rfl
@[simp] theorem State.setSp_level (s : State) (w : Who) (x : Split) : (s.setSp w x).level = s.level := by cases w <;> rfl
@[simp] theorem State.setSp_pwr (s : State) (w : Who) (x : Split) : (s.setSp w x).pwr = s.pwr := by cases w <;> rfl
@[simp] theorem State.setSp_therm (s : State) (w : Who) (x : Split) : (s.setSp w x).therm = s.therm := by cases w <;> rfl
@[simp] theorem State.setSp_levelAt (s : State) (w : Who) (x : Split) : (s.setSp w x).levelAt = s.levelAt := by cases w <;> rfl
@[simp] theorem State.setSp_metAt (s : State) (w : Who) (x : Split) : (s.setSp w x).metAt = s.metAt := by cases w <;> rfl
@[simp] theorem State.setSp_overheated (s : State) (w : Who) (x : Split) : (s.setSp w x).overheated = s.overheated := by cases w <;> rfl
@[simp] theorem State.setSp_trust (s : State) (w : Who) (x : Split) : (s.setSp w x).trust = s.trust := by cases w <;> rfl
@[simp] theorem State.setSp_retired (s : State) (w : Who) (x : Split) : (s.setSp w x).retired = s.retired := by cases w <;> rfl
@[simp] theorem State.setSp_corrected (s : State) (w : Who) (x : Split) : (s.setSp w x).corrected = s.corrected := by cases w <;> rfl
@[simp] theorem State.setSp_keys (s : State) (w : Who) (x : Split) : (s.setSp w x).keys = s.keys := by cases w <;> rfl
@[simp] theorem State.setSp_cipher (s : State) (w : Who) (x : Split) : (s.setSp w x).cipher = s.cipher := by cases w <;> rfl
@[simp] theorem State.setSp_windowsLocked (s : State) (w : Who) (x : Split) : (s.setSp w x).windowsLocked = s.windowsLocked := by cases w <;> rfl
@[simp] theorem State.setSp_firmware (s : State) (w : Who) (x : Split) : (s.setSp w x).firmware = s.firmware := by cases w <;> rfl
@[simp] theorem State.setSp_image (s : State) (w : Who) (x : Split) : (s.setSp w x).image = s.image := by cases w <;> rfl
@[simp] theorem State.setSp_sideband (s : State) (w : Who) (x : Split) : (s.setSp w x).sideband = s.sideband := by cases w <;> rfl
@[simp] theorem State.setSp_ck (s : State) (w : Who) (x : Split) : (s.setSp w x).ck = s.ck := by cases w <;> rfl
@[simp] theorem State.setSp_ns (s : State) (w : Who) (x : Split) : (s.setSp w x).ns = s.ns := by cases w <;> rfl
@[simp] theorem State.setSp_frac (s : State) (w : Who) (x : Split) : (s.setSp w x).frac = s.frac := by cases w <;> rfl
@[simp] theorem State.setSp_stallIrq (s : State) (w : Who) (x : Split) : (s.setSp w x).stallIrq = s.stallIrq := by cases w <;> rfl
@[simp] theorem State.setSp_ctxIrq (s : State) (w : Who) (x : Split) : (s.setSp w x).ctxIrq = s.ctxIrq := by cases w <;> rfl
@[simp] theorem State.setSp_nextId (s : State) (w : Who) (x : Split) : (s.setSp w x).nextId = s.nextId := by cases w <;> rfl
@[simp] theorem State.setSp_draws (s : State) (w : Who) (x : Split) : (s.setSp w x).draws = s.draws := by cases w <;> rfl
@[simp] theorem State.setSp_lined (s : State) (w : Who) (x : Split) : (s.setSp w x).lined = s.lined := by cases w <;> rfl
@[simp] theorem State.setSp_issues (s : State) (w : Who) (x : Split) : (s.setSp w x).issues = s.issues := by cases w <;> rfl
@[simp] theorem State.setSp_agenda (s : State) (w : Who) (x : Split) : (s.setSp w x).agenda = s.agenda := by cases w <;> rfl
@[simp] theorem State.setSp_cur (s : State) (w : Who) (x : Split) : (s.setSp w x).cur = s.cur := by cases w <;> rfl
@[simp] theorem State.setSp_iword (s : State) (w : Who) (x : Split) : (s.setSp w x).iword = s.iword := by cases w <;> rfl
@[simp] theorem State.setSp_ilen (s : State) (w : Who) (x : Split) : (s.setSp w x).ilen = s.ilen := by cases w <;> rfl
@[simp] theorem State.setSp_arg (s : State) (w : Who) (x : Split) : (s.setSp w x).arg = s.arg := by cases w <;> rfl
@[simp] theorem State.setSp_iinstr (s : State) (w : Who) (x : Split) : (s.setSp w x).iinstr = s.iinstr := by cases w <;> rfl
@[simp] theorem State.setSp_applied (s : State) (w : Who) (x : Split) : (s.setSp w x).applied = s.applied := by cases w <;> rfl

@[simp] theorem State.setRf_mem (s : State) (w : Who) (x : RegFile) : (s.setRf w x).mem = s.mem := by cases w <;> rfl
@[simp] theorem State.setRf_ws (s : State) (w : Who) (x : RegFile) : (s.setRf w x).ws = s.ws := by cases w <;> rfl
@[simp] theorem State.setRf_poison (s : State) (w : Who) (x : RegFile) : (s.setRf w x).poison = s.poison := by cases w <;> rfl
@[simp] theorem State.setRf_wsPoison (s : State) (w : Who) (x : RegFile) : (s.setRf w x).wsPoison = s.wsPoison := by cases w <;> rfl
@[simp] theorem State.setRf_l2 (s : State) (w : Who) (x : RegFile) : (s.setRf w x).l2 = s.l2 := by cases w <;> rfl
@[simp] theorem State.setRf_net (s : State) (w : Who) (x : RegFile) : (s.setRf w x).net = s.net := by cases w <;> rfl
@[simp] theorem State.setRf_ctxs (s : State) (w : Who) (x : RegFile) : (s.setRf w x).ctxs = s.ctxs := by cases w <;> rfl
@[simp] theorem State.setRf_parts (s : State) (w : Who) (x : RegFile) : (s.setRf w x).parts = s.parts := by cases w <;> rfl
@[simp] theorem State.setRf_grids (s : State) (w : Who) (x : RegFile) : (s.setRf w x).grids = s.grids := by cases w <;> rfl
@[simp] theorem State.setRf_gangs (s : State) (w : Who) (x : RegFile) : (s.setRf w x).gangs = s.gangs := by cases w <;> rfl
@[simp] theorem State.setRf_ports (s : State) (w : Who) (x : RegFile) : (s.setRf w x).ports = s.ports := by cases w <;> rfl
@[simp] theorem State.setRf_reqs (s : State) (w : Who) (x : RegFile) : (s.setRf w x).reqs = s.reqs := by cases w <;> rfl
@[simp] theorem State.setRf_copies (s : State) (w : Who) (x : RegFile) : (s.setRf w x).copies = s.copies := by cases w <;> rfl
@[simp] theorem State.setRf_jobs (s : State) (w : Who) (x : RegFile) : (s.setRf w x).jobs = s.jobs := by cases w <;> rfl
@[simp] theorem State.setRf_parked (s : State) (w : Who) (x : RegFile) : (s.setRf w x).parked = s.parked := by cases w <;> rfl
@[simp] theorem State.setRf_seqs (s : State) (w : Who) (x : RegFile) : (s.setRf w x).seqs = s.seqs := by cases w <;> rfl
@[simp] theorem State.setRf_markers (s : State) (w : Who) (x : RegFile) : (s.setRf w x).markers = s.markers := by cases w <;> rfl
@[simp] theorem State.setRf_moving (s : State) (w : Who) (x : RegFile) : (s.setRf w x).moving = s.moving := by cases w <;> rfl
@[simp] theorem State.setRf_pools (s : State) (w : Who) (x : RegFile) : (s.setRf w x).pools = s.pools := by cases w <;> rfl
@[simp] theorem State.setRf_savory (s : State) (w : Who) (x : RegFile) : (s.setRf w x).savory = s.savory := by cases w <;> rfl
@[simp] theorem State.setRf_poollow (s : State) (w : Who) (x : RegFile) : (s.setRf w x).poollow = s.poollow := by cases w <;> rfl
@[simp] theorem State.setRf_killst (s : State) (w : Who) (x : RegFile) : (s.setRf w x).killst = s.killst := by cases w <;> rfl
@[simp] theorem State.setRf_kills (s : State) (w : Who) (x : RegFile) : (s.setRf w x).kills = s.kills := by cases w <;> rfl
@[simp] theorem State.setRf_ctxtab (s : State) (w : Who) (x : RegFile) : (s.setRf w x).ctxtab = s.ctxtab := by cases w <;> rfl
@[simp] theorem State.setRf_planar (s : State) (w : Who) (x : RegFile) : (s.setRf w x).planar = s.planar := by cases w <;> rfl
@[simp] theorem State.setRf_plannet (s : State) (w : Who) (x : RegFile) : (s.setRf w x).plannet = s.plannet := by cases w <;> rfl
@[simp] theorem State.setRf_planreg (s : State) (w : Who) (x : RegFile) : (s.setRf w x).planreg = s.planreg := by cases w <;> rfl
@[simp] theorem State.setRf_planssc (s : State) (w : Who) (x : RegFile) : (s.setRf w x).planssc = s.planssc := by cases w <;> rfl
@[simp] theorem State.setRf_clkst (s : State) (w : Who) (x : RegFile) : (s.setRf w x).clkst = s.clkst := by cases w <;> rfl
@[simp] theorem State.setRf_ssc (s : State) (w : Who) (x : RegFile) : (s.setRf w x).ssc = s.ssc := by cases w <;> rfl
@[simp] theorem State.setRf_switching (s : State) (w : Who) (x : RegFile) : (s.setRf w x).switching = s.switching := by cases w <;> rfl
@[simp] theorem State.setRf_going (s : State) (w : Who) (x : RegFile) : (s.setRf w x).going = s.going := by cases w <;> rfl
@[simp] theorem State.setRf_regs (s : State) (w : Who) (x : RegFile) : (s.setRf w x).regs = s.regs := by cases w <;> rfl
@[simp] theorem State.setRf_level (s : State) (w : Who) (x : RegFile) : (s.setRf w x).level = s.level := by cases w <;> rfl
@[simp] theorem State.setRf_pwr (s : State) (w : Who) (x : RegFile) : (s.setRf w x).pwr = s.pwr := by cases w <;> rfl
@[simp] theorem State.setRf_therm (s : State) (w : Who) (x : RegFile) : (s.setRf w x).therm = s.therm := by cases w <;> rfl
@[simp] theorem State.setRf_levelAt (s : State) (w : Who) (x : RegFile) : (s.setRf w x).levelAt = s.levelAt := by cases w <;> rfl
@[simp] theorem State.setRf_metAt (s : State) (w : Who) (x : RegFile) : (s.setRf w x).metAt = s.metAt := by cases w <;> rfl
@[simp] theorem State.setRf_overheated (s : State) (w : Who) (x : RegFile) : (s.setRf w x).overheated = s.overheated := by cases w <;> rfl
@[simp] theorem State.setRf_trust (s : State) (w : Who) (x : RegFile) : (s.setRf w x).trust = s.trust := by cases w <;> rfl
@[simp] theorem State.setRf_retired (s : State) (w : Who) (x : RegFile) : (s.setRf w x).retired = s.retired := by cases w <;> rfl
@[simp] theorem State.setRf_corrected (s : State) (w : Who) (x : RegFile) : (s.setRf w x).corrected = s.corrected := by cases w <;> rfl
@[simp] theorem State.setRf_keys (s : State) (w : Who) (x : RegFile) : (s.setRf w x).keys = s.keys := by cases w <;> rfl
@[simp] theorem State.setRf_cipher (s : State) (w : Who) (x : RegFile) : (s.setRf w x).cipher = s.cipher := by cases w <;> rfl
@[simp] theorem State.setRf_windowsLocked (s : State) (w : Who) (x : RegFile) : (s.setRf w x).windowsLocked = s.windowsLocked := by cases w <;> rfl
@[simp] theorem State.setRf_firmware (s : State) (w : Who) (x : RegFile) : (s.setRf w x).firmware = s.firmware := by cases w <;> rfl
@[simp] theorem State.setRf_image (s : State) (w : Who) (x : RegFile) : (s.setRf w x).image = s.image := by cases w <;> rfl
@[simp] theorem State.setRf_sideband (s : State) (w : Who) (x : RegFile) : (s.setRf w x).sideband = s.sideband := by cases w <;> rfl
@[simp] theorem State.setRf_ck (s : State) (w : Who) (x : RegFile) : (s.setRf w x).ck = s.ck := by cases w <;> rfl
@[simp] theorem State.setRf_ns (s : State) (w : Who) (x : RegFile) : (s.setRf w x).ns = s.ns := by cases w <;> rfl
@[simp] theorem State.setRf_frac (s : State) (w : Who) (x : RegFile) : (s.setRf w x).frac = s.frac := by cases w <;> rfl
@[simp] theorem State.setRf_stallIrq (s : State) (w : Who) (x : RegFile) : (s.setRf w x).stallIrq = s.stallIrq := by cases w <;> rfl
@[simp] theorem State.setRf_ctxIrq (s : State) (w : Who) (x : RegFile) : (s.setRf w x).ctxIrq = s.ctxIrq := by cases w <;> rfl
@[simp] theorem State.setRf_nextId (s : State) (w : Who) (x : RegFile) : (s.setRf w x).nextId = s.nextId := by cases w <;> rfl
@[simp] theorem State.setRf_draws (s : State) (w : Who) (x : RegFile) : (s.setRf w x).draws = s.draws := by cases w <;> rfl
@[simp] theorem State.setRf_lined (s : State) (w : Who) (x : RegFile) : (s.setRf w x).lined = s.lined := by cases w <;> rfl
@[simp] theorem State.setRf_issues (s : State) (w : Who) (x : RegFile) : (s.setRf w x).issues = s.issues := by cases w <;> rfl
@[simp] theorem State.setRf_agenda (s : State) (w : Who) (x : RegFile) : (s.setRf w x).agenda = s.agenda := by cases w <;> rfl
@[simp] theorem State.setRf_cur (s : State) (w : Who) (x : RegFile) : (s.setRf w x).cur = s.cur := by cases w <;> rfl
@[simp] theorem State.setRf_iword (s : State) (w : Who) (x : RegFile) : (s.setRf w x).iword = s.iword := by cases w <;> rfl
@[simp] theorem State.setRf_ilen (s : State) (w : Who) (x : RegFile) : (s.setRf w x).ilen = s.ilen := by cases w <;> rfl
@[simp] theorem State.setRf_arg (s : State) (w : Who) (x : RegFile) : (s.setRf w x).arg = s.arg := by cases w <;> rfl
@[simp] theorem State.setRf_iinstr (s : State) (w : Who) (x : RegFile) : (s.setRf w x).iinstr = s.iinstr := by cases w <;> rfl
@[simp] theorem State.setRf_applied (s : State) (w : Who) (x : RegFile) : (s.setRf w x).applied = s.applied := by cases w <;> rfl

/-- Read after write of a core. -/
theorem State.core_setCore (s : State) (c d : Nat) (x : Core) : (s.setCore c x).core d = if d = c then x else s.core d :=
  FMap.get_put _ s.cores d c x

@[simp] theorem State.core_setCore_same (s : State) (c : Nat) (x : Core) : (s.setCore c x).core c = x := by
  rw [State.core_setCore, if_pos rfl]

/-- Read after write of a context. -/
theorem State.ctx_setCtx (s : State) (c d : Nat) (x : Ctx) : (s.setCtx c x).ctx d = if d = c then x else s.ctx d :=
  FMap.get_put _ s.ctxs d c x

@[simp] theorem State.ctx_setCtx_same (s : State) (c : Nat) (x : Ctx) : (s.setCtx c x).ctx c = x := by
  rw [State.ctx_setCtx, if_pos rfl]

/-- Read after write of a partition. -/
theorem State.part_setPart (s : State) (c d : Nat) (x : Part) : (s.setPart c x).part d = if d = c then x else s.part d :=
  FMap.get_put _ s.parts d c x

/-- Read after write of a grid. -/
theorem State.grid_setGrid (s : State) (c d : Nat) (x : Grid) : (s.setGrid c x).grid d = if d = c then x else s.grid d :=
  FMap.get_put _ s.grids d c x

/-- Read after write of a gang. -/
theorem State.gang_setGang (s : State) (c d : Nat) (x : Gang) : (s.setGang c x).gang d = if d = c then x else s.gang d :=
  FMap.get_put _ s.gangs d c x

/-- Read after write of a port. -/
theorem State.port_setPort (s : State) (c d : Nat) (x : Port) : (s.setPort c x).port d = if d = c then x else s.port d :=
  FMap.get_put _ s.ports d c x

/-- Read after write of a block of a core. -/
theorem Core.block_setBlock (c : Core) (b d : Nat) (x : Block) : (c.setBlock b x).block d = if d = b then x else c.block d :=
  FMap.get_put _ c.act d b x

@[simp] theorem Core.block_setBlock_same (c : Core) (b : Nat) (x : Block) : (c.setBlock b x).block b = x := by
  rw [Core.block_setBlock, if_pos rfl]

/-- Read after write of a group of a block. -/
theorem Block.group_setGroup (b : Block) (i j : Nat) (x : Group) : (b.setGroup i x).group j = if j = i then x else b.group j :=
  FMap.get_put _ b.groups j i x

@[simp] theorem Block.group_setGroup_same (b : Block) (i : Nat) (x : Group) : (b.setGroup i x).group i = x := by
  rw [Block.group_setGroup, if_pos rfl]

/-- Read after write of a feed thread of a block. -/
theorem Block.thread_setThread (b : Block) (i j : Nat) (x : Thread) :
    (b.setThread i x).thread j = if j = i then x else b.thread j := FMap.get_put _ b.threads j i x

@[simp] theorem Block.thread_setThread_same (b : Block) (i : Nat) (x : Thread) : (b.setThread i x).thread i = x := by
  rw [Block.thread_setThread, if_pos rfl]

/-- Read after write of a split of a group. -/
theorem Group.split_setSplit (g : Group) (i j : Nat) (x : Split) : (g.setSplit i x).split j = if j = i then x else g.split j :=
  FMap.get_put _ g.splits j i x

@[simp] theorem Group.split_setSplit_same (g : Group) (i : Nat) (x : Split) : (g.setSplit i x).split i = x := by
  rw [Group.split_setSplit, if_pos rfl]

/-- Read after write of a block. -/
theorem State.block_setBlock (s : State) (c b d e : Nat) (x : Block) :
    (s.setBlock c b x).block d e = if d = c ∧ e = b then x else s.block d e := by
  unfold State.setBlock State.block
  rw [State.core_setCore]
  by_cases h : d = c
  · subst h; simp only [if_true, true_and]; exact Core.block_setBlock _ _ _ _
  · simp [h]

@[simp] theorem State.block_setBlock_same (s : State) (c b : Nat) (x : Block) : (s.setBlock c b x).block c b = x := by
  rw [State.block_setBlock]; simp

@[simp] theorem State.group_setGroup_same (s : State) (g : GroupAt) (x : Group) : (s.setGroup g x).group g = x := by
  simp [State.group, State.setGroup]

/-- Putting a block back where it stands leaves every block as it reads. -/
theorem State.core_setBlock_ne (s : State) {c d : Nat} (b : Nat) (x : Block) (h : d ≠ c) : (s.setBlock c b x).core d = s.core d := by
  unfold State.setBlock; rw [State.core_setCore, if_neg h]

end Sys2Proof.Machine
end

