-- ==== Sys2Proof/Laws/Issue.lean ====
section
/-! SUPPORT. What beginning an instruction and writing its results can do. -/

set_option linter.unusedSimpArgs false

namespace Sys2Proof.Machine

/-- An instruction that may run begins. -/
theorem State.begin_of_mayIssue {s : State} {i : Instr} (h : s.mayIssue i) : s.begin i = .go (s.issued i) := by
  obtain ⟨h1, h2⟩ := h
  unfold State.begin State.issued
  have : (s.resuming s.cur || s.readyFor i) = true := by simpa using h2
  simp [h1, this]

/-- An instruction that may issue does what its meaning says of it in hand. -/
theorem State.perform_of_mayIssue {s : State} {i : Instr} (h : s.mayIssue i) (f : Iss → Answer) :
    s.perform i f = f (s.issued i) := by
  unfold State.perform
  rw [State.begin_of_mayIssue h]

/-- An instruction begins or stops: with the fault of a missing issuer, or in a next state. -/
theorem State.begin_cases (s : State) (i : Instr) :
    (s.hasIssuer = false ∧ s.begin i = .stop (.fault .noIssuer)) ∨ (∃ t, s.begin i = .stop (.next t)) ∨
      (s.mayIssue i ∧ s.begin i = .go (s.issued i)) := by
  by_cases h : s.mayIssue i
  · exact .inr (.inr ⟨h, State.begin_of_mayIssue h⟩)
  · unfold State.begin
    by_cases h1 : s.hasIssuer = true
    · refine .inr (.inl ?_)
      have : (s.resuming s.cur || s.readyFor i) = false := by
        by_contra hh
        exact h ⟨h1, by simpa only [Bool.not_eq_false, Bool.or_eq_true] using hh⟩
      simp only [h1, this, Bool.not_true, Bool.false_eq_true, if_false]
      split_ifs
      · exact ⟨_, rfl⟩
      · exact ⟨_, rfl⟩
    · have h0 : s.hasIssuer = false := by simpa using h1
      exact .inl ⟨h0, by simp [h0]⟩

@[simp] theorem State.issued_who (s : State) (i : Instr) : (s.issued i).who = s.cur := rfl

/-- The state as the turn of the issuer begins. -/
theorem State.issued_s (s : State) (i : Instr) : (s.issued i).s = s.entered s.cur (shapeOf i) := rfl

@[simp] theorem State.issued_at (s : State) (i : Instr) : (s.issued i).old = s.sp s.cur := rfl

/-- The group of an issuer after the core's account of an issue. -/
theorem State.group_issuing {s : State} {g : GroupAt} {sid : Nat} (sh : Shape) :
    (s.issuing (.split g sid) sh).group g =
      { (s.group g).setSplit sid (s.issuingSplit g sid sh) with b := if (s.group g).last = some sid then (s.group g).b else noLatches, last := some sid } := by
  simp only [State.issuing, State.group, State.block, State.core, State.setCore, FMap.get_put_same, State.setGroup, State.setBlock,
    Core.noteIssue, Core.setBlock, Core.block, Block.setGroup, Block.group]

/-- As the turn of a split begins, its group has changed only in the split, which keeps its lanes and its address, in the latches,
which the split reads from now on (R53), and in the split that issued last. -/
theorem State.group_entered {s : State} {g : GroupAt} {sid : Nat} (hc : s.cur = .split g sid) (sh : Shape) :
    ∃ p l, ((s.group g).split sid).stays p ∧ p.pc = ((s.group g).split sid).pc ∧
      (s.entered s.cur sh).group g = { (s.group g).setSplit sid p with b := s.readLatches, last := l } := by
  rw [hc]
  unfold State.entered
  split_ifs with hr
  · refine ⟨((s.group g).split sid).taken, (s.group g).last, ⟨rfl, rfl, rfl, rfl⟩, rfl, ?_⟩
    have hb : s.readLatches = (s.group g).b := by unfold State.readLatches; rw [hc]; simp [hr]
    rw [hb]
    simp only [State.setSp, State.sp, State.group, State.block, State.core, State.setCore, FMap.get_put_same, State.setGroup, State.setBlock,
      Core.setBlock, Core.block, Block.setGroup, Block.group]
    rfl
  · refine ⟨s.issuingSplit g sid sh, some sid, ⟨rfl, rfl, rfl, rfl⟩, rfl, (State.group_issuing sh).trans ?_⟩
    · have hb : s.readLatches = if (s.group g).last = some sid then (s.group g).b else noLatches := by
        unfold State.readLatches; rw [hc]; simp [hr]
      rw [hb]

/-- As the turn of a feed thread begins, its block has changed only in the thread's waiting. -/
theorem State.block_entered {s : State} {c b n : Nat} (hc : s.cur = .thread c b n) (sh : Shape) :
    (s.entered s.cur sh).block c b = (s.block c b).setThread n { (s.block c b).thread n with sp := ((s.block c b).thread n).sp.taken } := by
  rw [hc]
  unfold State.entered
  split_ifs <;>
    simp [State.issuing, State.setSp, State.sp, State.block, State.setCore, State.core, State.setBlock, Core.setBlock, Core.block]

@[simp] theorem State.issued_rf {s : State} {i : Instr} (h : s.hasIssuer = true) : (s.issued i).rf = s.rf s.cur := by
  unfold State.issued State.inHand
  cases hc : s.cur with
  | split g sid =>
    obtain ⟨p, l, -, -, hg⟩ := State.group_entered hc (shapeOf i)
    rw [hc] at hg
    simp only [State.rf, hg]; rfl
  | thread c b t =>
    have hb := State.block_entered hc (shapeOf i)
    rw [hc] at hb
    simp only [State.rf, hb]; simp [Block.thread, Block.setThread]
  | nobody => simp [State.hasIssuer, State.lives, hc] at h

/-- The split of an issuer keeps its lanes and its address as its turn begins. -/
theorem State.sp_entered {s : State} (h : s.hasIssuer = true) (sh : Shape) :
    (s.sp s.cur).stays ((s.entered s.cur sh).sp s.cur) ∧ ((s.entered s.cur sh).sp s.cur).pc = (s.sp s.cur).pc := by
  cases hc : s.cur with
  | split g sid =>
    obtain ⟨p, l, hk, hp, hg⟩ := State.group_entered hc sh
    rw [hc] at hg
    have : ((s.entered (.split g sid) sh).sp (.split g sid)) = p := by
      simp only [State.sp, hg]; simp [Group.split, Group.setSplit]
    rw [this]; exact ⟨hk, hp⟩
  | thread c b t =>
    have hb := State.block_entered hc sh
    rw [hc] at hb
    have : ((s.entered (.thread c b t) sh).sp (.thread c b t)) = ((s.block c b).thread t).sp.taken := by
      simp only [State.sp, hb]; simp [Block.thread, Block.setThread]
    rw [this]; exact ⟨⟨rfl, rfl, rfl, rfl⟩, rfl⟩
  | nobody => simp [State.hasIssuer, State.lives, hc] at h

@[simp] theorem State.issued_operands {s : State} {i : Instr} (h : s.hasIssuer = true) : (s.issued i).at_ = s.operands := by
  have hr := State.issued_rf (i := i) h
  unfold State.issued State.inHand at hr ⊢
  simp only at hr ⊢
  rw [hr]
  rfl

@[simp] theorem State.issued_active {s : State} {i : Instr} (h : s.hasIssuer = true) : (s.issued i).active = s.activeFor i := by
  have hr := State.issued_operands (i := i) h
  have hm := (State.sp_entered h (shapeOf i)).1.2.1
  unfold State.issued State.inHand at hr ⊢
  unfold State.activeFor
  simp only at hr ⊢
  rw [hr, hm]

@[simp] theorem State.issuing_ilen (s : State) (w : Who) (sh : Shape) : (s.issuing w sh).ilen = s.ilen := by cases w <;> rfl

@[simp] theorem State.entered_ilen (s : State) (w : Who) (sh : Shape) : (s.entered w sh).ilen = s.ilen := by
  unfold State.entered; split_ifs
  · exact State.setSp_ilen _ _ _
  · simp

@[simp] theorem State.issuing_cur (s : State) (w : Who) (sh : Shape) : (s.issuing w sh).cur = s.cur := by cases w <;> rfl

@[simp] theorem State.entered_cur (s : State) (w : Who) (sh : Shape) : (s.entered w sh).cur = s.cur := by
  unfold State.entered; split_ifs
  · exact State.setSp_cur _ _ _
  · simp

@[simp] theorem State.issued_pc {s : State} {i : Instr} (h : s.hasIssuer = true) : (s.issued i).pc = (s.sp s.cur).pc :=
  (State.sp_entered h (shapeOf i)).2

@[simp] theorem State.issued_fall {s : State} {i : Instr} (h : s.hasIssuer = true) :
    (s.issued i).fall = (s.sp s.cur).pc + BitVec.ofNat 64 s.ilen := by
  have hp := (State.sp_entered h (shapeOf i)).2
  unfold State.issued State.inHand
  simp [hp]

@[simp] theorem State.issued_b {s : State} {i : Instr} : (s.issued i).b = s.readLatches := by
  unfold State.issued State.inHand
  cases hc : s.cur with
  | split g sid =>
    obtain ⟨p, l, -, -, hg⟩ := State.group_entered hc (shapeOf i)
    rw [hc] at hg
    simp only [State.latches, hg]
  | thread c b t => simp [State.latches, State.readLatches, hc]
  | nobody => simp [State.latches, State.readLatches, hc]

/-- Replacing the issuing group keeps what an issuer keeps, when the group keeps it. -/
theorem State.keptBut_setGroup {s t : State} {g : GroupAt} {sid : Nat} (hc : s.cur = .split g sid) (h : s.keptBut t) {x : Group}
    (h1 : { x with rf := (s.group g).rf, b := (s.group g).b, gen := (s.group g).gen, splits := (s.group g).splits, last := (s.group g).last } = s.group g)
    (h2 : ∀ n, n ≠ sid → x.split n = (s.group g).split n) (h3 : ((s.group g).split sid).stays (x.split sid)) :
    s.keptBut (t.setGroup g x) := by
  unfold State.keptBut at h ⊢
  rw [hc] at h ⊢
  obtain ⟨a1, a2, a3, a4, a5, a6, a7, a8, a9, a10⟩ := h
  have hbk : (t.setGroup g x).blk (.split g sid) = (t.block g.core g.block).setGroup g.ix x := by
    simp [State.blk, State.setGroup, Who.core, Who.block]
  refine ⟨a1, fun k hk => ?_, ?_, fun b hb => ?_, ?_, ?_, fun n hn => ?_, ?_, fun n hn => ?_, ?_⟩
  · have hk' : k ≠ g.core := hk
    have : (t.setGroup g x).core k = t.core k := by simp [State.setGroup, State.setBlock, State.core, State.setCore, FMap.get_put, hk']
    refine ⟨by rw [this]; exact (a2 k hk).1, fun b => ?_⟩
    unfold State.block at *
    rw [this]; exact (a2 k hk).2 b
  · have : (t.setGroup g x).core (Who.split g sid).core = (t.core (Who.split g sid).core).setBlock g.block ((t.block g.core g.block).setGroup g.ix x) := by
      simp [State.setGroup, State.setBlock, State.core, State.setCore, Who.core]
    rw [this]; exact a3
  · have hb' : b ≠ g.block := hb
    have : (t.setGroup g x).block g.core b = t.block g.core b := by
      simp [State.setGroup, State.setBlock, State.core, State.setCore, State.block, Core.block, Core.setBlock, FMap.get_put, hb']
    exact this.trans (a4 b hb)
  · rw [hbk]; exact a5
  · rw [hbk]; exact a6
  · rw [hbk]
    have hn' : n ≠ g.ix := hn
    have : ((t.block g.core g.block).setGroup g.ix x).group n = (t.block g.core g.block).group n := by
      simp [Block.setGroup, Block.group, FMap.get_put, hn']
    exact this.trans (a7 n hn)
  · rw [State.group_setGroup_same]; exact h1
  · rw [State.group_setGroup_same]; exact h2 n hn
  · rw [State.group_setGroup_same]; exact h3

/-- Replacing the issuing thread keeps what an issuer keeps, when the thread keeps it. -/
theorem State.keptBut_setThread {s t : State} {c b n : Nat} (hc : s.cur = .thread c b n) (h : s.keptBut t) {x : Thread}
    (h1 : { x with sp := ((s.block c b).thread n).sp, rf := ((s.block c b).thread n).rf } = (s.block c b).thread n)
    (h2 : ((s.block c b).thread n).sp.stays x.sp) : s.keptBut (t.setBlock c b ((t.block c b).setThread n x)) := by
  unfold State.keptBut at h ⊢
  rw [hc] at h ⊢
  obtain ⟨a1, a2, a3, a4, a5, a6, a7, a8, a9⟩ := h
  have hbk : (t.setBlock c b ((t.block c b).setThread n x)).blk (.thread c b n) = (t.block c b).setThread n x := by
    simp [State.blk, Who.core, Who.block]
  refine ⟨a1, fun k hk => ?_, ?_, fun b' hb => ?_, ?_, ?_, fun m hm => ?_, ?_, ?_⟩
  · have hk' : k ≠ c := hk
    have : (t.setBlock c b ((t.block c b).setThread n x)).core k = t.core k := by
      simp [State.setBlock, State.core, State.setCore, FMap.get_put, hk']
    refine ⟨by rw [this]; exact (a2 k hk).1, fun b => ?_⟩
    unfold State.block at *
    rw [this]; exact (a2 k hk).2 b
  · have : (t.setBlock c b ((t.block c b).setThread n x)).core (Who.thread c b n).core = (t.core (Who.thread c b n).core).setBlock b ((t.block c b).setThread n x) := by
      simp [State.setBlock, State.core, State.setCore, Who.core]
    rw [this]; exact a3
  · have hb' : b' ≠ b := hb
    have : (t.setBlock c b ((t.block c b).setThread n x)).block c b' = t.block c b' := by
      simp [State.setBlock, State.core, State.setCore, State.block, Core.block, Core.setBlock, FMap.get_put, hb']
    exact this.trans (a4 b' hb)
  · rw [hbk]; exact a5
  · rw [hbk]; exact a6
  · rw [hbk]
    have : ((t.block c b).setThread n x).thread m = (t.block c b).thread m := by
      simp [Block.setThread, Block.thread, FMap.get_put, hm]
    exact this.trans (a7 m hm)
  · rw [hbk]
    have : ((t.block c b).setThread n x).thread n = x := by simp [Block.setThread, Block.thread]
    rw [this]; exact h1
  · rw [hbk]
    have : ((t.block c b).setThread n x).thread n = x := by simp [Block.setThread, Block.thread]
    rw [this]; exact h2

/-- Everything is kept when nothing is changed. -/
theorem State.keptBut_refl (s : State) : s.keptBut s := by
  unfold State.keptBut
  refine ⟨rfl, fun _ _ => ⟨rfl, fun _ => rfl⟩, rfl, fun _ _ => rfl, rfl, ?_⟩
  cases s.cur with
  | split g sid => exact ⟨fun _ => rfl, fun _ _ => rfl, rfl, fun _ _ => rfl, rfl, rfl, rfl, rfl⟩
  | thread c b n => exact ⟨fun _ => rfl, fun _ _ => rfl, rfl, rfl, rfl, rfl, rfl⟩
  | nobody => trivial

/-- The core's account of issues is no part of what an issuer keeps. -/
theorem State.keptBut_note {s t : State} (h : s.keptBut t) {x : Core} (hx : { x with last := (t.core s.cur.core).last, feedLast := (t.core s.cur.core).feedLast } = t.core s.cur.core)
    (n : Nat) : s.keptBut { t.setCore s.cur.core x with issues := n } := by
  have hact : x.act = (t.core s.cur.core).act := by
    have := congrArg Core.act hx; exact this
  have hcore : ({ t.setCore s.cur.core x with issues := n }).core s.cur.core = x := by simp [State.core, State.setCore]
  have hne : ∀ k, k ≠ s.cur.core → ({ t.setCore s.cur.core x with issues := n }).core k = t.core k := by
    intro k hk; simp [State.core, State.setCore, FMap.get_put, hk]
  have hblk : ∀ b, ({ t.setCore s.cur.core x with issues := n }).block s.cur.core b = t.block s.cur.core b := by
    intro b; unfold State.block; rw [hcore]; unfold Core.block; rw [hact]
  have hgrp : ∀ g sid, s.cur = .split g sid → ({ t.setCore s.cur.core x with issues := n }).group g = t.group g := by
    intro g sid hc
    have := hblk g.block
    unfold State.group
    rw [hc] at this
    rw [hc]
    exact congrArg (fun b => Block.group b g.ix) this
  unfold State.keptBut at h ⊢
  obtain ⟨a1, a2, a3, a4, a5, a6⟩ := h
  refine ⟨a1, fun k hk => ?_, ?_, fun b hb => ?_, ?_, ?_⟩
  · refine ⟨by rw [hne k hk]; exact (a2 k hk).1, fun b => ?_⟩
    have := (a2 k hk).2 b
    unfold State.block at *
    rw [hne k hk]; exact this
  · rw [hcore, ← a3, ← hx]
  · rw [hblk]; exact a4 b hb
  · unfold State.blk at *; rw [hblk]; exact a5
  · unfold State.blk at *; rw [hblk]
    cases hc : s.cur with
    | split g sid =>
      rw [hc] at a6
      have := hgrp g sid hc
      rw [hc] at this
      simp only at a6 ⊢
      rw [this]; exact a6
    | thread c b m => rw [hc] at a6; exact a6
    | nobody => trivial

/-- The turn of an issuer, as it begins, keeps what an issuer keeps. -/
theorem State.keptBut_entered (s : State) (sh : Shape) : s.keptBut (s.entered s.cur sh) := by
  unfold State.entered
  cases hc : s.cur with
  | split g sid =>
    have hx : ∀ (p : Split) b l, ((s.group g).split sid).stays p →
        s.keptBut (s.setGroup g { (s.group g).setSplit sid p with b := b, last := l }) := fun p b l hp =>
      State.keptBut_setGroup hc s.keptBut_refl rfl (fun n hn => by simp [Group.split, Group.setSplit, FMap.get_put, hn])
        (by simp [Group.split, Group.setSplit]; exact hp)
    split_ifs
    · exact hx ((s.group g).split sid).taken (s.group g).b (s.group g).last ⟨rfl, rfl, rfl, rfl⟩
    · unfold State.issuing
      simp only
      have h2 := fun x hx' => State.keptBut_note (hx (s.issuingSplit g sid sh)
          (if (s.group g).last = some sid then (s.group g).b else noLatches) (some sid) ⟨rfl, rfl, rfl, rfl⟩) (x := x) hx' (s.issues + 1)
      rw [hc] at h2
      exact h2 _ rfl
  | thread c b n =>
    have h1 := State.keptBut_setThread hc s.keptBut_refl (x := { (s.block c b).thread n with sp := ((s.block c b).thread n).sp.taken }) rfl
      ⟨rfl, rfl, rfl, rfl⟩
    split_ifs
    · exact h1
    · unfold State.issuing
      simp only
      have h2 := fun x hx => State.keptBut_note h1 (x := x) hx (s.issues + 1)
      rw [hc] at h2
      exact h2 _ rfl
  | nobody => split_ifs <;> exact s.keptBut_refl

/-- Writing registers and latches ends an instruction with exactly these, at the address after it, and keeps the rest. -/
theorem State.wrote_put {s : State} {i : Instr} (h : s.mayIssue i) (rf : RegFile) (b : Vector Row 4)
    (hb : (∃ c bl t, s.cur = .thread c bl t) → b = noLatches) : s.wrote rf b s.gens ((s.issued i).put rf b) := by
  have hh := h.1
  have hf := State.issued_fall (i := i) hh
  have hk := s.keptBut_entered (shapeOf i)
  rw [← State.issued_s] at hk
  unfold Iss.put
  cases hc : s.cur with
  | split g sid =>
    have hw : (s.issued i).who = .split g sid := hc
    rw [hw]
    simp only [hf]
    obtain ⟨p, l, hp, hpc, hg⟩ := State.group_entered hc (shapeOf i)
    rw [← State.issued_s] at hg
    have hgens : s.gens = ((s.issued i).s.group g).gen := by unfold State.gens State.groupOf; rw [hc, hg]; rfl
    refine ⟨?_, ?_, ?_, ?_, State.keptBut_setGroup hc hk ?_ (fun n hn => ?_) ?_⟩
    · simp only [hc, State.rf, State.group_setGroup_same]
    · simp only [hc, State.latches, State.group_setGroup_same]
    · rw [hgens]
      unfold State.gens
      simp only [State.groupOf, State.setGroup_cur, hc, State.issued_s, State.entered_cur, State.group_setGroup_same]; rfl
    · simp only [hc, State.sp, State.group_setGroup_same]; simp [Group.split, Group.setSplit]
    · rw [hg]; rfl
    · rw [hg]; simp [Group.split, Group.setSplit, FMap.get_put, hn]
    · rw [hg]; simp only [Group.split, Group.setSplit, FMap.get_put_same]; exact hp
  | thread c bl t =>
    have hw : (s.issued i).who = .thread c bl t := hc
    have hb' : b = noLatches := hb ⟨c, bl, t, hc⟩
    rw [hw]
    simp only [hf]
    have hbl := State.block_entered hc (shapeOf i)
    rw [← State.issued_s] at hbl
    have hth : ((s.issued i).s.block c bl).thread t = { (s.block c bl).thread t with sp := ((s.block c bl).thread t).sp.taken } := by
      rw [hbl]; simp [Block.setThread, Block.thread]
    have hgr : ∀ n, ((s.issued i).s.block c bl).group n = (s.block c bl).group n := by
      intro n; rw [hbl]; rfl
    refine ⟨?_, ?_, ?_, ?_, State.keptBut_setThread hc hk ?_ ?_⟩
    · simp [hc, State.rf, State.setBlock, State.setCore, State.block, State.core, Core.setBlock, Core.block, Block.setThread, Block.thread]
    · simp only [hc, State.latches]; exact hb'.symm
    · unfold State.gens
      simp only [State.groupOf, State.setBlock_cur, State.issued_s, State.entered_cur, hc]
      have e1 : ∀ x : Thread, (((s.issued i).s.setBlock c bl (((s.issued i).s.block c bl).setThread t x)).block c bl) = ((s.issued i).s.block c bl).setThread t x := by
        intro x; simp
      rw [← hc, ← State.issued_s]
      unfold State.group
      simp only [e1]
      have e2 : ∀ x : Thread, ((((s.issued i).s.block c bl).setThread t x)).thread t = x := by intro x; simp [Block.setThread, Block.thread]
      simp only [e2, hth]
      show ((((s.issued i).s.block c bl).setThread t _).group _).gen = _
      have e3 : ∀ (x : Thread) n, (((s.issued i).s.block c bl).setThread t x).group n = ((s.issued i).s.block c bl).group n := fun _ _ => rfl
      rw [e3, hgr]
    · simp [hc, State.sp, State.setBlock, State.setCore, State.block, State.core, Core.setBlock, Core.block, Block.setThread, Block.thread]
    · rw [hth]
    · rw [hth]; exact ⟨rfl, rfl, rfl, rfl⟩
  | nobody => simp [State.hasIssuer, State.lives, hc] at hh

/-- A feed thread writes no latch. -/
theorem Iss.put_thread {c : Iss} {k bl t : Nat} (h : c.who = .thread k bl t) (rf : RegFile) (b b' : Vector Row 4) :
    c.put rf b = c.put rf b' := by unfold Iss.put; rw [h]

/-- The latch shift of an instruction in hand, for a split. -/
theorem State.issued_shift {s : State} {i : Instr} {g : GroupAt} {sid : Nat} (hh : s.hasIssuer = true) (hc : s.cur = .split g sid)
    (v : Nat → Word) : (s.issued i).shift v = s.shifted i v := by
  have hb : (s.issued i).b = s.readLatches := State.issued_b
  have ha : (s.issued i).active = s.activeFor i := State.issued_active hh
  unfold State.shifted
  simp only [hc]
  generalize s.issued i = c at ha hb ⊢
  unfold Iss.shift
  simp only [ha, hb]

/-- Registers with a latch shift: what the shared result operations leave. -/
theorem State.wrote_shift {s : State} {i : Instr} (h : s.mayIssue i) (rf : RegFile) (v : Nat → Word) :
    s.wrote rf (s.shifted i v) s.gens ((s.issued i).put rf ((s.issued i).shift v)) := by
  cases hc : s.cur with
  | split g sid =>
    rw [State.issued_shift h.1 hc]
    exact State.wrote_put h _ _ (by rintro ⟨_, _, _, hh⟩; rw [hc] at hh; cases hh)
  | thread c b t =>
    have hw : (s.issued i).who = .thread c b t := hc
    rw [Iss.put_thread hw _ _ (s.shifted i v)]
    exact State.wrote_put h _ _ (fun _ => by unfold State.shifted; rw [hc])
  | nobody => have := h.1; simp [State.hasIssuer, State.lives, hc] at this

/-- A 32-bit result (R182). -/
theorem State.wrote_result {s : State} {i : Instr} (h : s.mayIssue i) (nw : Bool) (d : BitVec 7) (v : Nat → Word) :
    s.wrote (if nw then s.rf s.cur else (s.rf s.cur).write d (s.activeFor i) v) (s.shifted i v) s.gens
      ((s.issued i).result nw d v) := by
  unfold Iss.result
  rw [State.issued_rf h.1, State.issued_active h.1]
  exact State.wrote_shift h _ _

/-- A 64-bit result (R182). -/
theorem State.wrote_result64 {s : State} {i : Instr} (h : s.mayIssue i) (nw : Bool) (d : BitVec 7) (v : Nat → DWord) :
    s.wrote (if nw then s.rf s.cur else (s.rf s.cur).writePair d (s.activeFor i) v) (s.shifted i fun l => (v l).setWidth 32)
      s.gens ((s.issued i).result64 nw d v) := by
  unfold Iss.result64
  rw [State.issued_rf h.1, State.issued_active h.1]
  exact State.wrote_shift h _ _

/-- A predicate result (R182). -/
theorem State.wrote_resultPred {s : State} {i : Instr} (h : s.mayIssue i) (nw : Bool) (d : BitVec 7) (v : Mask) :
    s.wrote (if nw then s.rf s.cur else (s.rf s.cur).writePred (d.setWidth 3) (s.activeFor i) v)
      (s.shifted i fun l => if v.getLsbD l then 1 else 0) s.gens ((s.issued i).resultPred nw d v) := by
  unfold Iss.resultPred
  rw [State.issued_rf h.1, State.issued_active h.1]
  exact State.wrote_shift h _ _

/-- Operand a of the instruction in hand. -/
theorem State.issued_opA {s : State} {i : Instr} (h : s.hasIssuer = true) (w : RWord) (l : Nat) : (s.issued i).opA w l = s.valA w l := by
  have hb : (s.issued i).b = s.readLatches := State.issued_b
  have hr : (s.issued i).rf = s.rf s.cur := State.issued_rf h
  generalize s.issued i = c at hb hr ⊢
  unfold Iss.opA State.valA
  simp only [hr, hb]

/-- Operand b of the instruction in hand. -/
theorem State.issued_opB {s : State} {i : Instr} (h : s.hasIssuer = true) (w : RWord) (l : Nat) : (s.issued i).opB w l = s.valB w l := by
  have hb : (s.issued i).b = s.readLatches := State.issued_b
  have hr : (s.issued i).rf = s.rf s.cur := State.issued_rf h
  generalize s.issued i = c at hb hr ⊢
  unfold Iss.opB State.valB
  simp only [hr, hb]

end Sys2Proof.Machine
end

