-- ==== Sys2Proof/Laws/Ops.lean ====
section
/-! SUPPORT. What the shared operations can do, each said once: waiting, halting, trap entry, the checks of an access, sending
requests, and Sorrel with nothing parked. -/

namespace Sys2Proof

variable {α : Type}

/-- Reading a map whose values are changed one by one, where the change leaves the default as it is. -/
theorem FMap.get_map (d : α) (m : FMap α) (f : Nat → α → α) (h : ∀ n, f n d = d) (j : Nat) :
    FMap.get d (m.map fun e => (e.1, f e.1 e.2)) j = f j (FMap.get d m j) := by
  induction m with
  | nil => simp [FMap.get, h]
  | cons e m ih =>
    obtain ⟨k, u⟩ := e
    simp only [List.map_cons, FMap.get, ih]
    split_ifs with hk
    · rw [hk]
    · rfl

/-- A key that is listed anew makes no difference among the entries of other keys. -/
theorem FMap.filter_put_ne (m : FMap α) (j : Nat) (v : α) (f : Nat × α → Bool) :
    (m.put j v).filter (fun e => (e.1 != j) && f e) = m.filter fun e => (e.1 != j) && f e := by
  induction m with
  | nil => simp [FMap.put]
  | cons e m ih =>
    obtain ⟨k, u⟩ := e
    unfold FMap.put
    split_ifs with h1 h2
    · simp
    · subst h2; simp
    · simp only [List.filter_cons, ih]

end Sys2Proof

namespace Sys2Proof.Machine

/-- Read after write of a group. -/
theorem State.group_setGroup (s : State) (g h : GroupAt) (x : Group) : (s.setGroup g x).group h = if g = h then x else s.group h := by
  obtain ⟨c, b, i⟩ := g
  obtain ⟨d, e, j⟩ := h
  unfold State.setGroup State.group
  rw [State.block_setBlock]
  by_cases h1 : d = c ∧ e = b
  · obtain ⟨rfl, rfl⟩ := h1
    rw [if_pos ⟨rfl, rfl⟩, Block.group_setGroup]
    by_cases h2 : j = i
    · subst h2; simp
    · simp [h2, Ne.symm h2]
  · rw [if_neg h1, if_neg]
    rintro h
    simp only [GroupAt.mk.injEq] at h
    exact h1 ⟨h.1.symm, h.2.1.symm⟩

/-- A halt asks every core that holds a block of the context to pre-empt it, and asks nothing else. -/
theorem State.core_requestPreempt (s : State) (ctx c : Nat) :
    (s.requestPreempt ctx).core c =
      if (s.core c).holds ctx && !(s.core c).preempt.contains ctx then { s.core c with preempt := (s.core c).preempt ++ [ctx] }
      else s.core c := by
  unfold State.requestPreempt State.core
  exact FMap.get_map _ s.cores (fun _ x => if x.holds ctx && !x.preempt.contains ctx then { x with preempt := x.preempt ++ [ctx] } else x)
    (fun _ => rfl) c

/-- The value that a halt gives CTXERR (R307). -/
theorem State.ctx_halt (s : State) (ctx core slot cause n : Nat) :
    let e : Word := ((s.ctx ctx).ctxerr &&& 0x80000000) ||| 0x40000000 ||| BitVec.ofNat 32 (slot % 32 * 2 ^ 25) |||
      BitVec.ofNat 32 (core % 512 * 2 ^ 16) ||| BitVec.ofNat 32 (cause % 16)
    (s.halt ctx core slot cause).ctx n = if n = ctx then { s.ctx ctx with ctxerr := e } else s.ctx n :=
  FMap.get_put _ s.ctxs n ctx _

/-- The halt of a context (R307) does what `State.halted` says and nothing else. -/
theorem State.halt_halted (s : State) (ctx core slot cause : Nat) : s.halted ctx core slot cause (s.halt ctx core slot cause) := by
  refine ⟨?_, ?_, ?_, rfl, rfl, ?_⟩
  · rw [State.ctx_halt, if_pos rfl]
  · rw [State.ctx_halt, if_pos rfl]
  · intro n hn; rw [State.ctx_halt, if_neg hn]
  · intro c
    have hc : (s.halt ctx core slot cause).core c =
        if (s.core c).holds ctx && !(s.core c).preempt.contains ctx then { s.core c with preempt := (s.core c).preempt ++ [ctx] }
        else s.core c := State.core_requestPreempt _ ctx c
    rw [hc]
    split_ifs with h
    · refine ⟨rfl, fun _ => by simp, fun n hn => by simp [hn]⟩
    · refine ⟨rfl, fun hh => ?_, fun n _ => Iff.rfl⟩
      simpa [hh] using h

/-- Waiting (R49, R204): the issuer records why it waits and its turn is used; nothing else changes. -/
theorem State.await_eq (s : State) (w : Wait) :
    s.await w = .next (s.setSp s.cur { s.sp s.cur with wait := some w, tried := true }) := rfl

/-- Taking a trap ends in one of three ways (R303, R304, R307, R334): the split waits for the handler, the context halts, or the
split enters the handler; in the last two its instruction has issued (R189). -/
theorem State.trap_cases (s : State) (cause : Nat) (info : Word) (lanes : Mask) (ret : DWord) :
    (∃ g sid, s.cur = .split g sid ∧ ((s.group g).split sid).depth = 0 ∧ (s.group g).othersInHandler sid = true ∧
      s.trap cause info lanes ret = s.await .handler) ∨
    (∃ t, (t = s ∨ ∃ g sid, s.cur = .split g sid ∧ t = s.trapping g sid) ∧ s.trap cause info lanes ret = .next (t.haltCur cause)) ∨
    ∃ g sid, s.cur = .split g sid ∧ s.canTrap g sid ∧ s.trap cause info lanes ret =
      .next ((s.trapping g sid).setGroup g
        (((s.trapping g sid).group g).enterTrap sid cause info lanes ret (s.ctx (s.block g.core g.block).ctx).handler)) := by
  unfold State.trap
  split
  · rename_i g sid hc
    by_cases h1 : ((s.group g).split sid).depth = 0 ∧ (s.group g).othersInHandler sid = true
    · exact .inl ⟨g, sid, hc, h1.1, h1.2, by simp only [h1, and_self, if_true]⟩
    · by_cases h2 : 16 ≤ (s.group g).stack.length ∨ (s.ctx (s.block g.core g.block).ctx).handler = 0
      · exact .inr (.inl ⟨_, .inr ⟨g, sid, hc, rfl⟩, by simp only [h1, h2, if_false, if_true]⟩)
      · refine .inr (.inr ⟨g, sid, hc, ⟨fun hd => ?_, by omega, fun hz => h2 (.inr hz)⟩, by simp only [h1, h2, if_false]⟩)
        simpa using fun ho => h1 ⟨hd, ho⟩
  · exact .inr (.inl ⟨s, .inl rfl, rfl⟩)

/-- A split that may trap enters the handler (R303). -/
theorem State.trap_of_canTrap {s : State} {g : GroupAt} {sid : Nat} (hc : s.cur = .split g sid) (h : s.canTrap g sid)
    (cause : Nat) (info : Word) (lanes : Mask) (ret : DWord) :
    s.trap cause info lanes ret = .next ((s.trapping g sid).setGroup g
      (((s.trapping g sid).group g).enterTrap sid cause info lanes ret (s.ctx (s.block g.core g.block).ctx).handler)) := by
  obtain ⟨h1, h2, h3⟩ := h
  unfold State.trap
  simp only [hc]
  rw [if_neg (by rintro ⟨a, b⟩; simp [h1 a] at b), if_neg (by rintro (a | a); omega; exact h3 a)]

/-- The checks of an access stop it in one of three ways, or it goes on (R60, R104, R301, R302): the bounds trap, a scratchpad that is
away, accesses that go before its scratchpad lanes, or none of them. -/
theorem Iss.checked_cases (c : Iss) (s : State) (k : BitVec 5) (rel : Bool) (ts : Targets) (go : Answer) (cls : Nat) (scope : BitVec 2) :
    c.checked s k rel ts go cls scope = s.trap 2 (k.setWidth 32) (ts.mask (· == .bounds)) c.pc ∨
    c.checked s k rel ts go cls scope = c.unready s .operand ∨
    c.checked s k rel ts go cls scope = s.await .operand ∨
    ((∀ t ∈ ts, t.2 ≠ .bounds ∧ t.2 ≠ .away) ∧ c.checked s k rel ts go cls scope = go) := by
  unfold Iss.checked
  by_cases h1 : (ts.any fun t => t.2 == .bounds) = true
  · exact .inl (by rw [if_pos h1])
  rw [if_neg h1]
  by_cases h2 : (ts.any fun t => t.2 == .away) = true
  · exact .inr (.inl (by rw [if_pos h2]))
  rw [if_neg h2]
  have hb : ∀ t ∈ ts, t.2 ≠ .bounds ∧ t.2 ≠ .away := by
    simp only [List.any_eq_true, beq_iff_eq, not_exists, not_and] at h1 h2
    exact fun t ht => ⟨h1 t ht, h2 t ht⟩
  split_ifs
  · exact .inr (.inr (.inl rfl))
  · exact .inr (.inr (.inr ⟨hb, rfl⟩))

/-- The beginning of a turn changes the cores and the count of issues only. -/
theorem State.entered_frame (s : State) (w : Who) (sh : Shape) :
    { s.entered w sh with cores := s.cores, issues := s.issues } = s := by
  unfold State.entered
  split_ifs
  · cases w <;> rfl
  · cases w <;> rfl

/-- The accesses in which the other splits of a group wait do not change as a turn begins (R102). -/
theorem State.waiters_entered (s : State) (v : Who) (sh : Shape) (p : Party) : (s.entered v sh).waiters p v = s.waiters p v := by
  cases v with
  | nobody => unfold State.entered; split_ifs <;> rfl
  | thread c b t =>
    have h : ∀ x y i, ((s.entered (.thread c b t) sh).block x y).group i = (s.block x y).group i := by
      intro x y i
      have h1 : ∀ (th : Thread), ((s.setBlock c b ((s.block c b).setThread t th)).block x y).group i = (s.block x y).group i := by
        intro th
        rw [State.block_setBlock]
        split_ifs with h
        · obtain ⟨rfl, rfl⟩ := h; rfl
        · rfl
      unfold State.entered
      split_ifs
      · exact h1 _
      · refine Eq.trans ?_ (h1 { (s.block c b).thread t with sp := (s.sp (.thread c b t)).taken })
        unfold State.issuing State.block
        simp only [State.core, State.setCore, FMap.get_put]
        split_ifs with hx
        · subst hx; rfl
        · rfl
    unfold State.waiters
    cases p <;> simp only [h]
  | split g sid =>
    have h : ∀ x y i, ((s.entered (.split g sid) sh).block x y).group i = (s.block x y).group i ∨
        (g = ⟨x, y, i⟩ ∧ ∃ u, (((s.entered (.split g sid) sh).block x y).group i).splits = ((s.block x y).group i).splits.put sid u) := by
      intro x y i
      have h1 : ∀ gr, ((s.setGroup g gr).block x y).group i = if g = ⟨x, y, i⟩ then gr else (s.block x y).group i := by
        intro gr
        obtain ⟨c, b, k⟩ := g
        exact State.group_setGroup s ⟨c, b, k⟩ ⟨x, y, i⟩ gr
      unfold State.entered
      split_ifs
      · show ((s.setGroup g _).block x y).group i = _ ∨ _ ∧ ∃ u, (((s.setGroup g _).block x y).group i).splits = _
        rw [h1]
        split_ifs with hg
        · subst hg; exact .inr ⟨rfl, _, rfl⟩
        · exact .inl rfl
      · have h2 : ∀ (t : State) (z : Core), z.act = (t.core g.core).act → ((t.setCore g.core z).block x y).group i = (t.block x y).group i := by
          intro t z hz
          unfold State.block
          rw [State.core_setCore]
          split_ifs with hx
          · subst hx; unfold Core.block; rw [hz]
          · rfl
        have h3 : ((s.issuing (.split g sid) sh).block x y).group i = ((s.setGroup g { (s.group g).setSplit sid (s.issuingSplit g sid sh) with
            b := if (s.group g).last = some sid then (s.group g).b else noLatches, last := some sid }).block x y).group i := h2 _ _ rfl
        rw [h3, h1]
        by_cases hg : g = ⟨x, y, i⟩
        · rw [if_pos hg]; subst hg; exact .inr ⟨rfl, _, rfl⟩
        · rw [if_neg hg]; exact .inl rfl
    unfold State.waiters
    cases p with
    | group x y i =>
      simp only
      obtain h | ⟨hg, u, h⟩ := h x y i
      · rw [h]
      · subst hg
        unfold Group.liveSplits
        rw [h, List.filter_filter, List.filter_filter]
        have hq : (fun e : Nat × Split => (Who.split ⟨x, y, i⟩ sid != .split ⟨x, y, i⟩ e.1) && e.2.live) = fun e => (e.1 != sid) && e.2.live := by
          funext e
          have : (Who.split ⟨x, y, i⟩ sid != .split ⟨x, y, i⟩ e.1) = (e.1 != sid) := by
            rw [Bool.eq_iff_iff, bne_iff_ne, bne_iff_ne]
            exact not_congr ⟨fun h => (Who.split.inj h).2.symm, fun h => h ▸ rfl⟩
          rw [this]
        rw [hq, FMap.filter_put_ne]
    | _ => rfl

/-- What is owed before an instruction does not change as its turn begins (R104). -/
theorem State.acquireOwed_entered (s : State) (w : Who) (sh : Shape) : (s.entered w sh).acquireOwed w = s.acquireOwed w := by
  unfold State.acquireOwed State.waiterOwed
  rw [State.waiters_entered]
  unfold State.entered
  split_ifs <;> cases w <;> rfl

/-- What is owed before an instruction does not change as its turn begins (R104, R108). -/
theorem State.clsOwed_entered (s : State) (w : Who) (sh : Shape) (cls n : Nat) :
    (s.entered w sh).clsOwed w cls n = s.clsOwed w cls n := by
  unfold State.clsOwed State.waiterOwed
  rw [State.waiters_entered]
  unfold State.entered
  split_ifs <;> cases w <;> rfl

/-- The atomics of an issuer that are yet to be performed do not change as its turn begins (R106). -/
theorem State.atomicOwed_entered (s : State) (w : Who) (sh : Shape) : (s.entered w sh).atomicOwed w = s.atomicOwed w := by
  unfold State.entered
  split_ifs <;> cases w <;> rfl

/-- No acquire holds the instruction in hand back (R104). -/
theorem State.issued_acquireOwed {s : State} (h : s.acquired) (i : Instr) : (s.issued i).acquireOwed = false := by
  unfold Iss.acquireOwed Iss.first
  rw [State.issued_s, State.issued_who, State.acquireOwed_entered, State.issued_at]
  rcases h with h | h
  · unfold State.resuming at h; simp [h]
  · simp [h]

/-- The number before which the accesses lie that the instruction in hand covers (R104, R108). -/
theorem State.issued_since (s : State) (i : Instr) : (s.issued i).since = s.covers := by
  have hn : (s.issued i).s.nextId = s.nextId := by
    have := congrArg State.nextId (s.entered_frame s.cur (shapeOf i))
    exact this
  unfold Iss.since State.covers
  rw [State.issued_at, hn]
  all_goals
    cases (s.sp s.cur).wait with
    | none => rfl
    | some w => cases w <;> rfl

/-- What the relaxed channels owe does not change as a turn begins (R18). -/
theorem State.relaxedOwed_entered (s : State) (v : Who) (sh : Shape) (p : Party) (n : Nat) :
    (s.entered v sh).relaxedOwed p n = s.relaxedOwed p n := by
  unfold State.relaxedOwed
  rw [show (s.entered v sh).ports = s.ports by unfold State.entered; split_ifs <;> cases v <;> rfl]

/-- What the instruction in hand covers (R104, R108). -/
theorem State.issued_clsOwed (s : State) (i : Instr) (cls : Nat) : (s.issued i).clsOwed cls = s.clsOwed s.cur cls s.covers := by
  unfold Iss.clsOwed
  rw [State.issued_since, State.issued_s, State.issued_who, State.clsOwed_entered]

/-- An instruction that waits for nothing, or is not ready, covers everything before it (R104). -/
theorem State.covers_first {s : State} (h : s.resuming s.cur = false) : s.covers = s.nextId := by
  unfold State.resuming at h
  unfold State.covers
  cases hw : (s.sp s.cur).wait with
  | none => rfl
  | some w => rw [hw] at h; cases w <;> simp_all [Wait.blocking]

/-- Nothing goes before the scratchpad lanes of the instruction in hand (R18, R104). -/
theorem State.issued_padsHeld {s : State} {rel : Bool} {scope : BitVec 2} {cls : Nat} (h : s.padsFree rel scope cls) (i : Instr) :
    (s.issued i).padsHeld rel cls scope = false := by
  obtain ⟨h1, h2⟩ := h
  unfold Iss.padsHeld
  rw [State.issued_acquireOwed h1 i, Bool.false_or]
  cases rel with
  | false => simp
  | true =>
    by_cases hr : s.resuming s.cur = true
    · have : (s.issued i).first = false := by
        unfold Iss.first; rw [State.issued_at]; simpa [State.resuming] using hr
      simp [this]
    · have hr' : s.resuming s.cur = false := by simpa using hr
      obtain h3 | ⟨h3, h4⟩ := h2 rfl
      · exact absurd h3 hr
      · have hc := State.covers_first hr'
        have : (s.issued i).releaseOwed cls scope = false := by
          unfold Iss.releaseOwed
          rw [s.issued_clsOwed i cls, State.issued_since, State.issued_s, State.issued_who, State.relaxedOwed_entered, hc, h3]
          simpa using h4
        simp [this]

/-- An access that none of the checks stops goes on. -/
theorem State.checked_go {s : State} {k : BitVec 5} {rel : Bool} {scope : BitVec 2} {ts : Targets} {cls : Nat}
    (h : s.accessFree rel scope ts cls) (i : Instr) (go : Answer) : (s.issued i).checked s k rel ts go cls scope = go := by
  have h1 : (ts.any fun t => t.2 == .bounds) = false := by
    simpa using fun a b hm => (h.1 (a, b) hm).1
  have h2 : (ts.any fun t => t.2 == .away) = false := by
    simpa using fun a b hm => (h.1 (a, b) hm).2
  unfold Iss.checked
  rw [h1, h2]
  by_cases h3 : (ts.any fun t => t.2.isScratch) = true
  · simp [State.issued_padsHeld (h.2 (by simpa using h3)) i]
  · simp [h3]

/-- Sending requests changes the requests and the next number only. -/
theorem State.send_frame (s : State) (rs : List Req) : { s.send rs with reqs := s.reqs, nextId := s.nextId } = s := by
  unfold State.send
  induction rs generalizing s with
  | nil => rfl
  | cons r rs ih =>
    rw [List.foldl_cons]
    have h := ih { s with nextId := s.nextId + 1, reqs := s.reqs ++ [s.sent r] }
    exact congrArg (fun t : State => { t with reqs := s.reqs, nextId := s.nextId }) h

/-- Sending requests appends one for each, in order. -/
theorem State.send_reqs (s : State) (rs : List Req) : ∃ qs, (s.send rs).reqs = s.reqs ++ qs ∧
    qs.map (fun q => (q.kind, q.va, q.pieces, q.order, q.land, q.party)) = rs.map fun q => (q.kind, q.va, q.pieces, q.order, q.land, q.party) := by
  unfold State.send
  induction rs generalizing s with
  | nil => exact ⟨[], by simp⟩
  | cons r rs ih =>
    obtain ⟨qs, h1, h2⟩ := ih { s with nextId := s.nextId + 1, reqs := s.reqs ++ [s.sent r] }
    exact ⟨s.sent r :: qs, by rw [List.foldl_cons, h1]; simp, by simp only [List.map_cons, h2]; rfl⟩

/-- Sending requests takes one number for each. -/
theorem State.send_nextId (s : State) (rs : List Req) : (s.send rs).nextId = s.nextId + rs.length := by
  unfold State.send
  induction rs generalizing s with
  | nil => rfl
  | cons r rs ih => rw [List.foldl_cons, ih]; simp [Nat.add_assoc, Nat.add_comm 1]

/-- Writing a scratchpad target changes the cores only. -/
theorem State.put_frame (s : State) (t : Tgt) (bs : List Byte) : { s.put t bs with cores := s.cores } = s := by
  unfold State.put
  split <;> rfl

/-- With nothing parked, Sorrel has nothing to translate again: only the markers go (R280, R281). -/
theorem State.settle_nil {s : State} (h : s.parked = []) : { s.settle with markers := s.markers } = s := by
  unfold State.settle
  rw [h]
  rfl

/-- With nothing parked, a retry finds nothing. -/
theorem State.retryAll_nil {s : State} (h : s.parked = []) (f : ParkRec → Bool) : { s.retryAll f with markers := s.markers } = s := by
  have : s.retryAll f = s.settle := by unfold State.retryAll; rw [h]; rfl
  rw [this]; exact State.settle_nil h

/-- An instruction's answer is that of a stop of its beginning, or that of its meaning in hand (R49, R201). -/
theorem State.perform_eq (s : State) (i : Instr) (f : Iss → Answer) :
    s.perform i f = match s.begin i with
      | .stop o => o
      | .go c => f c := rfl

/-- A user interrupt that nothing asks for has no wait noted: the step is chosen in the state itself (R49, R309). -/
theorem State.noted_of_asked {s : State} (h : s.asked = []) (ex : Instr → State → Answer) : s.noted ex = s := by
  unfold State.noted
  rw [h]
  rfl

/-- While the turns of a cycle are lined up no wait is noted (R309). -/
theorem State.noted_of_lined {s : State} (h : s.lined = true) (ex : Instr → State → Answer) : s.noted ex = s :=
  State.noted_of_asked (by unfold State.asked; rw [if_pos h]) ex

/-- Giving up the held requests of an instruction changes the requests and the cores only. -/
theorem State.abandon_frame (s : State) (w : Who) (n : Nat) : { s.abandon w n with reqs := s.reqs, cores := s.cores } = s := by
  unfold State.abandon
  cases w <;> rfl

/-- Bytes on the package are written as they are, with no key (R25). -/
theorem State.writeFor_onPackage {s : State} {ws : List (Nat × Byte)} (h : ∀ w ∈ ws, Config.isCxl w.1 = false) (ctx : Nat) :
    s.writeFor ctx ws = { s with mem := s.mem.writeAll ws } := by
  have : (ws.filter fun w => Config.isCxl w.1) = [] := List.filter_eq_nil_iff.2 fun w hw => by simp [h w hw]
  unfold State.writeFor
  rw [this]
  rfl

/-- Bytes on the package are read as they are, with no key (R25). -/
theorem State.seenBy_onPackage (s : State) (ctx : Nat) {a : Nat} (h : Config.isCxl a = false) : s.seenBy ctx a = s.mem.read a := by
  unfold State.seenBy
  cases FMap.get none s.cipher (a / 16) <;> simp [h]

/-- Memory as a context reads it holds what the context reads (R25). -/
theorem State.memFor_read (s : State) (ctx a : Nat) : (s.memFor ctx).read a = s.seenBy ctx a := by
  have h : ∀ (l : FMap (Option (BitVec 512))) (m : Memory),
      (l.foldl (fun m e => m.writeAll (at_ (16 * e.1) (s.seenBytes ctx (16 * e.1) 16))) m).read a =
        if a / 16 ∈ l.map (·.1) then s.seenBy ctx a else m.read a := by
    intro l
    induction l with
    | nil => intro m; simp
    | cons e l ih =>
      intro m
      rw [List.foldl_cons, ih]
      unfold State.seenBytes
      rw [Memory.read_writeAll_at]
      by_cases h1 : a / 16 ∈ l.map (·.1)
      · simp [h1]
      · by_cases h2 : a / 16 = e.1
        · rw [if_neg h1, if_pos (by omega), if_pos (by simp [h2]), show 16 * e.1 + (a - 16 * e.1) = a by omega]
        · rw [if_neg h1, if_neg (by omega), if_neg (by simp only [List.map_cons, List.mem_cons, not_or]; exact ⟨h2, h1⟩)]
  have hn : ∀ l : FMap (Option (BitVec 512)), a / 16 ∉ l.map (·.1) → FMap.get none l (a / 16) = none := by
    intro l
    induction l with
    | nil => intro _; rfl
    | cons e l ih =>
      intro hl
      simp only [List.map_cons, List.mem_cons, not_or] at hl
      obtain ⟨k, u⟩ := e
      rw [FMap.get, if_neg hl.1]
      exact ih hl.2
  unfold State.memFor
  rw [h]
  split_ifs with h1
  · rfl
  · unfold State.seenBy
    rw [hn _ h1]

/-- Writes of a context are what the statements of stores say (R25, R206). -/
theorem State.writeFor_wroteFor (s : State) (ctx pa : Nat) (bs : List (Nat × Byte)) :
    s.wroteFor ctx pa bs (s.writeFor ctx (bs.map fun (i, b) => (pa + i, b))) := by
  let ws := bs.map fun e : Nat × Byte => (pa + e.1, e.2)
  let ks := distinct ((ws.filter fun w => Config.isCxl w.1).map fun w => w.1 / 16)
  have hk : ∀ n, n ∈ ks ↔ ∃ e ∈ bs, Config.isCxl (pa + e.1) = true ∧ (pa + e.1) / 16 = n := by
    intro n
    rw [show ks = _ from rfl, mem_distinct]
    simp only [ws, List.mem_map, List.mem_filter]
    constructor
    · rintro ⟨w, ⟨⟨e, he, rfl⟩, hc⟩, rfl⟩
      exact ⟨e, he, hc, rfl⟩
    · rintro ⟨e, he, hc, rfl⟩
      exact ⟨_, ⟨⟨e, he, rfl⟩, hc⟩, rfl⟩
  let blocks (m : Memory) (l : List Nat) : Memory :=
    l.foldl (fun m b => m.writeAll (at_ (16 * b) (s.seenBytes ctx (16 * b) 16))) m
  have hb : ∀ (l : List Nat) (m : Memory) a, (blocks m l).read a = if a / 16 ∈ l then s.seenBy ctx a else m.read a := by
    intro l
    induction l with
    | nil => intro m a; simp [blocks]
    | cons k l ih =>
      intro m a
      show (blocks _ l).read a = _
      rw [ih]
      unfold State.seenBytes
      rw [Memory.read_writeAll_at]
      by_cases h1 : a / 16 ∈ l
      · simp [h1]
      · by_cases h2 : a / 16 = k
        · rw [if_neg h1, if_pos (by omega), if_pos (by simp [h2]), show 16 * k + (a - 16 * k) = a by omega]
        · rw [if_neg h1, if_neg (by omega), if_neg (by simp [h1, h2])]
  have hc : ∀ (l : List Nat) (c : FMap (Option (BitVec 512))) n,
      FMap.get none (l.foldl (fun c b => FMap.set none c b (some (s.ctxKey ctx))) c) n = if n ∈ l then some (s.ctxKey ctx) else FMap.get none c n := by
    intro l
    induction l with
    | nil => intro c n; simp
    | cons k l ih =>
      intro c n
      rw [List.foldl_cons, ih, FMap.get_set]
      by_cases h1 : n ∈ l <;> by_cases h2 : n = k <;> simp [h1, h2]
  let t := s.writeFor ctx ws
  have ht : ∀ a, t.mem.read a = ((blocks s.mem ks).writeAll ws).read a := fun _ => rfl
  have hci : ∀ n, FMap.get none t.cipher n = if n ∈ ks then some (s.ctxKey ctx) else FMap.get none s.cipher n := fun n => hc ks s.cipher n
  have hkey : t.ctxKey ctx = s.ctxKey ctx := rfl
  have off : ∀ a, (∀ e ∈ bs, a ≠ pa + e.1) → t.mem.read a = if a / 16 ∈ ks then s.seenBy ctx a else s.mem.read a := by
    intro a ha
    rw [ht, Memory.read_writeAll_of_not_mem, hb]
    intro e he
    obtain ⟨x, hx, rfl⟩ := List.mem_map.1 he
    exact fun h => ha x hx h.symm
  have seen : ∀ a, a / 16 ∈ ks ∨ Config.isCxl a = false → t.seenBy ctx a = t.mem.read a := by
    intro a ha
    rcases ha with ha | ha
    · unfold State.seenBy
      rw [hci, if_pos ha]
      simp [hkey]
    · exact State.seenBy_onPackage t ctx ha
  refine ⟨fun e he hu => ?_, fun a ha => ⟨fun h => ?_, fun h => ?_, fun n => ?_⟩⟩
  · show t.seenBy ctx (pa + e.1) = e.2
    rw [seen, ht]
    · exact Memory.read_writeAll_of_mem (e := (pa + e.1, e.2)) (List.mem_map.2 ⟨e, he, rfl⟩) (by
        intro x hx hxe
        obtain ⟨y, hy, rfl⟩ := List.mem_map.1 hx
        simp only at hxe
        rw [hu y hy (by omega)])
    · cases h : Config.isCxl (pa + e.1)
      · exact .inr rfl
      · exact .inl ((hk _).2 ⟨e, he, h, rfl⟩)
  · show t.mem.read a = _
    rw [off a ha]
    split
    · rename_i h1
      obtain ⟨e, he, hx, hd⟩ := (hk _).1 h1
      rcases h with h | h
      · exact State.seenBy_onPackage s ctx h
      · exact absurd hd (h e he)
    · rfl
  · show t.seenBy ctx a = _
    by_cases h1 : a / 16 ∈ ks
    · rw [seen a (.inl h1), off a ha, if_pos h1]
    · have no : ∀ e ∈ bs, (pa + e.1) / 16 ≠ a / 16 := fun e he hd => h1 ((hk _).2 ⟨e, he, h e he hd, hd⟩)
      have same : ∀ y, y / 16 = a / 16 → t.mem.read y = s.mem.read y := by
        intro y hy
        rw [off y (fun e he hye => no e he (by rw [← hye, hy])), if_neg (by rw [hy]; exact h1)]
      have r16 : t.mem.readN (a / 16 * 16) 16 = s.mem.readN (a / 16 * 16) 16 := by
        unfold Memory.readN
        refine List.map_congr_left fun i hi => same _ ?_
        have := List.mem_range.1 hi
        omega
      unfold State.seenBy
      rw [hci, if_neg h1, r16, same a rfl, hkey]
  · show FMap.get none t.cipher n = _
    rw [hci]
    by_cases h1 : n ∈ ks
    · rw [if_pos h1, if_pos]
      obtain ⟨e, he, hx, hd⟩ := (hk _).1 h1
      exact List.any_eq_true.2 ⟨e, he, by simp [hx, hd]⟩
    · rw [if_neg h1, if_neg]
      intro h2
      obtain ⟨e, he, hx⟩ := List.any_eq_true.1 h2
      rw [Bool.and_eq_true, beq_iff_eq] at hx
      exact h1 ((hk _).2 ⟨e, he, hx.1, hx.2⟩)
/-- Read after write of a control and status register of a hart. -/
theorem Hart.reg_setReg (h : Hart) (n m : Nat) (v : DWord) : (h.setReg n v).reg m = if m = n then v else h.reg m := FMap.get_set _ h.csr m n v

/-- A write of an integer register of a hart: x0 takes nothing, and everything else is kept (R14). -/
theorem Hart.setX_frame (h : Hart) (rd : Nat) (v : DWord) : { h.setX rd v with x := h.x } = h ∧ (rd ≠ 0 → rd < 32 → (h.setX rd v).xr rd = v) ∧
    ∀ k, k ≠ rd → (h.setX rd v).xr k = h.xr k := by
  unfold Hart.setX
  split
  · exact ⟨rfl, fun _ _ => by omega, fun _ _ => rfl⟩
  · exact ⟨rfl, fun a _ => by simp [Hart.xr, FMap.get_set, a], fun k hk => by simp [Hart.xr, FMap.get_set, hk]⟩

/-- A hart's exception changes that hart and nothing else (R342). -/
theorem State.hartFault_eq (s : State) (core code : Nat) (tval : DWord) :
    { s.hartFault core code tval with cores := s.cores } = s ∧
    (s.hartFault core code tval).core core = { s.core core with hart := (s.hart core).trap false code tval } := by
  refine ⟨rfl, ?_⟩
  unfold State.hartFault State.setHart
  rw [State.core_setCore, if_pos rfl]

/-- A hart that takes an exception in machine mode, or that has not delegated it, writes mepc, mcause and mtval, saves its mode and goes to
the machine trap vector (R342; assumption log 9). -/
theorem Hart.trap_eq_trapM (h : Hart) (irq : Bool) (code : Nat) (tval : DWord)
    (hm : h.mode = .m ∨ (h.reg (if irq then 0x303 else 0x302)).getLsbD code = false) : h.trap irq code tval = h.trapM irq code tval := by
  unfold Hart.trap
  rw [if_neg]
  rintro ⟨h1, h2⟩
  rcases hm with hm | hm
  · exact h1 hm
  · rw [hm] at h2; cases h2

/-- Putting a group changes that group and nothing else. -/
theorem State.onlyGroup_setGroup (s : State) (g : GroupAt) (x : Group) : s.onlyGroup g (s.setGroup g x) := by
  refine ⟨rfl, ?_, ?_, ?_, ?_⟩
  · intro c b h
    unfold State.setGroup
    rw [State.block_setBlock, if_neg h]
  · intro c
    unfold State.setGroup State.setBlock
    rw [State.core_setCore]
    split_ifs with h
    · subst h; rfl
    · rfl
  · unfold State.setGroup
    rw [State.block_setBlock_same]
    rfl
  · intro n h
    unfold State.setGroup
    rw [State.block_setBlock_same, Block.group_setGroup, if_neg h]

/-- Trap entry (R303) does what `State.entersTrap` says and nothing else. -/
theorem State.entersTrap_enterTrap (s : State) (g : GroupAt) (sid cause : Nat) (info : Word) (lanes : Mask) (ret : DWord) :
    s.entersTrap g sid cause info lanes ret
      (s.setGroup g ((s.group g).enterTrap sid cause info lanes ret (s.ctx (s.block g.core g.block).ctx).handler)) := by
  obtain ⟨h1, h2, h3, h4, h5⟩ := s.onlyGroup_setGroup g
    ((s.group g).enterTrap sid cause info lanes ret (s.ctx (s.block g.core g.block).ctx).handler)
  unfold State.entersTrap
  rw [State.group_setGroup_same]
  have hs : ∀ n, ((s.group g).enterTrap sid cause info lanes ret (s.ctx (s.block g.core g.block).ctx).handler).split n =
      (if n = sid then _ else (s.group g).split n) := fun n => Group.split_setSplit (s.group g) sid n _
  refine ⟨rfl, rfl, rfl, rfl, ?_, ?_, ?_, ?_, ?_, ?_, ?_, rfl, h1, h2, h3, h4, h5⟩
  · rw [hs, if_pos rfl]
  · rw [hs, if_pos rfl]
  · rw [hs, if_pos rfl]
  · rw [hs, if_pos rfl]
  · rw [hs, if_pos rfl]; simp [trapDepth]
  · intro b hb
    simp [Group.enterTrap, noLatches, hb]
  · intro n hn; rw [hs, if_neg hn]

/-- The issue that a trap counts changes the cores and the count of issues only (R189). -/
theorem State.trapping_frame (s : State) (g : GroupAt) (sid : Nat) : { s.trapping g sid with cores := s.cores, issues := s.issues } = s := by
  unfold State.trapping
  split_ifs <;> rfl

/-- Taking a trap enters the handler as R303 says, for a split that may trap; its instruction has issued. -/
theorem State.trap_entered {s : State} {g : GroupAt} {sid : Nat} (hc : s.cur = .split g sid) (h : s.canTrap g sid) (cause : Nat)
    (info : Word) (lanes : Mask) (ret : DWord) :
    ∃ t, s.trap cause info lanes ret = .next t ∧ (s.trapping g sid).entersTrap g sid cause info lanes ret t := by
  refine ⟨_, State.trap_of_canTrap hc h cause info lanes ret, ?_⟩
  have hctx : (s.trapping g sid).ctx = s.ctx := by unfold State.trapping; split_ifs <;> rfl
  have hblk : ((s.trapping g sid).block g.core g.block).ctx = (s.block g.core g.block).ctx := by
    unfold State.trapping
    split_ifs
    · rfl
    · show (State.block (State.setCore _ g.core _) g.core g.block).ctx = _
      unfold State.block
      rw [State.core_setCore_same]
      show ((State.setGroup s g _).block g.core g.block).ctx = _
      unfold State.setGroup
      rw [State.block_setBlock_same]
      rfl
  have := (s.trapping g sid).entersTrap_enterTrap g sid cause info lanes ret
  rw [hctx, hblk] at this
  exact this

end Sys2Proof.Machine
end

