-- ==== Sys2Proof/Laws/PerInstr.lean ====
section
/-! SUPPORT. The length of every instruction, one lemma for each constructor (R151): an instruction that stands in memory has one
word or two, and an event of the table has none. -/

namespace Sys2Proof.Laws.Words

/-- An instruction that is no event is encoded in 4 or 8 bytes; an event has no encoding (R151). -/
def Statement (i : Instr) : Prop :=
  (Machine.isEvent i = false → i.len = 4 ∨ i.len = 8) ∧ (Machine.isEvent i = true → encode i = [])

theorem ofWord {i : Instr} (h : Machine.isEvent i = false) (hl : i.len = 4 ∨ i.len = 8) : Statement i :=
  ⟨fun _ => hl, fun e => Bool.noConfusion (h.symm.trans e)⟩

theorem ofEvent {i : Instr} (h : Machine.isEvent i = true) (hl : encode i = []) : Statement i :=
  ⟨fun e => Bool.noConfusion (e.symm.trans h), fun _ => hl⟩

theorem bra (p : Pre) (w : CWord) : Statement (.bra p w) := ofWord rfl (match p with | none => .inl rfl | some _ => .inr rfl)
theorem braR (p : Pre) (w : SWord) : Statement (.braR p w) := ofWord rfl (match p with | none => .inl rfl | some _ => .inr rfl)
theorem brcAny (p : Pre) (w : IWord) : Statement (.brcAny p w) := ofWord rfl (match p with | none => .inl rfl | some _ => .inr rfl)
theorem brcAll (p : Pre) (w : IWord) : Statement (.brcAll p w) := ofWord rfl (match p with | none => .inl rfl | some _ => .inr rfl)
theorem brcZ (p : Pre) (w : IWord) : Statement (.brcZ p w) := ofWord rfl (match p with | none => .inl rfl | some _ => .inr rfl)
theorem brcNz (p : Pre) (w : IWord) : Statement (.brcNz p w) := ofWord rfl (match p with | none => .inl rfl | some _ => .inr rfl)
theorem brd (p : Pre) (w : IWord) : Statement (.brd p w) := ofWord rfl (match p with | none => .inl rfl | some _ => .inr rfl)
theorem brdZ (p : Pre) (w : IWord) : Statement (.brdZ p w) := ofWord rfl (match p with | none => .inl rfl | some _ => .inr rfl)
theorem brdNz (p : Pre) (w : IWord) : Statement (.brdNz p w) := ofWord rfl (match p with | none => .inl rfl | some _ => .inr rfl)
theorem call (p : Pre) (w : CWord) : Statement (.call p w) := ofWord rfl (match p with | none => .inl rfl | some _ => .inr rfl)
theorem callR (p : Pre) (w : SWord) : Statement (.callR p w) := ofWord rfl (match p with | none => .inl rfl | some _ => .inr rfl)
theorem ret (p : Pre) (w : SWord) : Statement (.ret p w) := ofWord rfl (match p with | none => .inl rfl | some _ => .inr rfl)
theorem exit (p : Pre) (w : CWord) : Statement (.exit p w) := ofWord rfl (match p with | none => .inl rfl | some _ => .inr rfl)
theorem wbase (p : Pre) (w : IWord) : Statement (.wbase p w) := ofWord rfl (match p with | none => .inl rfl | some _ => .inr rfl)
theorem wbaseR (p : Pre) (w : SWord) : Statement (.wbaseR p w) := ofWord rfl (match p with | none => .inl rfl | some _ => .inr rfl)
theorem yield (p : Pre) (w : CWord) : Statement (.yield p w) := ofWord rfl (match p with | none => .inl rfl | some _ => .inr rfl)
theorem trap (p : Pre) (w : CWord) : Statement (.trap p w) := ofWord rfl (match p with | none => .inl rfl | some _ => .inr rfl)
theorem spop (p : Pre) (w : CWord) : Statement (.spop p w) := ofWord rfl (match p with | none => .inl rfl | some _ => .inr rfl)
theorem add (p : Pre) (w : RWord) : Statement (.add p w) := ofWord rfl (match p with | none => .inl rfl | some _ => .inr rfl)
theorem addi (p : Pre) (w : IWord) : Statement (.addi p w) := ofWord rfl (match p with | none => .inl rfl | some _ => .inr rfl)
theorem sub (p : Pre) (w : RWord) : Statement (.sub p w) := ofWord rfl (match p with | none => .inl rfl | some _ => .inr rfl)
theorem addSatI32 (p : Pre) (w : RWord) : Statement (.addSatI32 p w) := ofWord rfl (match p with | none => .inl rfl | some _ => .inr rfl)
theorem addSatN32 (p : Pre) (w : RWord) : Statement (.addSatN32 p w) := ofWord rfl (match p with | none => .inl rfl | some _ => .inr rfl)
theorem subSatI32 (p : Pre) (w : RWord) : Statement (.subSatI32 p w) := ofWord rfl (match p with | none => .inl rfl | some _ => .inr rfl)
theorem subSatN32 (p : Pre) (w : RWord) : Statement (.subSatN32 p w) := ofWord rfl (match p with | none => .inl rfl | some _ => .inr rfl)
theorem mul (p : Pre) (w : RWord) : Statement (.mul p w) := ofWord rfl (match p with | none => .inl rfl | some _ => .inr rfl)
theorem muli (p : Pre) (w : IWord) : Statement (.muli p w) := ofWord rfl (match p with | none => .inl rfl | some _ => .inr rfl)
theorem mulhI32 (p : Pre) (w : RWord) : Statement (.mulhI32 p w) := ofWord rfl (match p with | none => .inl rfl | some _ => .inr rfl)
theorem mulhN32 (p : Pre) (w : RWord) : Statement (.mulhN32 p w) := ofWord rfl (match p with | none => .inl rfl | some _ => .inr rfl)
theorem mad (p : Pre) (w : RWord) : Statement (.mad p w) := ofWord rfl (match p with | none => .inl rfl | some _ => .inr rfl)
theorem madwI32 (p : Pre) (w : RWord) : Statement (.madwI32 p w) := ofWord rfl (match p with | none => .inl rfl | some _ => .inr rfl)
theorem madwN32 (p : Pre) (w : RWord) : Statement (.madwN32 p w) := ofWord rfl (match p with | none => .inl rfl | some _ => .inr rfl)
theorem minI32 (p : Pre) (w : RWord) : Statement (.minI32 p w) := ofWord rfl (match p with | none => .inl rfl | some _ => .inr rfl)
theorem minN32 (p : Pre) (w : RWord) : Statement (.minN32 p w) := ofWord rfl (match p with | none => .inl rfl | some _ => .inr rfl)
theorem maxI32 (p : Pre) (w : RWord) : Statement (.maxI32 p w) := ofWord rfl (match p with | none => .inl rfl | some _ => .inr rfl)
theorem maxN32 (p : Pre) (w : RWord) : Statement (.maxN32 p w) := ofWord rfl (match p with | none => .inl rfl | some _ => .inr rfl)
theorem miniI32 (p : Pre) (w : IWord) : Statement (.miniI32 p w) := ofWord rfl (match p with | none => .inl rfl | some _ => .inr rfl)
theorem miniN32 (p : Pre) (w : IWord) : Statement (.miniN32 p w) := ofWord rfl (match p with | none => .inl rfl | some _ => .inr rfl)
theorem maxiI32 (p : Pre) (w : IWord) : Statement (.maxiI32 p w) := ofWord rfl (match p with | none => .inl rfl | some _ => .inr rfl)
theorem maxiN32 (p : Pre) (w : IWord) : Statement (.maxiN32 p w) := ofWord rfl (match p with | none => .inl rfl | some _ => .inr rfl)
theorem abs (p : Pre) (w : RWord) : Statement (.abs p w) := ofWord rfl (match p with | none => .inl rfl | some _ => .inr rfl)
theorem neg (p : Pre) (w : RWord) : Statement (.neg p w) := ofWord rfl (match p with | none => .inl rfl | some _ => .inr rfl)
theorem and (p : Pre) (w : RWord) : Statement (.and p w) := ofWord rfl (match p with | none => .inl rfl | some _ => .inr rfl)
theorem andi (p : Pre) (w : IWord) : Statement (.andi p w) := ofWord rfl (match p with | none => .inl rfl | some _ => .inr rfl)
theorem or (p : Pre) (w : RWord) : Statement (.or p w) := ofWord rfl (match p with | none => .inl rfl | some _ => .inr rfl)
theorem ori (p : Pre) (w : IWord) : Statement (.ori p w) := ofWord rfl (match p with | none => .inl rfl | some _ => .inr rfl)
theorem xor (p : Pre) (w : RWord) : Statement (.xor p w) := ofWord rfl (match p with | none => .inl rfl | some _ => .inr rfl)
theorem xori (p : Pre) (w : IWord) : Statement (.xori p w) := ofWord rfl (match p with | none => .inl rfl | some _ => .inr rfl)
theorem not (p : Pre) (w : RWord) : Statement (.not p w) := ofWord rfl (match p with | none => .inl rfl | some _ => .inr rfl)
theorem andn (p : Pre) (w : RWord) : Statement (.andn p w) := ofWord rfl (match p with | none => .inl rfl | some _ => .inr rfl)
theorem andni (p : Pre) (w : IWord) : Statement (.andni p w) := ofWord rfl (match p with | none => .inl rfl | some _ => .inr rfl)
theorem shl (p : Pre) (w : RWord) : Statement (.shl p w) := ofWord rfl (match p with | none => .inl rfl | some _ => .inr rfl)
theorem shli (p : Pre) (w : IWord) : Statement (.shli p w) := ofWord rfl (match p with | none => .inl rfl | some _ => .inr rfl)
theorem shr (p : Pre) (w : RWord) : Statement (.shr p w) := ofWord rfl (match p with | none => .inl rfl | some _ => .inr rfl)
theorem shri (p : Pre) (w : IWord) : Statement (.shri p w) := ofWord rfl (match p with | none => .inl rfl | some _ => .inr rfl)
theorem sha (p : Pre) (w : RWord) : Statement (.sha p w) := ofWord rfl (match p with | none => .inl rfl | some _ => .inr rfl)
theorem shai (p : Pre) (w : IWord) : Statement (.shai p w) := ofWord rfl (match p with | none => .inl rfl | some _ => .inr rfl)
theorem rol (p : Pre) (w : RWord) : Statement (.rol p w) := ofWord rfl (match p with | none => .inl rfl | some _ => .inr rfl)
theorem roli (p : Pre) (w : IWord) : Statement (.roli p w) := ofWord rfl (match p with | none => .inl rfl | some _ => .inr rfl)
theorem ror (p : Pre) (w : RWord) : Statement (.ror p w) := ofWord rfl (match p with | none => .inl rfl | some _ => .inr rfl)
theorem popc (p : Pre) (w : RWord) : Statement (.popc p w) := ofWord rfl (match p with | none => .inl rfl | some _ => .inr rfl)
theorem clz (p : Pre) (w : RWord) : Statement (.clz p w) := ofWord rfl (match p with | none => .inl rfl | some _ => .inr rfl)
theorem ctz (p : Pre) (w : RWord) : Statement (.ctz p w) := ofWord rfl (match p with | none => .inl rfl | some _ => .inr rfl)
theorem brev (p : Pre) (w : RWord) : Statement (.brev p w) := ofWord rfl (match p with | none => .inl rfl | some _ => .inr rfl)
theorem bfxI32 (p : Pre) (w : IWord) : Statement (.bfxI32 p w) := ofWord rfl (match p with | none => .inl rfl | some _ => .inr rfl)
theorem bfxN32 (p : Pre) (w : IWord) : Statement (.bfxN32 p w) := ofWord rfl (match p with | none => .inl rfl | some _ => .inr rfl)
theorem bfi (p : Pre) (w : IWord) : Statement (.bfi p w) := ofWord rfl (match p with | none => .inl rfl | some _ => .inr rfl)
theorem sel (p : Pre) (w : RWord) : Statement (.sel p w) := ofWord rfl (match p with | none => .inl rfl | some _ => .inr rfl)
theorem mov (p : Pre) (w : RWord) : Statement (.mov p w) := ofWord rfl (match p with | none => .inl rfl | some _ => .inr rfl)
theorem movi (p : Pre) (w : IWord) : Statement (.movi p w) := ofWord rfl (match p with | none => .inl rfl | some _ => .inr rfl)
theorem movh (p : Pre) (w : IWord) : Statement (.movh p w) := ofWord rfl (match p with | none => .inl rfl | some _ => .inr rfl)
theorem lea (p : Pre) (w : RWord) : Statement (.lea p w) := ofWord rfl (match p with | none => .inl rfl | some _ => .inr rfl)
theorem leai (p : Pre) (w : IWord) : Statement (.leai p w) := ofWord rfl (match p with | none => .inl rfl | some _ => .inr rfl)
theorem bfxrI32 (p : Pre) (w : RWord) : Statement (.bfxrI32 p w) := ofWord rfl (match p with | none => .inl rfl | some _ => .inr rfl)
theorem bfxrN32 (p : Pre) (w : RWord) : Statement (.bfxrN32 p w) := ofWord rfl (match p with | none => .inl rfl | some _ => .inr rfl)
theorem bfir (p : Pre) (w : RWord) : Statement (.bfir p w) := ofWord rfl (match p with | none => .inl rfl | some _ => .inr rfl)
theorem rsubi (p : Pre) (w : IWord) : Statement (.rsubi p w) := ofWord rfl (match p with | none => .inl rfl | some _ => .inr rfl)
theorem fadd (p : Pre) (w : RWord) : Statement (.fadd p w) := ofWord rfl (match p with | none => .inl rfl | some _ => .inr rfl)
theorem fsub (p : Pre) (w : RWord) : Statement (.fsub p w) := ofWord rfl (match p with | none => .inl rfl | some _ => .inr rfl)
theorem fmul (p : Pre) (w : RWord) : Statement (.fmul p w) := ofWord rfl (match p with | none => .inl rfl | some _ => .inr rfl)
theorem ffma (p : Pre) (w : RWord) : Statement (.ffma p w) := ofWord rfl (match p with | none => .inl rfl | some _ => .inr rfl)
theorem ffms (p : Pre) (w : RWord) : Statement (.ffms p w) := ofWord rfl (match p with | none => .inl rfl | some _ => .inr rfl)
theorem fnma (p : Pre) (w : RWord) : Statement (.fnma p w) := ofWord rfl (match p with | none => .inl rfl | some _ => .inr rfl)
theorem fmin (p : Pre) (w : RWord) : Statement (.fmin p w) := ofWord rfl (match p with | none => .inl rfl | some _ => .inr rfl)
theorem fmax (p : Pre) (w : RWord) : Statement (.fmax p w) := ofWord rfl (match p with | none => .inl rfl | some _ => .inr rfl)
theorem frcp (p : Pre) (w : RWord) : Statement (.frcp p w) := ofWord rfl (match p with | none => .inl rfl | some _ => .inr rfl)
theorem frsq (p : Pre) (w : RWord) : Statement (.frsq p w) := ofWord rfl (match p with | none => .inl rfl | some _ => .inr rfl)
theorem fsqrt (p : Pre) (w : RWord) : Statement (.fsqrt p w) := ofWord rfl (match p with | none => .inl rfl | some _ => .inr rfl)
theorem fexp2 (p : Pre) (w : RWord) : Statement (.fexp2 p w) := ofWord rfl (match p with | none => .inl rfl | some _ => .inr rfl)
theorem flog2 (p : Pre) (w : RWord) : Statement (.flog2 p w) := ofWord rfl (match p with | none => .inl rfl | some _ => .inr rfl)
theorem fclass (p : Pre) (w : RWord) : Statement (.fclass p w) := ofWord rfl (match p with | none => .inl rfl | some _ => .inr rfl)
theorem faddX2 (p : Pre) (w : RWord) : Statement (.faddX2 p w) := ofWord rfl (match p with | none => .inl rfl | some _ => .inr rfl)
theorem fsubX2 (p : Pre) (w : RWord) : Statement (.fsubX2 p w) := ofWord rfl (match p with | none => .inl rfl | some _ => .inr rfl)
theorem fmulX2 (p : Pre) (w : RWord) : Statement (.fmulX2 p w) := ofWord rfl (match p with | none => .inl rfl | some _ => .inr rfl)
theorem ffmaX2 (p : Pre) (w : RWord) : Statement (.ffmaX2 p w) := ofWord rfl (match p with | none => .inl rfl | some _ => .inr rfl)
theorem fminX2 (p : Pre) (w : RWord) : Statement (.fminX2 p w) := ofWord rfl (match p with | none => .inl rfl | some _ => .inr rfl)
theorem fmaxX2 (p : Pre) (w : RWord) : Statement (.fmaxX2 p w) := ofWord rfl (match p with | none => .inl rfl | some _ => .inr rfl)
theorem frcpX2 (p : Pre) (w : RWord) : Statement (.frcpX2 p w) := ofWord rfl (match p with | none => .inl rfl | some _ => .inr rfl)
theorem frsqX2 (p : Pre) (w : RWord) : Statement (.frsqX2 p w) := ofWord rfl (match p with | none => .inl rfl | some _ => .inr rfl)
theorem fsqrtX2 (p : Pre) (w : RWord) : Statement (.fsqrtX2 p w) := ofWord rfl (match p with | none => .inl rfl | some _ => .inr rfl)
theorem fexp2X2 (p : Pre) (w : RWord) : Statement (.fexp2X2 p w) := ofWord rfl (match p with | none => .inl rfl | some _ => .inr rfl)
theorem flog2X2 (p : Pre) (w : RWord) : Statement (.flog2X2 p w) := ofWord rfl (match p with | none => .inl rfl | some _ => .inr rfl)
theorem cvtFromF32 (p : Pre) (w : RWord) : Statement (.cvtFromF32 p w) := ofWord rfl (match p with | none => .inl rfl | some _ => .inr rfl)
theorem cvtFromF16 (p : Pre) (w : RWord) : Statement (.cvtFromF16 p w) := ofWord rfl (match p with | none => .inl rfl | some _ => .inr rfl)
theorem cvtFromBf16 (p : Pre) (w : RWord) : Statement (.cvtFromBf16 p w) := ofWord rfl (match p with | none => .inl rfl | some _ => .inr rfl)
theorem cvtFromE4m3 (p : Pre) (w : RWord) : Statement (.cvtFromE4m3 p w) := ofWord rfl (match p with | none => .inl rfl | some _ => .inr rfl)
theorem cvtFromE5m2 (p : Pre) (w : RWord) : Statement (.cvtFromE5m2 p w) := ofWord rfl (match p with | none => .inl rfl | some _ => .inr rfl)
theorem cvtFromI32 (p : Pre) (w : RWord) : Statement (.cvtFromI32 p w) := ofWord rfl (match p with | none => .inl rfl | some _ => .inr rfl)
theorem cvtFromN32 (p : Pre) (w : RWord) : Statement (.cvtFromN32 p w) := ofWord rfl (match p with | none => .inl rfl | some _ => .inr rfl)
theorem cvtFromI64 (p : Pre) (w : RWord) : Statement (.cvtFromI64 p w) := ofWord rfl (match p with | none => .inl rfl | some _ => .inr rfl)
theorem cvtFromN64 (p : Pre) (w : RWord) : Statement (.cvtFromN64 p w) := ofWord rfl (match p with | none => .inl rfl | some _ => .inr rfl)
theorem cvtFromI16 (p : Pre) (w : RWord) : Statement (.cvtFromI16 p w) := ofWord rfl (match p with | none => .inl rfl | some _ => .inr rfl)
theorem cvtFromN16 (p : Pre) (w : RWord) : Statement (.cvtFromN16 p w) := ofWord rfl (match p with | none => .inl rfl | some _ => .inr rfl)
theorem cvtFromI8 (p : Pre) (w : RWord) : Statement (.cvtFromI8 p w) := ofWord rfl (match p with | none => .inl rfl | some _ => .inr rfl)
theorem cvtFromN8 (p : Pre) (w : RWord) : Statement (.cvtFromN8 p w) := ofWord rfl (match p with | none => .inl rfl | some _ => .inr rfl)
theorem cvtFromI4 (p : Pre) (w : RWord) : Statement (.cvtFromI4 p w) := ofWord rfl (match p with | none => .inl rfl | some _ => .inr rfl)
theorem cvtPk (p : Pre) (w : RWord) : Statement (.cvtPk p w) := ofWord rfl (match p with | none => .inl rfl | some _ => .inr rfl)
theorem cvtPkHi (p : Pre) (w : RWord) : Statement (.cvtPkHi p w) := ofWord rfl (match p with | none => .inl rfl | some _ => .inr rfl)
theorem cmpI32 (p : Pre) (w : RWord) : Statement (.cmpI32 p w) := ofWord rfl (match p with | none => .inl rfl | some _ => .inr rfl)
theorem cmpN32 (p : Pre) (w : RWord) : Statement (.cmpN32 p w) := ofWord rfl (match p with | none => .inl rfl | some _ => .inr rfl)
theorem cmpF32 (p : Pre) (w : RWord) : Statement (.cmpF32 p w) := ofWord rfl (match p with | none => .inl rfl | some _ => .inr rfl)
theorem cmpiI32 (p : Pre) (w : IWord) : Statement (.cmpiI32 p w) := ofWord rfl (match p with | none => .inl rfl | some _ => .inr rfl)
theorem cmpiN32 (p : Pre) (w : IWord) : Statement (.cmpiN32 p w) := ofWord rfl (match p with | none => .inl rfl | some _ => .inr rfl)
theorem pand (p : Pre) (w : RWord) : Statement (.pand p w) := ofWord rfl (match p with | none => .inl rfl | some _ => .inr rfl)
theorem por (p : Pre) (w : RWord) : Statement (.por p w) := ofWord rfl (match p with | none => .inl rfl | some _ => .inr rfl)
theorem pxor (p : Pre) (w : RWord) : Statement (.pxor p w) := ofWord rfl (match p with | none => .inl rfl | some _ => .inr rfl)
theorem pnot (p : Pre) (w : RWord) : Statement (.pnot p w) := ofWord rfl (match p with | none => .inl rfl | some _ => .inr rfl)
theorem pmov (p : Pre) (w : RWord) : Statement (.pmov p w) := ofWord rfl (match p with | none => .inl rfl | some _ => .inr rfl)
theorem shflIdx (p : Pre) (w : RWord) : Statement (.shflIdx p w) := ofWord rfl (match p with | none => .inl rfl | some _ => .inr rfl)
theorem shflUp (p : Pre) (w : RWord) : Statement (.shflUp p w) := ofWord rfl (match p with | none => .inl rfl | some _ => .inr rfl)
theorem shflDown (p : Pre) (w : RWord) : Statement (.shflDown p w) := ofWord rfl (match p with | none => .inl rfl | some _ => .inr rfl)
theorem shflXor (p : Pre) (w : RWord) : Statement (.shflXor p w) := ofWord rfl (match p with | none => .inl rfl | some _ => .inr rfl)
theorem shfliIdx (p : Pre) (w : IWord) : Statement (.shfliIdx p w) := ofWord rfl (match p with | none => .inl rfl | some _ => .inr rfl)
theorem shfliUp (p : Pre) (w : IWord) : Statement (.shfliUp p w) := ofWord rfl (match p with | none => .inl rfl | some _ => .inr rfl)
theorem shfliDown (p : Pre) (w : IWord) : Statement (.shfliDown p w) := ofWord rfl (match p with | none => .inl rfl | some _ => .inr rfl)
theorem shfliXor (p : Pre) (w : IWord) : Statement (.shfliXor p w) := ofWord rfl (match p with | none => .inl rfl | some _ => .inr rfl)
theorem voteAny (p : Pre) (w : RWord) : Statement (.voteAny p w) := ofWord rfl (match p with | none => .inl rfl | some _ => .inr rfl)
theorem voteAll (p : Pre) (w : RWord) : Statement (.voteAll p w) := ofWord rfl (match p with | none => .inl rfl | some _ => .inr rfl)
theorem voteEq (p : Pre) (w : RWord) : Statement (.voteEq p w) := ofWord rfl (match p with | none => .inl rfl | some _ => .inr rfl)
theorem ballot (p : Pre) (w : RWord) : Statement (.ballot p w) := ofWord rfl (match p with | none => .inl rfl | some _ => .inr rfl)
theorem reduxAdd (p : Pre) (w : RWord) : Statement (.reduxAdd p w) := ofWord rfl (match p with | none => .inl rfl | some _ => .inr rfl)
theorem reduxMinI32 (p : Pre) (w : RWord) : Statement (.reduxMinI32 p w) := ofWord rfl (match p with | none => .inl rfl | some _ => .inr rfl)
theorem reduxMinN32 (p : Pre) (w : RWord) : Statement (.reduxMinN32 p w) := ofWord rfl (match p with | none => .inl rfl | some _ => .inr rfl)
theorem reduxMaxI32 (p : Pre) (w : RWord) : Statement (.reduxMaxI32 p w) := ofWord rfl (match p with | none => .inl rfl | some _ => .inr rfl)
theorem reduxMaxN32 (p : Pre) (w : RWord) : Statement (.reduxMaxN32 p w) := ofWord rfl (match p with | none => .inl rfl | some _ => .inr rfl)
theorem reduxAnd (p : Pre) (w : RWord) : Statement (.reduxAnd p w) := ofWord rfl (match p with | none => .inl rfl | some _ => .inr rfl)
theorem reduxOr (p : Pre) (w : RWord) : Statement (.reduxOr p w) := ofWord rfl (match p with | none => .inl rfl | some _ => .inr rfl)
theorem reduxXor (p : Pre) (w : RWord) : Statement (.reduxXor p w) := ofWord rfl (match p with | none => .inl rfl | some _ => .inr rfl)
theorem ld (p : Pre) (w : MWord) : Statement (.ld p w) := ofWord rfl (match p with | none => .inl rfl | some _ => .inr rfl)
theorem ldB128 (p : Pre) (w : MWord) : Statement (.ldB128 p w) := ofWord rfl (match p with | none => .inl rfl | some _ => .inr rfl)
theorem st (p : Pre) (w : MWord) : Statement (.st p w) := ofWord rfl (match p with | none => .inl rfl | some _ => .inr rfl)
theorem stB128 (p : Pre) (w : MWord) : Statement (.stB128 p w) := ofWord rfl (match p with | none => .inl rfl | some _ => .inr rfl)
theorem ldfeKeep (p : Pre) (w : MWord) : Statement (.ldfeKeep p w) := ofWord rfl (match p with | none => .inl rfl | some _ => .inr rfl)
theorem ldfeClr (p : Pre) (w : MWord) : Statement (.ldfeClr p w) := ofWord rfl (match p with | none => .inl rfl | some _ => .inr rfl)
theorem stfe (p : Pre) (w : MWord) : Statement (.stfe p w) := ofWord rfl (match p with | none => .inl rfl | some _ => .inr rfl)
theorem feset (p : Pre) (w : MWord) : Statement (.feset p w) := ofWord rfl (match p with | none => .inl rfl | some _ => .inr rfl)
theorem feclr (p : Pre) (w : MWord) : Statement (.feclr p w) := ofWord rfl (match p with | none => .inl rfl | some _ => .inr rfl)
theorem ldt (p : Pre) (w : MWord) : Statement (.ldt p w) := ofWord rfl (match p with | none => .inl rfl | some _ => .inr rfl)
theorem pref (p : Pre) (w : MWord) : Statement (.pref p w) := ofWord rfl (match p with | none => .inl rfl | some _ => .inr rfl)
theorem rld (p : Pre) (w : MWord) : Statement (.rld p w) := ofWord rfl (match p with | none => .inl rfl | some _ => .inr rfl)
theorem rset (p : Pre) (w : IWord) : Statement (.rset p w) := ofWord rfl (match p with | none => .inl rfl | some _ => .inr rfl)
theorem rget (p : Pre) (w : IWord) : Statement (.rget p w) := ofWord rfl (match p with | none => .inl rfl | some _ => .inr rfl)
theorem rmov (p : Pre) (w : SWord) : Statement (.rmov p w) := ofWord rfl (match p with | none => .inl rfl | some _ => .inr rfl)
theorem atomAdd (p : Pre) (w : MWord) : Statement (.atomAdd p w) := ofWord rfl (match p with | none => .inl rfl | some _ => .inr rfl)
theorem atomMin (p : Pre) (w : MWord) : Statement (.atomMin p w) := ofWord rfl (match p with | none => .inl rfl | some _ => .inr rfl)
theorem atomMax (p : Pre) (w : MWord) : Statement (.atomMax p w) := ofWord rfl (match p with | none => .inl rfl | some _ => .inr rfl)
theorem atomAnd (p : Pre) (w : MWord) : Statement (.atomAnd p w) := ofWord rfl (match p with | none => .inl rfl | some _ => .inr rfl)
theorem atomOr (p : Pre) (w : MWord) : Statement (.atomOr p w) := ofWord rfl (match p with | none => .inl rfl | some _ => .inr rfl)
theorem atomXor (p : Pre) (w : MWord) : Statement (.atomXor p w) := ofWord rfl (match p with | none => .inl rfl | some _ => .inr rfl)
theorem atomXchg (p : Pre) (w : MWord) : Statement (.atomXchg p w) := ofWord rfl (match p with | none => .inl rfl | some _ => .inr rfl)
theorem atomCas (p : Pre) (w : MWord) : Statement (.atomCas p w) := ofWord rfl (match p with | none => .inl rfl | some _ => .inr rfl)
theorem atomIncw (p : Pre) (w : MWord) : Statement (.atomIncw p w) := ofWord rfl (match p with | none => .inl rfl | some _ => .inr rfl)
theorem redAdd (p : Pre) (w : MWord) : Statement (.redAdd p w) := ofWord rfl (match p with | none => .inl rfl | some _ => .inr rfl)
theorem redMin (p : Pre) (w : MWord) : Statement (.redMin p w) := ofWord rfl (match p with | none => .inl rfl | some _ => .inr rfl)
theorem redMax (p : Pre) (w : MWord) : Statement (.redMax p w) := ofWord rfl (match p with | none => .inl rfl | some _ => .inr rfl)
theorem redAnd (p : Pre) (w : MWord) : Statement (.redAnd p w) := ofWord rfl (match p with | none => .inl rfl | some _ => .inr rfl)
theorem redOr (p : Pre) (w : MWord) : Statement (.redOr p w) := ofWord rfl (match p with | none => .inl rfl | some _ => .inr rfl)
theorem redXor (p : Pre) (w : MWord) : Statement (.redXor p w) := ofWord rfl (match p with | none => .inl rfl | some _ => .inr rfl)
theorem atomfAdd (p : Pre) (w : MWord) : Statement (.atomfAdd p w) := ofWord rfl (match p with | none => .inl rfl | some _ => .inr rfl)
theorem atomfMin (p : Pre) (w : MWord) : Statement (.atomfMin p w) := ofWord rfl (match p with | none => .inl rfl | some _ => .inr rfl)
theorem atomfMax (p : Pre) (w : MWord) : Statement (.atomfMax p w) := ofWord rfl (match p with | none => .inl rfl | some _ => .inr rfl)
theorem fence (p : Pre) (w : MWord) : Statement (.fence p w) := ofWord rfl (match p with | none => .inl rfl | some _ => .inr rfl)
theorem xfence (p : Pre) (w : MWord) : Statement (.xfence p w) := ofWord rfl (match p with | none => .inl rfl | some _ => .inr rfl)
theorem qpush (p : Pre) (w : SWord) : Statement (.qpush p w) := ofWord rfl (match p with | none => .inl rfl | some _ => .inr rfl)
theorem qpop (p : Pre) (w : SWord) : Statement (.qpop p w) := ofWord rfl (match p with | none => .inl rfl | some _ => .inr rfl)
theorem qtry (p : Pre) (w : SWord) : Statement (.qtry p w) := ofWord rfl (match p with | none => .inl rfl | some _ => .inr rfl)
theorem qallow (p : Pre) (w : IWord) : Statement (.qallow p w) := ofWord rfl (match p with | none => .inl rfl | some _ => .inr rfl)
theorem qinit (p : Pre) (w : IWord) : Statement (.qinit p w) := ofWord rfl (match p with | none => .inl rfl | some _ => .inr rfl)
theorem evwait (p : Pre) (w : IWord) : Statement (.evwait p w) := ofWord rfl (match p with | none => .inl rfl | some _ => .inr rfl)
theorem evset (p : Pre) (w : IWord) : Statement (.evset p w) := ofWord rfl (match p with | none => .inl rfl | some _ => .inr rfl)
theorem evclr (p : Pre) (w : IWord) : Statement (.evclr p w) := ofWord rfl (match p with | none => .inl rfl | some _ => .inr rfl)
theorem evtest (p : Pre) (w : IWord) : Statement (.evtest p w) := ofWord rfl (match p with | none => .inl rfl | some _ => .inr rfl)
theorem mma (p : Pre) (w : SWord) : Statement (.mma p w) := ofWord rfl (match p with | none => .inl rfl | some _ => .inr rfl)
theorem mmaW (p : Pre) (w : SWord) : Statement (.mmaW p w) := ofWord rfl (match p with | none => .inl rfl | some _ => .inr rfl)
theorem cmma (p : Pre) (w : SWord) : Statement (.cmma p w) := ofWord rfl (match p with | none => .inl rfl | some _ => .inr rfl)
theorem aclr (p : Pre) (w : SWord) : Statement (.aclr p w) := ofWord rfl (match p with | none => .inl rfl | some _ => .inr rfl)
theorem adrain (p : Pre) (w : MWord) : Statement (.adrain p w) := ofWord rfl (match p with | none => .inl rfl | some _ => .inr rfl)
theorem afill (p : Pre) (w : MWord) : Statement (.afill p w) := ofWord rfl (match p with | none => .inl rfl | some _ => .inr rfl)
theorem ast (p : Pre) (w : MWord) : Statement (.ast p w) := ofWord rfl (match p with | none => .inl rfl | some _ => .inr rfl)
theorem astW (p : Pre) (w : MWord) : Statement (.astW p w) := ofWord rfl (match p with | none => .inl rfl | some _ => .inr rfl)
theorem astI (p : Pre) (w : MWord) : Statement (.astI p w) := ofWord rfl (match p with | none => .inl rfl | some _ => .inr rfl)
theorem amov (p : Pre) (w : SWord) : Statement (.amov p w) := ofWord rfl (match p with | none => .inl rfl | some _ => .inr rfl)
theorem amovGet (p : Pre) (w : SWord) : Statement (.amovGet p w) := ofWord rfl (match p with | none => .inl rfl | some _ => .inr rfl)
theorem amovPut (p : Pre) (w : SWord) : Statement (.amovPut p w) := ofWord rfl (match p with | none => .inl rfl | some _ => .inr rfl)
theorem bndrd (p : Pre) (w : SWord) : Statement (.bndrd p w) := ofWord rfl (match p with | none => .inl rfl | some _ => .inr rfl)
theorem bndrdK (p : Pre) (w : SWord) : Statement (.bndrdK p w) := ofWord rfl (match p with | none => .inl rfl | some _ => .inr rfl)
theorem bndwr (p : Pre) (w : SWord) : Statement (.bndwr p w) := ofWord rfl (match p with | none => .inl rfl | some _ => .inr rfl)
theorem bndthr (p : Pre) (w : IWord) : Statement (.bndthr p w) := ofWord rfl (match p with | none => .inl rfl | some _ => .inr rfl)
theorem bndchk (p : Pre) (w : SWord) : Statement (.bndchk p w) := ofWord rfl (match p with | none => .inl rfl | some _ => .inr rfl)
theorem cvtq (p : Pre) (w : SWord) : Statement (.cvtq p w) := ofWord rfl (match p with | none => .inl rfl | some _ => .inr rfl)
theorem srseed (p : Pre) (w : SWord) : Statement (.srseed p w) := ofWord rfl (match p with | none => .inl rfl | some _ => .inr rfl)
theorem smerge (p : Pre) (w : SWord) : Statement (.smerge p w) := ofWord rfl (match p with | none => .inl rfl | some _ => .inr rfl)
theorem fork (p : Pre) (w : CWord) : Statement (.fork p w) := ofWord rfl (match p with | none => .inl rfl | some _ => .inr rfl)
theorem forkHandle (p : Pre) (w : CWord) : Statement (.forkHandle p w) := ofWord rfl (match p with | none => .inl rfl | some _ => .inr rfl)
theorem rdv (p : Pre) (w : SWord) : Statement (.rdv p w) := ofWord rfl (match p with | none => .inl rfl | some _ => .inr rfl)
theorem rdvAll (p : Pre) (w : SWord) : Statement (.rdvAll p w) := ofWord rfl (match p with | none => .inl rfl | some _ => .inr rfl)
theorem acopy (p : Pre) (w : MWord) : Statement (.acopy p w) := ofWord rfl (match p with | none => .inl rfl | some _ => .inr rfl)
theorem acopyA (p : Pre) (w : MWord) : Statement (.acopyA p w) := ofWord rfl (match p with | none => .inl rfl | some _ => .inr rfl)
theorem acopyB (p : Pre) (w : MWord) : Statement (.acopyB p w) := ofWord rfl (match p with | none => .inl rfl | some _ => .inr rfl)
theorem mfill (p : Pre) (w : MWord) : Statement (.mfill p w) := ofWord rfl (match p with | none => .inl rfl | some _ => .inr rfl)
theorem bcopy (p : Pre) (w : SWord) : Statement (.bcopy p w) := ofWord rfl (match p with | none => .inl rfl | some _ => .inr rfl)
theorem cacopy (p : Pre) (w : SWord) : Statement (.cacopy p w) := ofWord rfl (match p with | none => .inl rfl | some _ => .inr rfl)
theorem acwait (p : Pre) (w : SWord) : Statement (.acwait p w) := ofWord rfl (match p with | none => .inl rfl | some _ => .inr rfl)
theorem bcwait (p : Pre) (w : SWord) : Statement (.bcwait p w) := ofWord rfl (match p with | none => .inl rfl | some _ => .inr rfl)
theorem cains (p : Pre) (w : SWord) : Statement (.cains p w) := ofWord rfl (match p with | none => .inl rfl | some _ => .inr rfl)
theorem cainsN (p : Pre) (w : SWord) : Statement (.cainsN p w) := ofWord rfl (match p with | none => .inl rfl | some _ => .inr rfl)
theorem caget (p : Pre) (w : SWord) : Statement (.caget p w) := ofWord rfl (match p with | none => .inl rfl | some _ => .inr rfl)
theorem carefInc (p : Pre) (w : SWord) : Statement (.carefInc p w) := ofWord rfl (match p with | none => .inl rfl | some _ => .inr rfl)
theorem carefDec (p : Pre) (w : SWord) : Statement (.carefDec p w) := ofWord rfl (match p with | none => .inl rfl | some _ => .inr rfl)
theorem carefPin (p : Pre) (w : SWord) : Statement (.carefPin p w) := ofWord rfl (match p with | none => .inl rfl | some _ => .inr rfl)
theorem caswap (p : Pre) (w : MWord) : Statement (.caswap p w) := ofWord rfl (match p with | none => .inl rfl | some _ => .inr rfl)
theorem kvwalk (p : Pre) (w : SWord) : Statement (.kvwalk p w) := ofWord rfl (match p with | none => .inl rfl | some _ => .inr rfl)
theorem cawalk (p : Pre) (w : SWord) : Statement (.cawalk p w) := ofWord rfl (match p with | none => .inl rfl | some _ => .inr rfl)
theorem launch (p : Pre) (w : SWord) : Statement (.launch p w) := ofWord rfl (match p with | none => .inl rfl | some _ => .inr rfl)
theorem sysrd (p : Pre) (w : IWord) : Statement (.sysrd p w) := ofWord rfl (match p with | none => .inl rfl | some _ => .inr rfl)
theorem syswr (p : Pre) (w : IWord) : Statement (.syswr p w) := ofWord rfl (match p with | none => .inl rfl | some _ => .inr rfl)
theorem tlbinv (p : Pre) (w : SWord) : Statement (.tlbinv p w) := ofWord rfl (match p with | none => .inl rfl | some _ => .inr rfl)
theorem shoot (p : Pre) (w : SWord) : Statement (.shoot p w) := ofWord rfl (match p with | none => .inl rfl | some _ => .inr rfl)
theorem shootCtx (p : Pre) (w : SWord) : Statement (.shootCtx p w) := ofWord rfl (match p with | none => .inl rfl | some _ => .inr rfl)
theorem ctxsw (p : Pre) (w : SWord) : Statement (.ctxsw p w) := ofWord rfl (match p with | none => .inl rfl | some _ => .inr rfl)
theorem uien (p : Pre) (w : SWord) : Statement (.uien p w) := ofWord rfl (match p with | none => .inl rfl | some _ => .inr rfl)
theorem nop : Statement .nop := ofWord rfl (.inl rfl)
theorem bar : Statement .bar := ofWord rfl (.inl rfl)
theorem bara : Statement .bara := ofWord rfl (.inl rfl)
theorem barw : Statement .barw := ofWord rfl (.inl rfl)
theorem gbar : Statement .gbar := ofWord rfl (.inl rfl)
theorem userInterruptDelivery : Statement .userInterruptDelivery := ofEvent rfl rfl
theorem splitMerge : Statement .splitMerge := ofEvent rfl rfl
theorem stackPop : Statement .stackPop := ofEvent rfl rfl
theorem yieldTimeout : Statement .yieldTimeout := ofEvent rfl rfl
theorem launchTake : Statement .launchTake := ofEvent rfl rfl
theorem gangPlace : Statement .gangPlace := ofEvent rfl rfl
theorem blockRetire : Statement .blockRetire := ofEvent rfl rfl
theorem gridRetire : Statement .gridRetire := ofEvent rfl rfl
theorem barrierPhaseComplete : Statement .barrierPhaseComplete := ofEvent rfl rfl
theorem queueRetry : Statement .queueRetry := ofEvent rfl rfl
theorem ldfeRetry : Statement .ldfeRetry := ofEvent rfl rfl
theorem preemptSwap : Statement .preemptSwap := ofEvent rfl rfl
theorem spill : Statement .spill := ofEvent rfl rfl
theorem restoreLoad : Statement .restoreLoad := ofEvent rfl rfl
theorem stagedSwap : Statement .stagedSwap := ofEvent rfl rfl
theorem stallReport : Statement .stallReport := ofEvent rfl rfl
theorem hangReport : Statement .hangReport := ofEvent rfl rfl
theorem quarterBind : Statement .quarterBind := ofEvent rfl rfl
theorem passStart : Statement .passStart := ofEvent rfl rfl
theorem passPromote : Statement .passPromote := ofEvent rfl rfl
theorem completion : Statement .completion := ofEvent rfl rfl
theorem copyLanding : Statement .copyLanding := ofEvent rfl rfl
theorem pageWalk : Statement .pageWalk := ofEvent rfl rfl
theorem homeSliceAtomic : Statement .homeSliceAtomic := ofEvent rfl rfl
theorem readWindowClose : Statement .readWindowClose := ofEvent rfl rfl
theorem park : Statement .park := ofEvent rfl rfl
theorem faultRecordPost : Statement .faultRecordPost := ofEvent rfl rfl
theorem redrive : Statement .redrive := ofEvent rfl rfl
theorem inboundPostedWrite : Statement .inboundPostedWrite := ofEvent rfl rfl
theorem inboundRead : Statement .inboundRead := ofEvent rfl rfl
theorem inboundTimeout : Statement .inboundTimeout := ofEvent rfl rfl
theorem peerFailureCompletion : Statement .peerFailureCompletion := ofEvent rfl rfl
theorem relaxedFlushAck : Statement .relaxedFlushAck := ofEvent rfl rfl
theorem pageInJob : Statement .pageInJob := ofEvent rfl rfl
theorem bulkCopyJob : Statement .bulkCopyJob := ofEvent rfl rfl
theorem cacopyJob : Statement .cacopyJob := ofEvent rfl rfl
theorem caInsert : Statement .caInsert := ofEvent rfl rfl
theorem lovageReclaim : Statement .lovageReclaim := ofEvent rfl rfl
theorem savoryScrub : Statement .savoryScrub := ofEvent rfl rfl
theorem wsRefreshOpen : Statement .wsRefreshOpen := ofEvent rfl rfl
theorem wsRefreshClose : Statement .wsRefreshClose := ofEvent rfl rfl
theorem congestionMark : Statement .congestionMark := ofEvent rfl rfl
theorem injectionRateRecover : Statement .injectionRateRecover := ofEvent rfl rfl
theorem eccCorrected : Statement .eccCorrected := ofEvent rfl rfl
theorem eccUncorrectable : Statement .eccUncorrectable := ofEvent rfl rfl
theorem linkCheckFail : Statement .linkCheckFail := ofEvent rfl rfl
theorem portDown : Statement .portDown := ofEvent rfl rfl
theorem mmioReadTimeout : Statement .mmioReadTimeout := ofEvent rfl rfl
theorem cxlPoisonCompletion : Statement .cxlPoisonCompletion := ofEvent rfl rfl
theorem clockIslandSwitch : Statement .clockIslandSwitch := ofEvent rfl rfl
theorem throttleRaise : Statement .throttleRaise := ofEvent rfl rfl
theorem throttleLower : Statement .throttleLower := ofEvent rfl rfl
theorem thermalReset : Statement .thermalReset := ofEvent rfl rfl
theorem powerOnBoot : Statement .powerOnBoot := ofEvent rfl rfl
theorem powerRemove : Statement .powerRemove := ofEvent rfl rfl
theorem sidebandReset : Statement .sidebandReset := ofEvent rfl rfl
theorem attestation : Statement .attestation := ofEvent rfl rfl
theorem sidebandNack : Statement .sidebandNack := ofEvent rfl rfl
theorem launchq : Statement .launchq := ofEvent rfl rfl
theorem killctx : Statement .killctx := ofEvent rfl rfl
theorem careset : Statement .careset := ofEvent rfl rfl
theorem caframe : Statement .caframe := ofEvent rfl rfl
theorem uiraise : Statement .uiraise := ofEvent rfl rfl
theorem stallstClear : Statement .stallstClear := ofEvent rfl rfl
theorem ctxerrClear : Statement .ctxerrClear := ofEvent rfl rfl
theorem lrefuseClear : Statement .lrefuseClear := ofEvent rfl rfl
theorem mfreezeFreeze : Statement .mfreezeFreeze := ofEvent rfl rfl
theorem mfreezeDiscard : Statement .mfreezeDiscard := ofEvent rfl rfl
theorem xpcWrite : Statement .xpcWrite := ofEvent rfl rfl
theorem fqheadAdvance : Statement .fqheadAdvance := ofEvent rfl rfl
theorem poolTake64k : Statement .poolTake64k := ofEvent rfl rfl
theorem poolTake2m : Statement .poolTake2m := ofEvent rfl rfl
theorem poolTake1g : Statement .poolTake1g := ofEvent rfl rfl
theorem plango : Statement .plango := ofEvent rfl rfl
theorem portRetrain : Statement .portRetrain := ofEvent rfl rfl
theorem portRearm : Statement .portRearm := ofEvent rfl rfl
theorem portstClear : Statement .portstClear := ofEvent rfl rfl
theorem memerrClear : Statement .memerrClear := ofEvent rfl rfl
theorem ctxderrClear : Statement .ctxderrClear := ofEvent rfl rfl
theorem trustWriteRefused : Statement .trustWriteRefused := ofEvent rfl rfl
theorem registerWrite : Statement .registerWrite := ofEvent rfl rfl
theorem contextCreate : Statement .contextCreate := ofEvent rfl rfl
theorem partitionRangesSet : Statement .partitionRangesSet := ofEvent rfl rfl
theorem supervisorHartAccess : Statement .supervisorHartAccess := ofEvent rfl rfl
theorem portRetrained : Statement .portRetrained := ofEvent rfl rfl

end Sys2Proof.Laws.Words
end

