-- ==== Sys2Proof/Laws/Registers.lean ====
section
/-! SUPPORT. The laws of the registers: read after write for lane registers, uniform registers, predicates and records. -/

namespace Sys2Proof

@[simp] theorem Row.lane_make (f : Nat → Word) (l : Nat) : (Row.make f).lane l = if l < 32 then f l else 0 := by
  unfold Row.lane Row.make
  split_ifs <;> simp

theorem Row.lane_merge (r : Row) (m : Mask) (v : Nat → Word) {l : Nat} (h : l < 32) :
    (r.merge m v).lane l = if m.getLsbD l then v l else r.lane l := by
  unfold Row.merge
  rw [Row.lane_make, if_pos h]

end Sys2Proof

namespace Sys2Proof.Machine

/-- A write of a register keeps the window. -/
@[simp] theorem RegFile.write_wbase (r : RegFile) (f : BitVec 7) (m : Mask) (v : Nat → Word) : (r.write f m v).wbase = r.wbase := by
  unfold RegFile.write; split_ifs <;> split <;> rfl

@[simp] theorem RegFile.write_units (r : RegFile) (f : BitVec 7) (m : Mask) (v : Nat → Word) : (r.write f m v).units = r.units := by
  unfold RegFile.write; split_ifs <;> split <;> rfl

@[simp] theorem RegFile.write_p (r : RegFile) (f : BitVec 7) (m : Mask) (v : Nat → Word) : (r.write f m v).p = r.p := by
  unfold RegFile.write; split_ifs <;> split <;> rfl

@[simp] theorem RegFile.write_k (r : RegFile) (f : BitVec 7) (m : Mask) (v : Nat → Word) : (r.write f m v).k = r.k := by
  unfold RegFile.write; split_ifs <;> split <;> rfl

@[simp] theorem RegFile.rowOf_write (r : RegFile) (f : BitVec 7) (m : Mask) (v : Nat → Word) (n : Nat) :
    (r.write f m v).rowOf n = r.rowOf n := by
  unfold RegFile.rowOf; rw [RegFile.write_wbase, RegFile.write_units]

/-- Two lane registers in one window are two rows. -/
theorem RegFile.rowOf_inj {r : RegFile} {n k x : Nat} (h1 : r.rowOf n = some x) (h2 : r.rowOf k = some x) : n = k := by
  unfold RegFile.rowOf at h1 h2
  split_ifs at h1 h2
  simp only [Option.some.injEq] at h1 h2
  omega

/-- Read after write of a lane register inside the window (R158, R159). -/
theorem RegFile.lane_write_lane {r : RegFile} {f g : BitVec 7} {m : Mask} {v : Nat → Word} {l n : Nat} (hf : f.toNat < 112)
    (hr : r.rowOf f.toNat = some n) (hl : l < 32) :
    (r.write f m v).lane g l = if g = f ∧ m.getLsbD l = true then v l else r.lane g l := by
  unfold RegFile.lane
  rw [RegFile.rowOf_write]
  by_cases hg : 112 ≤ g.toNat
  · have : g ≠ f := by rintro rfl; omega
    simp only [hg, dif_pos, this, false_and, if_false]
    unfold RegFile.write
    simp [Nat.not_le.2 hf, hr]
  · simp only [hg, dif_neg, not_false_eq_true]
    unfold RegFile.write
    simp only [Nat.not_le.2 hf, dif_neg, not_false_eq_true, hr]
    rcases hk : r.rowOf g.toNat with _ | k
    · have : g ≠ f := by rintro rfl; rw [hr] at hk; cases hk
      simp [this]
    · by_cases e : g = f
      · subst e
        have : k = n := by rw [hr] at hk; exact (Option.some.inj hk).symm
        subst this
        simp only [FMap.get_set, if_true, true_and]
        exact Row.lane_merge _ _ _ hl
      · have : k ≠ n := by
          rintro rfl
          exact e (BitVec.eq_of_toNat_eq (RegFile.rowOf_inj hk hr))
        simp [FMap.get_set, this, e]

/-- A write of a lane register beyond the window is discarded (R322). -/
theorem RegFile.write_beyond {r : RegFile} {f : BitVec 7} {m : Mask} {v : Nat → Word} (hf : f.toNat < 112)
    (hr : r.rowOf f.toNat = none) : r.write f m v = r := by
  unfold RegFile.write
  simp [Nat.not_le.2 hf, hr]

/-- A read of a lane register beyond the window is 0 (R322). -/
theorem RegFile.lane_beyond {r : RegFile} {f : BitVec 7} {l : Nat} (hf : f.toNat < 112) (hr : r.rowOf f.toNat = none) :
    r.lane f l = 0 := by
  unfold RegFile.lane
  simp [Nat.not_le.2 hf, hr]

/-- Read after write of a uniform register: it takes the value of the lowest lane of the mask (R160). -/
theorem RegFile.lane_write_uniform {r : RegFile} {f g : BitVec 7} {m : Mask} {v : Nat → Word} {l n : Nat} (hf : 112 ≤ f.toNat)
    (hm : lowest m = some n) : (r.write f m v).lane g l = if g = f then v n else r.lane g l := by
  unfold RegFile.write
  simp only [hf, dif_pos, hm]
  unfold RegFile.lane RegFile.rowOf
  by_cases hg : 112 ≤ g.toNat
  · simp only [hg, dif_pos]
    by_cases e : g = f
    · subst e; simp
    · have : f.toNat - 112 ≠ g.toNat - 112 := fun h => e (BitVec.eq_of_toNat_eq (by omega))
      simp [e, this]
  · have : g ≠ f := by rintro rfl; exact hg hf
    simp [hg, this]

/-- A uniform register without an active lane is left as it is (R160). -/
theorem RegFile.write_uniform_none {r : RegFile} {f : BitVec 7} {m : Mask} {v : Nat → Word} (hf : 112 ≤ f.toNat) (hm : lowest m = none) :
    r.write f m v = r := by
  unfold RegFile.write
  simp [hf, hm]

@[simp] theorem RegFile.lane_writePred (r : RegFile) (n : BitVec 3) (m v : Mask) (f : BitVec 7) (l : Nat) :
    (r.writePred n m v).lane f l = r.lane f l := rfl

/-- Read after write of a predicate (R158). -/
theorem RegFile.pred_writePred (r : RegFile) (n k : BitVec 3) (m v : Mask) :
    (r.writePred n m v).pred k = if k = n then (r.pred n &&& ~~~m) ||| (v &&& m) else r.pred k := by
  unfold RegFile.writePred RegFile.pred
  by_cases e : k = n
  · subst e; simp
  · have : n.toNat ≠ k.toNat := fun h => e (BitVec.eq_of_toNat_eq h.symm)
    simp [e, this]

/-- Read after write of a record: bits 191:184 read 0 (R67). -/
theorem RegFile.rcd_writeRec (r : RegFile) (k j : BitVec 5) (v : BitVec 256) :
    (r.writeRec k v).rcd j = if j = k then v &&& ~~~(0xFF#256 <<< 184) else r.rcd j := by
  unfold RegFile.writeRec RegFile.rcd
  rw [FMap.get_set]
  by_cases e : j = k
  · subst e; simp
  · have : j.toNat ≠ k.toNat := fun h => e (BitVec.eq_of_toNat_eq h)
    simp [e, this]

end Sys2Proof.Machine
end

