-- ==== Sys2Proof/Safety.lean ====
section
/-! DEFINITION. What counts as a safe run. -/

namespace Sys2Proof.Machine

/-- A step is safe when it answers a next state: it ends in no fault and no refusal. -/
def safe : Answer → Prop
  | .next _ => True
  | _ => False

/-- A state from which the next step is safe. -/
def State.safe (s : State) : Prop := Sys2Proof.Machine.safe (step s)

end Sys2Proof.Machine
end

