-- ==== Sys2Proof/Tests/Slice0.lean ====
section
/-! SUPPORT. Tests: ill-formed terms that WellFormed refuses, words written out from the spec's encodings, single steps on small
states, and for every statement with hypotheses a state and operands that meet them. Expected values come from spec/ by hand. -/

set_option Elab.async false

namespace Sys2Proof.Tests

open Sys2Proof.Machine

/-- An R word, an S word, an I word and an M word in short. -/
def rw_ (d a b : Nat) : RWord := { d := BitVec.ofNat 7 d, a := BitVec.ofNat 7 a, b := BitVec.ofNat 7 b, la := false, lb := false, nw := false }
def sw_ (d a b : Nat) : SWord := { d := BitVec.ofNat 7 d, a := BitVec.ofNat 7 a, b := BitVec.ofNat 7 b }
def iw_ (d a imm : Nat) : IWord := { d := BitVec.ofNat 7 d, a := BitVec.ofNat 7 a, imm := BitVec.ofNat 10 imm }
def mw_ (d x k : Nat) : MWord := { d := BitVec.ofNat 7 d, x := BitVec.ofNat 7 x, k := BitVec.ofNat 5 k, order := 0, scope := 0, e := false }

/-- A prefix without a guard, a prefix of layout E with type, c field and variant, and a guard by a predicate. -/
def ext_ (v : Nat) : Pre := some { gn := false, gp := 0, ge := false, ext := BitVec.ofNat 19 v }
def pre_ (ty c sub : Nat) : Pre := ext_ (ty * 2048 + c * 16 + sub)
def guard_ (n : Nat) : Pre := some { gn := false, gp := BitVec.ofNat 3 n, ge := true, ext := 0 }

/-- A record of a space (3 bits), with a base, an extent and a mode. -/
def rec_ (base extent space mode : Nat) : BitVec 256 :=
  BitVec.ofNat 256 (base + extent * 2 ^ 64 + mode * 2 ^ 160 + space * 2 ^ 163)

/-- Registers: v1 holds 1 in each lane and v2 the lane's number, s0 holds 5, p1 is set in every lane. -/
def regs_ (f : RegFile → RegFile := id) : RegFile :=
  let r := { RegFile.empty with units := 7 }
  f ((((r.write 1 0xFFFFFFFF fun _ => 1).write 2 0xFFFFFFFF fun l => BitVec.ofNat 32 l).write 112 1 fun _ => 5).writePred 1 0xFFFFFFFF 0xFFFFFFFF)

/-- One split of one group of one block of context 3 on core 0. -/
def split_ : Split := { Split.empty with live := true, pc := 0x1000, mask := 0xFFFFFFFF }
def group_ (f : Group → Group := id) : Group :=
  f { Group.empty with live := true, splits := [(0, split_)], nextSplit := 1, last := some 0, rf := regs_ }
def block_ (f : Group → Group := id) (h : Block → Block := id) : Block :=
  h { Block.empty with live := true, ctx := 3, part := 2, grid := 7, gang := 8, g := 1, u := 7, sp := 8, t := 8, f := 4, wsr := true,
                       groups := [(0, group_ f)] }
def ctx_ : Ctx := { Ctx.reset with created := true, part := 2, handler := 0x8000, res := .resident, ptroot := 0x200000 }
def at0 : GroupAt := { core := 0, block := 1, ix := 0 }
def one_ (f : Group → Group := id) (h : Block → Block := id) (k : State → State := id) : State :=
  k { State.reset with
      cores := [(0, { Core.reset with act := [(1, block_ f h)], age := 1 })]
      ctxs := [(3, ctx_)]
      parts := [(2, Part.reset)]
      grids := [(7, { Grid.empty with live := true, ctx := 3 })]
      gangs := [(8, { Gang.empty with live := true, grid := 7, blocks := [(0, 1)], left := 1 })]
      cur := .split at0 0
      nextId := 9 }

/-- The state with an argument of an event. -/
def ev_ (a : Arg) (f : Group → Group := id) (h : Block → Block := id) (k : State → State := id) : State := { one_ f h k with arg := a, cur := .nobody }

/-- A feed thread of the block is the issuer. -/
def feed_ (h : Block → Block := id) : State :=
  let th : Thread := { Thread.empty with live := true, sp := { split_ with mask := 1 }, rf := { RegFile.empty with units := 2 }, handle := 4 }
  { one_ id (fun b => h { b with threads := [(4, th)] }) with cur := .thread 0 1 4 }

/-- Whether the issuer of a state may run an instruction, as a Bool. -/
def mayB (s : State) (i : Instr) : Bool := s.hasIssuer && (s.resuming s.cur || s.readyFor i)

theorem may {s : State} {i : Instr} (h : mayB s i = true) : s.mayIssue i := by simpa [mayB, State.mayIssue] using h

/-- Whether the group's scoreboard has room, as a Bool. -/
def roomB (s : State) : Bool :=
  match s.cur with
  | .split g _ => s.resuming s.cur || decide (((s.group g).sb.filter (·.counts)).length < 16)
  | _ => true

theorem room {s : State} (h : roomB s = true) : s.boardFree := by
  unfold roomB at h
  unfold State.boardFree
  split <;> simp_all

/-- Whether nothing is left that goes before an access to a scratchpad, as a Bool. -/
def padsB (s : State) (rel : Bool) (scope : BitVec 2) (cls : Nat) : Bool :=
  s.resuming s.cur || (!s.acquireOwed s.cur &&
    (!rel || (!s.clsOwed s.cur cls s.nextId && (scope != 3 || !s.relaxedOwed s.cur.party s.nextId))))

theorem pads {s : State} {rel : Bool} {scope : BitVec 2} {cls : Nat} (h : padsB s rel scope cls = true) : s.padsFree rel scope cls := by
  unfold padsB at h
  unfold State.padsFree
  simp only [Bool.or_eq_true, Bool.and_eq_true, Bool.not_eq_true', bne_iff_ne, ne_eq] at h
  rcases h with h | ⟨h1, h2⟩
  · exact ⟨.inl h, fun _ => .inl h⟩
  · refine ⟨.inr h1, fun hr => .inr ?_⟩
    obtain ⟨h4, h5⟩ := h2.resolve_left (by simp [hr])
    exact ⟨h4, fun hs => h5.resolve_left fun hn => hn hs⟩

/-- Whether an access passes its checks at issue, as a Bool. -/
def freeB (s : State) (rel : Bool) (scope : BitVec 2) (ts : Targets) (cls : Nat) : Bool :=
  ts.all (fun x => decide (x.2 ≠ .bounds) && decide (x.2 ≠ .away)) && (!(ts.any (·.2.isScratch)) || padsB s rel scope cls)

theorem free {s : State} {rel : Bool} {scope : BitVec 2} {ts : Targets} {cls : Nat} (h : freeB s rel scope ts cls = true) :
    s.accessFree rel scope ts cls := by
  unfold freeB at h
  simp only [Bool.and_eq_true, Bool.or_eq_true, List.all_eq_true, decide_eq_true_eq, Bool.not_eq_true', ne_eq] at h
  exact ⟨h.1, fun ⟨x, hx, hs⟩ => pads (h.2.resolve_left fun hn =>
    absurd (List.any_eq_true.2 ⟨x, hx, hs⟩ : ts.any (·.2.isScratch) = true) (by simp only [hn]; decide))⟩

/-- Whether a full/empty instruction passes its checks at issue, as a Bool. -/
def feFreeB (s : State) (rel : Bool) (scope : BitVec 2) (ts : Targets) : Bool :=
  ts.all (fun x => decide (x.2 ≠ .bounds)) && (!(ts.any (·.2.isPad)) || padsB s rel scope 0)

theorem feFree {s : State} {rel : Bool} {scope : BitVec 2} {ts : Targets} (h : feFreeB s rel scope ts = true) : s.feFree rel scope ts := by
  unfold feFreeB at h
  simp only [Bool.and_eq_true, Bool.or_eq_true, List.all_eq_true, decide_eq_true_eq, Bool.not_eq_true', ne_eq] at h
  exact ⟨h.1, fun ⟨x, hx, hs⟩ => pads (h.2.resolve_left fun hn =>
    absurd (List.any_eq_true.2 ⟨x, hx, hs⟩ : ts.any (·.2.isPad) = true) (by simp only [hn]; decide))⟩

/-- Whether a split may enter the handler, as a Bool. -/
def trapB (s : State) (g : GroupAt) (sid : Nat) : Bool :=
  (((s.group g).split sid).depth != 0 || !(s.group g).othersInHandler sid) && decide ((s.group g).stack.length < 16) &&
    (s.ctx (s.block g.core g.block).ctx).handler != 0

theorem canTrap {s : State} {g : GroupAt} {sid : Nat} (h : trapB s g sid = true) : s.canTrap g sid := by
  unfold trapB at h
  unfold State.canTrap
  simp only [Bool.and_eq_true, Bool.or_eq_true, bne_iff_ne, ne_eq, Bool.not_eq_true', decide_eq_true_eq] at h
  exact ⟨fun hd => h.1.1.resolve_left fun hn => hn hd, h.1.2, h.2⟩

/-- Whether the answer is a next state that meets a condition. -/
def next (a : Answer) (f : State → Bool) : Bool :=
  match a with
  | .next t => f t
  | _ => false

/-! ## Well-formedness: a term for each check, refused -/

theorem test_wf_refuses_missing_prefix : (Instr.sel none (rw_ 5 1 2)).wf = false := by decide
theorem test_wf_refuses_guard_bits_without_guard : (Instr.add (some { gn := true, gp := 0, ge := false, ext := 0 }) (rw_ 5 1 2)).wf = false := by decide
theorem test_wf_refuses_rounding_code : (Instr.add (ext_ 0x10000) (rw_ 5 1 2)).wf = false := by decide
theorem test_wf_refuses_type_code : (Instr.ld (pre_ 31 0 0) (mw_ 4 2 1)).wf = false := by decide
theorem test_wf_refuses_c_field : (Instr.add (pre_ 0 1 0) (rw_ 5 1 2)).wf = false := by decide
theorem test_wf_refuses_variant : (Instr.add (pre_ 0 0 1) (rw_ 5 1 2)).wf = false := by decide
theorem test_wf_refuses_extended_immediate : (Instr.wbase (ext_ 1) (iw_ 0 0 4)).wf = false := by decide
theorem test_wf_refuses_latch_where_none_is_read : (Instr.ballot none { rw_ 5 1 0 with la := true }).wf = false := by decide
theorem test_wf_refuses_latch_beyond_b3 : (Instr.add none { rw_ 5 4 2 with la := true }).wf = false := by decide
theorem test_wf_refuses_latch_b_beyond_b3 : (Instr.add none { rw_ 5 1 4 with lb := true }).wf = false := by decide
theorem test_wf_refuses_destination_of_suppressed_write : (Instr.add none { rw_ 5 1 2 with nw := true }).wf = false := by decide
theorem test_wf_refuses_predicate_of_suppressed_compare : (Instr.cmpI32 none { rw_ 1 1 2 with nw := true }).wf = false := by decide
theorem test_wf_refuses_integer_condition_6 : (Instr.cmpI32 none (rw_ (6 * 8) 1 2)).wf = false := by decide
theorem test_wf_refuses_float_condition_8 : (Instr.cmpF32 none (rw_ (8 * 8) 1 2)).wf = false := by decide
theorem test_wf_refuses_odd_pair : (Instr.madwI32 (pre_ 0 2 0) (rw_ 5 1 2)).wf = false := by decide
theorem test_wf_refuses_odd_pair_of_type : (Instr.ld (pre_ 7 0 0) (mw_ 5 2 1)).wf = false := by decide
theorem test_wf_refuses_quad_off_four : (Instr.ldB128 none (mw_ 6 2 1)).wf = false := by decide
theorem test_wf_refuses_unused_field : (Instr.not none (rw_ 5 1 2)).wf = false := by decide
theorem test_wf_refuses_window_base_32 : (Instr.wbase none (iw_ 0 0 32)).wf = false := by decide
theorem test_wf_refuses_queue_16 : (Instr.qpush none (sw_ 16 1 0)).wf = false := by decide
theorem test_wf_refuses_tile_32 : (Instr.aclr none (sw_ 32 0 0)).wf = false := by decide
theorem test_wf_refuses_fence_record : (Instr.fence none (mw_ 0 0 1)).wf = false := by decide
theorem test_wf_refuses_class_5 : (Instr.xfence none (mw_ 5 0 0)).wf = false := by decide
theorem test_wf_refuses_event_bit_8 : (Instr.evset none (iw_ 0 0 256)).wf = false := by decide
theorem test_wf_refuses_event_index_register_unused : (Instr.evset none (iw_ 0 1 3)).wf = false := by decide
theorem test_wf_refuses_stochastic_rounding_to_f32 : (Instr.cvtFromI32 (ext_ (4 * 65536 + 9 * 2048)) (rw_ 5 1 0)).wf = false := by decide
theorem test_wf_accepts : (Instr.add none (rw_ 5 1 2)).wf = true ∧ (Instr.ld (pre_ 7 0 0) (mw_ 6 2 1)).wf = true ∧
    (Instr.evset none (iw_ 0 1 (512 + 3))).wf = true ∧ (Instr.sel (pre_ 0 7 0) (rw_ 5 1 2)).wf = true := by decide

/-! ## Decoding: words from the spec's encodings (R152 to R154) and its examples (R169, R172, R200, R221, R240, R266, R267, R272) -/

theorem test_decode_add_bits : decode (wordBytes (0x20#8 ++ 5#7 ++ 2#7 ++ 3#7 ++ 0#1 ++ 0#1 ++ 0#1)) = .ok (.add none ⟨5, 2, 3, false, false, false⟩, []) := rfl
theorem test_decode_shl_latch_bits : decode (wordBytes (0x41#8 ++ 0#7 ++ 0#7 ++ 9#7 ++ 1#1 ++ 0#1 ++ 1#1)) = .ok (.shl none ⟨0, 0, 9, true, false, true⟩, []) := rfl
theorem test_decode_addi_bits : decode (wordBytes (0xFE#8 ++ 1#1 ++ 2#3 ++ 1#1 ++ 97#19) ++ wordBytes (0x21#8 ++ 6#7 ++ 1#7 ++ 0x2A0#10)) = .ok (.addi (some ⟨true, 2, true, 97⟩) ⟨6, 1, 0x2A0⟩, []) := rfl
theorem test_decode_ld_bits : decode (wordBytes (0xB0#8 ++ 4#7 ++ 8#7 ++ 3#5 ++ 1#2 ++ 2#2 ++ 0#1)) = .ok (.ld none ⟨4, 8, 3, 1, 2, false⟩, []) := rfl
theorem test_decode_fork_bits : decode (wordBytes (0xF0#8 ++ 12#24)) = .ok (.fork none 12, []) := rfl
theorem test_decode_shoot_bits : decode (wordBytes (0xFD#8 ++ 0#7 ++ 2#7 ++ 3#7 ++ 1#2 ++ 0#1)) = .ok (.shoot none ⟨0, 2, 3⟩, []) := rfl
theorem test_decode_movi : decode (wordBytes 0xFE000015 ++ wordBytes 0x53060278) = .ok (.movi (ext_ 21) ⟨3, 0, 0x278⟩, []) := rfl
theorem test_decode_movh : decode (wordBytes 0xFE000004 ++ wordBytes 0x54060E34) = .ok (.movh (ext_ 4) ⟨3, 3, 0x234⟩, []) := rfl
theorem test_decode_wbase : decode (wordBytes 0x0F000010) = .ok (.wbase none ⟨0, 0, 16⟩, []) := rfl
theorem test_decode_ret : decode (wordBytes 0x0D000000) = .ok (.ret none ⟨0, 0, 0⟩, []) := rfl
theorem test_decode_exit : decode (wordBytes 0x0E000000) = .ok (.exit none 0, []) := rfl
theorem test_decode_bra : decode (wordBytes 0x02FFFFDB) = .ok (.bra none 0xFFFFDB, []) := rfl
theorem test_decode_brc_any : decode (wordBytes 0x04040002) = .ok (.brcAny none ⟨2, 0, 2⟩, []) := rfl
theorem test_decode_brd_nz : decode (wordBytes 0x0A0013F8) = .ok (.brdNz none ⟨0, 4, 0x3F8⟩, []) := rfl
theorem test_decode_shfli_down : decode (wordBytes 0xA0040410) = .ok (.shfliDown none ⟨2, 1, 16⟩, []) := rfl
theorem test_decode_cmpi : decode (wordBytes 0x9352000C) = .ok (.cmpiI32 none ⟨41, 0, 12⟩, []) := rfl
theorem test_decode_bfxr : decode (wordBytes 0x58000C31) = .ok (.bfxrN32 none ⟨0, 3, 6, false, false, true⟩, []) := rfl
theorem test_decode_redux : decode (wordBytes 0xA6122000) = .ok (.reduxAdd none ⟨9, 8, 0, false, false, false⟩, []) := rfl
theorem test_decode_fmul : decode (wordBytes 0x623E7C1A) = .ok (.fmul none ⟨31, 31, 3, false, true, false⟩, []) := rfl
theorem test_decode_frcp : decode (wordBytes 0x68006C01) = .ok (.frcp none ⟨0, 27, 0, false, false, true⟩, []) := rfl
theorem test_decode_cvt_sr : decode (wordBytes 0xFE046000 ++ wordBytes 0x79121C00) = .ok (.cvtFromF32 (ext_ (4 * 65536 + 12 * 2048)) ⟨9, 7, 0, false, false, false⟩, []) := rfl
theorem test_decode_st_rel : decode (wordBytes 0xB20A2454) = .ok (.st none ⟨5, 9, 2, 2, 2, false⟩, []) := rfl
theorem test_decode_ld_i8 : decode (wordBytes 0xFE000800 ++ wordBytes 0xB0082064) = .ok (.ld (pre_ 1 0 0) ⟨4, 8, 3, 0, 2, false⟩, []) := rfl
theorem test_decode_atom_cas : decode (wordBytes 0xFE000060 ++ wordBytes 0xC6080824) = .ok (.atomCas (pre_ 0 6 0) ⟨4, 2, 1, 0, 2, false⟩, []) := rfl
theorem test_decode_atom_xchg : decode (wordBytes 0xC5062020) = .ok (.atomXchg none ⟨3, 8, 1, 0, 0, false⟩, []) := rfl
theorem test_decode_ldt : decode (wordBytes 0xFE580040 ++ wordBytes 0xB92644C4) = .ok (.ldt (some ⟨false, 5, true, 64⟩) ⟨19, 17, 6, 0, 2, false⟩, []) := rfl
theorem test_decode_xfence : decode (wordBytes 0xD1100000) = .ok (.xfence none ⟨8, 0, 0, 0, 0, false⟩, []) := rfl
theorem test_decode_qpop : decode (wordBytes 0xD7120C00) = .ok (.qpop none ⟨9, 3, 0⟩, []) := rfl
theorem test_decode_qinit : decode (wordBytes 0xDA05C03F) = .ok (.qinit none ⟨2, 112, 63⟩, []) := rfl
theorem test_decode_evwait : decode (wordBytes 0xDB01FA00) = .ok (.evwait none ⟨0, 126, 0x200⟩, []) := rfl
theorem test_decode_mma : decode (wordBytes 0xFE000800 ++ wordBytes 0xE0081048) = .ok (.mma (pre_ 1 0 0) ⟨4, 4, 9⟩, []) := rfl
theorem test_decode_cmma : decode (wordBytes 0xFE008000 ++ wordBytes 0xE2100060) = .ok (.cmma (pre_ 16 0 0) ⟨8, 0, 12⟩, []) := rfl
theorem test_decode_aclr : decode (wordBytes 0xE3000C00) = .ok (.aclr none ⟨0, 3, 0⟩, []) := rfl
theorem test_decode_ast : decode (wordBytes 0xE6001444) = .ok (.ast none ⟨0, 5, 2, 0, 2, false⟩, []) := rfl
theorem test_decode_bndthr : decode (wordBytes 0xEA00000D) = .ok (.bndthr none ⟨0, 0, 13⟩, []) := rfl
theorem test_decode_cvtq : decode (wordBytes 0xEC100060) = .ok (.cvtq none ⟨8, 0, 12⟩, []) := rfl
theorem test_decode_srseed : decode (wordBytes 0xED000C00) = .ok (.srseed none ⟨0, 3, 0⟩, []) := rfl
theorem test_decode_smerge : decode (wordBytes 0xEE286800) = .ok (.smerge none ⟨20, 26, 0⟩, []) := rfl
theorem test_decode_rdv_all : decode (wordBytes 0xFE000001 ++ wordBytes 0xF1000000) = .ok (.rdvAll (pre_ 0 0 1) ⟨0, 0, 0⟩, []) := rfl
theorem test_decode_acopy_b : decode (wordBytes 0xFE000096 ++ wordBytes 0xF2020C44) = .ok (.acopyB (pre_ 0 9 6) ⟨1, 3, 2, 0, 2, false⟩, []) := rfl
theorem test_decode_bcopy : decode (wordBytes 0xFE000090 ++ wordBytes 0xF4081430) = .ok (.bcopy (pre_ 0 9 0) ⟨4, 5, 6⟩, []) := rfl
theorem test_decode_cains_n : decode (wordBytes 0xF6242032) = .ok (.cainsN none ⟨18, 8, 6⟩, []) := rfl
theorem test_decode_caref_pin : decode (wordBytes 0xF70C0806) = .ok (.carefPin none ⟨6, 2, 0⟩, []) := rfl
theorem test_decode_caget : decode (wordBytes 0xF7105000) = .ok (.caget none ⟨8, 20, 0⟩, []) := rfl
theorem test_decode_caswap : decode (wordBytes 0xFE180120 ++ wordBytes 0xF82C0804) = .ok (.caswap (some ⟨false, 1, true, 288⟩) ⟨22, 2, 0, 0, 2, false⟩, []) := rfl
theorem test_decode_kvwalk : decode (wordBytes 0xFE0000C0 ++ wordBytes 0xF9280C48) = .ok (.kvwalk (pre_ 0 12 0) ⟨20, 3, 9⟩, []) := rfl
theorem test_decode_launch : decode (wordBytes 0xFA000828) = .ok (.launch none ⟨0, 2, 5⟩, []) := rfl
theorem test_decode_sysrd : decode (wordBytes 0xFBFBE430) = .ok (.sysrd none ⟨125, 121, 0x030⟩, []) := rfl
theorem test_decode_uien : decode (wordBytes 0xFD000406) = .ok (.uien none ⟨0, 1, 0⟩, []) := rfl
theorem test_decode_refuses_zero : decode (wordBytes 0) = .error .reservedWord := rfl
theorem test_decode_refuses_opcode_14 : decode (wordBytes 0x14000000) = .error .reservedOpcode := rfl
theorem test_decode_refuses_selector : decode (wordBytes (0x0D#8 ++ 0#21 ++ 1#2 ++ 0#1)) ≠ .ok (.ret none ⟨0, 0, 0⟩, []) := by decide
theorem test_decode_refuses_two_prefixes : decode (wordBytes 0xFE000000 ++ wordBytes 0xFE000000) = .error .doublePrefix := rfl
theorem test_decode_refuses_short_bytes : decode [0, 0, 0] = .error .truncated := rfl
theorem test_decodeTableWord : decodeTableWord 32 0x200A0818 = some (.add none (rw_ 5 2 3)) ∧
    decodeTableWord 64 (0xFE000015 + 0x53060278 * 2 ^ 32) = some (.movi (ext_ 21) (iw_ 3 0 0x278)) := by decide +kernel

/-- Words of each class that ReservedWordsRefused names, at the edges of its runs; and well-formed instructions with words. -/
theorem witness_ReservedWordsRefused : ∀ op ∈ [0, 0x14, 0x1F, 0x5B, 0x5F, 0x88, 0x8F, 0xEF], (let v : BitVec 32 := BitVec.ofNat 32 (op * 2 ^ 24 + 1)
    v ≠ 0 ∧ v ≠ 0xFFFFFFFF ∧ (v.extractLsb' 24 8).toNat = op) ∧ isPrefixWord 0xFE000000 = true ∧ ((0xF4000004 : BitVec 32).extractLsb' 0 3).toNat = 4 ∧
    (0xF4000004 : BitVec 32).getLsbD 0 = false ∧ (0xBE000001 : BitVec 32).getLsbD 0 = true := by decide +kernel

theorem witness_DecodeOfEncode : ∀ i ∈ [Instr.add none (rw_ 5 2 3), .movi (ext_ 21) (iw_ 3 0 0x278), .bar], i.wf = true ∧ i.words?.isSome = true := by decide +kernel

/-! Every instruction row of the opcode table, with operand fields filled in: d is 8, a and x are 4, b is 12, c is 20, k is 3, the
immediate 24 (or what of it the field holds). The match value is the table's, the fields stand where R152 and R154 put them. -/

theorem test_decode_table_control : ∀ x ∈ ([
    (32, 0x01000000, .nop), (32, 0x02000018, .bra none 0x18), (32, 0x03001000, .braR none (sw_ 0 4 0)), (32, 0x040A0018, .brcAny none (iw_ 5 0 24)),
    (32, 0x050A0018, .brcAll none (iw_ 5 0 24)), (32, 0x06001018, .brcZ none (iw_ 0 4 24)), (32, 0x07001018, .brcNz none (iw_ 0 4 24)),
    (32, 0x080A0018, .brd none (iw_ 5 0 24)), (32, 0x09001018, .brdZ none (iw_ 0 4 24)), (32, 0x0A001018, .brdNz none (iw_ 0 4 24)), (32, 0x0B000018, .call none 0x18),
    (32, 0x0C001000, .callR none (sw_ 0 4 0)), (32, 0x0D000000, .ret none (sw_ 0 0 0)), (32, 0x0E000000, .exit none 0x0), (32, 0x0F000018, .wbase none (iw_ 0 0 24)),
    (32, 0x10001000, .wbaseR none (sw_ 0 4 0)), (32, 0x11000000, .yield none 0x0), (32, 0x12000018, .trap none 0x18), (32, 0x13000000, .spop none 0x0)] : List (Nat × Nat × Instr)), decodeTableWord x.1 x.2.1 = some x.2.2 := by decide +kernel

theorem test_decode_table_integer : ∀ x ∈ ([
    (32, 0x20101060, .add none (rw_ 8 4 12)), (32, 0x21101018, .addi none (iw_ 8 4 24)), (32, 0x22101060, .sub none (rw_ 8 4 12)),
    (32, 0x23101060, .addSatI32 none (rw_ 8 4 12)), (32, 0x24101060, .addSatN32 none (rw_ 8 4 12)), (32, 0x25101060, .subSatI32 none (rw_ 8 4 12)),
    (32, 0x26101060, .subSatN32 none (rw_ 8 4 12)), (32, 0x27101060, .mul none (rw_ 8 4 12)), (32, 0x28101018, .muli none (iw_ 8 4 24)),
    (32, 0x29101060, .mulhI32 none (rw_ 8 4 12)), (32, 0x2A101060, .mulhN32 none (rw_ 8 4 12)), (32, 0x2E101060, .minI32 none (rw_ 8 4 12)),
    (32, 0x2F101060, .minN32 none (rw_ 8 4 12)), (32, 0x30101060, .maxI32 none (rw_ 8 4 12)), (32, 0x31101060, .maxN32 none (rw_ 8 4 12)),
    (32, 0x32101018, .miniI32 none (iw_ 8 4 24)), (32, 0x33101018, .miniN32 none (iw_ 8 4 24)), (32, 0x34101018, .maxiI32 none (iw_ 8 4 24)),
    (32, 0x35101018, .maxiN32 none (iw_ 8 4 24)), (32, 0x36101000, .abs none (rw_ 8 4 0)), (32, 0x37101000, .neg none (rw_ 8 4 0)),
    (32, 0x38101060, .and none (rw_ 8 4 12)), (32, 0x39101018, .andi none (iw_ 8 4 24)), (32, 0x3A101060, .or none (rw_ 8 4 12)),
    (32, 0x3B101018, .ori none (iw_ 8 4 24)), (32, 0x3C101060, .xor none (rw_ 8 4 12)), (32, 0x3D101018, .xori none (iw_ 8 4 24)),
    (32, 0x3E101000, .not none (rw_ 8 4 0)), (32, 0x3F101060, .andn none (rw_ 8 4 12)), (32, 0x40101018, .andni none (iw_ 8 4 24)),
    (32, 0x41101060, .shl none (rw_ 8 4 12)), (32, 0x42101018, .shli none (iw_ 8 4 24)), (32, 0x43101060, .shr none (rw_ 8 4 12)),
    (32, 0x44101018, .shri none (iw_ 8 4 24)), (32, 0x45101060, .sha none (rw_ 8 4 12)), (32, 0x46101018, .shai none (iw_ 8 4 24)),
    (32, 0x47101060, .rol none (rw_ 8 4 12)), (32, 0x48101018, .roli none (iw_ 8 4 24)), (32, 0x49101060, .ror none (rw_ 8 4 12)),
    (32, 0x4A101000, .popc none (rw_ 8 4 0)), (32, 0x4B101000, .clz none (rw_ 8 4 0)), (32, 0x4C101000, .ctz none (rw_ 8 4 0)), (32, 0x4D101000, .brev none (rw_ 8 4 0)),
    (32, 0x4E101005, .bfxI32 none (iw_ 8 4 5)), (32, 0x4F101005, .bfxN32 none (iw_ 8 4 5)), (32, 0x50101005, .bfi none (iw_ 8 4 5)),
    (32, 0x52101000, .mov none (rw_ 8 4 0)), (32, 0x53100018, .movi none (iw_ 8 0 24)), (32, 0x54101018, .movh none (iw_ 8 4 24)),
    (32, 0x55101060, .lea none (rw_ 8 4 12)), (32, 0x56101018, .leai none (iw_ 8 4 24)), (32, 0x57101060, .bfxrI32 none (rw_ 8 4 12)),
    (32, 0x58101060, .bfxrN32 none (rw_ 8 4 12)), (32, 0x59101060, .bfir none (rw_ 8 4 12)), (32, 0x5A101018, .rsubi none (iw_ 8 4 24))] : List (Nat × Nat × Instr)), decodeTableWord x.1 x.2.1 = some x.2.2 := by decide +kernel

theorem test_decode_table_float : ∀ x ∈ ([
    (32, 0x60101060, .fadd none (rw_ 8 4 12)), (32, 0x61101060, .fsub none (rw_ 8 4 12)), (32, 0x62101060, .fmul none (rw_ 8 4 12)),
    (32, 0x66101060, .fmin none (rw_ 8 4 12)), (32, 0x67101060, .fmax none (rw_ 8 4 12)), (32, 0x68101000, .frcp none (rw_ 8 4 0)),
    (32, 0x69101000, .frsq none (rw_ 8 4 0)), (32, 0x6A101000, .fsqrt none (rw_ 8 4 0)), (32, 0x6B101000, .fexp2 none (rw_ 8 4 0)),
    (32, 0x6C101000, .flog2 none (rw_ 8 4 0)), (32, 0x6D101000, .fclass none (rw_ 8 4 0)), (32, 0x6E101060, .faddX2 none (rw_ 8 4 12)),
    (32, 0x6F101060, .fsubX2 none (rw_ 8 4 12))] : List (Nat × Nat × Instr)), decodeTableWord x.1 x.2.1 = some x.2.2 := by decide +kernel

theorem test_decode_table_convert : ∀ x ∈ ([
    (32, 0x70101060, .fmulX2 none (rw_ 8 4 12)), (32, 0x72101060, .fminX2 none (rw_ 8 4 12)), (32, 0x73101060, .fmaxX2 none (rw_ 8 4 12)),
    (32, 0x74101000, .frcpX2 none (rw_ 8 4 0)), (32, 0x75101000, .frsqX2 none (rw_ 8 4 0)), (32, 0x76101000, .fsqrtX2 none (rw_ 8 4 0)),
    (32, 0x77101000, .fexp2X2 none (rw_ 8 4 0)), (32, 0x78101000, .flog2X2 none (rw_ 8 4 0)), (32, 0x79101000, .cvtFromF32 none (rw_ 8 4 0)),
    (32, 0x7A101000, .cvtFromF16 none (rw_ 8 4 0)), (32, 0x7B101000, .cvtFromBf16 none (rw_ 8 4 0)), (32, 0x7C101000, .cvtFromE4m3 none (rw_ 8 4 0)),
    (32, 0x7D101000, .cvtFromE5m2 none (rw_ 8 4 0)), (32, 0x7E101000, .cvtFromI32 none (rw_ 8 4 0)), (32, 0x7F101000, .cvtFromN32 none (rw_ 8 4 0))] : List (Nat × Nat × Instr)), decodeTableWord x.1 x.2.1 = some x.2.2 := by decide +kernel

theorem test_decode_table_lanes : ∀ x ∈ ([
    (32, 0x80101000, .cvtFromI64 none (rw_ 8 4 0)), (32, 0x81101000, .cvtFromN64 none (rw_ 8 4 0)), (32, 0x82101000, .cvtFromI16 none (rw_ 8 4 0)),
    (32, 0x83101000, .cvtFromN16 none (rw_ 8 4 0)), (32, 0x84101000, .cvtFromI8 none (rw_ 8 4 0)), (32, 0x85101000, .cvtFromN8 none (rw_ 8 4 0)),
    (32, 0x86101000, .cvtFromI4 none (rw_ 8 4 0)), (32, 0xA0101018, .shfliDown none (iw_ 8 4 24)), (32, 0xA1101018, .shfliXor none (iw_ 8 4 24)),
    (32, 0xA2001000, .voteAny none (rw_ 0 4 0)), (32, 0xA3001000, .voteAll none (rw_ 0 4 0)), (32, 0xA4001000, .voteEq none (rw_ 0 4 0)),
    (32, 0xA5101000, .ballot none (rw_ 8 4 0)), (32, 0xA6101000, .reduxAdd none (rw_ 8 4 0)), (32, 0xA7101000, .reduxMinI32 none (rw_ 8 4 0)),
    (32, 0xA8101000, .reduxMinN32 none (rw_ 8 4 0)), (32, 0xA9101000, .reduxMaxI32 none (rw_ 8 4 0)), (32, 0xAA101000, .reduxMaxN32 none (rw_ 8 4 0)),
    (32, 0xAB101000, .reduxAnd none (rw_ 8 4 0)), (32, 0xAC101000, .reduxOr none (rw_ 8 4 0)), (32, 0xAD101000, .reduxXor none (rw_ 8 4 0))] : List (Nat × Nat × Instr)), decodeTableWord x.1 x.2.1 = some x.2.2 := by decide +kernel

theorem test_decode_table_compare : ∀ x ∈ ([
    (32, 0x904A1060, .cmpI32 none (rw_ 37 4 12)), (32, 0x914A1060, .cmpN32 none (rw_ 37 4 12)), (32, 0x924A1060, .cmpF32 none (rw_ 37 4 12)),
    (32, 0x934A1018, .cmpiI32 none (iw_ 37 4 24)), (32, 0x944A1018, .cmpiN32 none (iw_ 37 4 24)), (32, 0x95001020, .pand none (rw_ 0 4 4)),
    (32, 0x96001020, .por none (rw_ 0 4 4)), (32, 0x97001020, .pxor none (rw_ 0 4 4)), (32, 0x98001000, .pnot none (rw_ 0 4 0)),
    (32, 0x99001000, .pmov none (rw_ 0 4 0)), (32, 0x9A101060, .shflIdx none (rw_ 8 4 12)), (32, 0x9B101060, .shflUp none (rw_ 8 4 12)),
    (32, 0x9C101060, .shflDown none (rw_ 8 4 12)), (32, 0x9D101060, .shflXor none (rw_ 8 4 12)), (32, 0x9E101018, .shfliIdx none (iw_ 8 4 24)),
    (32, 0x9F101018, .shfliUp none (iw_ 8 4 24))] : List (Nat × Nat × Instr)), decodeTableWord x.1 x.2.1 = some x.2.2 := by decide +kernel

theorem test_decode_table_memory : ∀ x ∈ ([
    (32, 0xB0101060, .ld none (mw_ 8 4 3)), (32, 0xB1101060, .ldB128 none (mw_ 8 4 3)), (32, 0xB2101060, .st none (mw_ 8 4 3)),
    (32, 0xB3101060, .stB128 none (mw_ 8 4 3)), (32, 0xB4101060, .ldfeKeep none (mw_ 8 4 3)), (32, 0xB5101060, .ldfeClr none (mw_ 8 4 3)),
    (32, 0xB6101060, .stfe none (mw_ 8 4 3)), (32, 0xB7001060, .feset none (mw_ 0 4 3)), (32, 0xB8001060, .feclr none (mw_ 0 4 3)),
    (32, 0xBA001060, .pref none (mw_ 0 4 3)), (32, 0xBB101060, .rld none (mw_ 8 4 3)), (32, 0xBC101000, .rset none (iw_ 8 4 0)),
    (32, 0xBD101000, .rget none (iw_ 8 4 0)), (32, 0xBE101000, .rmov none (sw_ 8 4 0)), (32, 0xBF101060, .atomAdd none (mw_ 8 4 3))] : List (Nat × Nat × Instr)), decodeTableWord x.1 x.2.1 = some x.2.2 := by decide +kernel

theorem test_decode_table_atomics : ∀ x ∈ ([
    (32, 0xC0101060, .atomMin none (mw_ 8 4 3)), (32, 0xC1101060, .atomMax none (mw_ 8 4 3)), (32, 0xC2101060, .atomAnd none (mw_ 8 4 3)),
    (32, 0xC3101060, .atomOr none (mw_ 8 4 3)), (32, 0xC4101060, .atomXor none (mw_ 8 4 3)), (32, 0xC5101060, .atomXchg none (mw_ 8 4 3)),
    (32, 0xC7101060, .atomIncw none (mw_ 8 4 3)), (32, 0xC8101060, .redAdd none (mw_ 8 4 3)), (32, 0xC9101060, .redMin none (mw_ 8 4 3)),
    (32, 0xCA101060, .redMax none (mw_ 8 4 3)), (32, 0xCB101060, .redAnd none (mw_ 8 4 3)), (32, 0xCC101060, .redOr none (mw_ 8 4 3)),
    (32, 0xCD101060, .redXor none (mw_ 8 4 3)), (32, 0xCE101060, .atomfAdd none (mw_ 8 4 3))] : List (Nat × Nat × Instr)), decodeTableWord x.1 x.2.1 = some x.2.2 := by decide +kernel

theorem test_decode_table_order : ∀ x ∈ ([
    (32, 0xD0000000, .fence none (mw_ 0 0 0)), (32, 0xD1020000, .xfence none (mw_ 1 0 0)), (32, 0xD2000000, .bar), (32, 0xD3000000, .bara), (32, 0xD4000000, .barw),
    (32, 0xD5000000, .gbar), (32, 0xD6061000, .qpush none (sw_ 3 4 0)), (32, 0xD7100C00, .qpop none (sw_ 8 3 0)), (32, 0xD8100C28, .qtry none (sw_ 8 3 5)),
    (32, 0xD9060018, .qallow none (iw_ 3 0 24)), (32, 0xDA061018, .qinit none (iw_ 3 4 24)), (32, 0xDB001218, .evwait none (iw_ 0 4 536)),
    (32, 0xDC001218, .evset none (iw_ 0 4 536)), (32, 0xDD001218, .evclr none (iw_ 0 4 536)), (32, 0xDE0A1218, .evtest none (iw_ 5 4 536))] : List (Nat × Nat × Instr)), decodeTableWord x.1 x.2.1 = some x.2.2 := by decide +kernel

theorem test_decode_table_matrix : ∀ x ∈ ([
    (32, 0xE0101060, .mma none (sw_ 8 4 12)), (32, 0xE1101060, .mmaW none (sw_ 8 4 12)), (32, 0xE2101060, .cmma none (sw_ 8 4 12)),
    (32, 0xE3101000, .aclr none (sw_ 8 4 0)), (32, 0xE4101060, .adrain none (mw_ 8 4 3)), (32, 0xE5101060, .afill none (mw_ 8 4 3)),
    (32, 0xE6101060, .ast none (mw_ 8 4 3)), (32, 0xE7101000, .amov none (sw_ 8 4 0)), (32, 0xE8101000, .bndrd none (sw_ 8 4 0)),
    (32, 0xE9101000, .bndwr none (sw_ 8 4 0)), (32, 0xEA100003, .bndthr none (iw_ 8 0 3)), (32, 0xEB100000, .bndchk none (sw_ 8 0 0)),
    (32, 0xEC101060, .cvtq none (sw_ 8 4 12)), (32, 0xED001000, .srseed none (sw_ 0 4 0)), (32, 0xEE101000, .smerge none (sw_ 8 4 0))] : List (Nat × Nat × Instr)), decodeTableWord x.1 x.2.1 = some x.2.2 := by decide +kernel

theorem test_decode_table_engines : ∀ x ∈ ([
    (32, 0xF0000018, .fork none 0x18), (32, 0xF1001000, .rdv none (sw_ 0 4 0)), (32, 0xF2101060, .acopy none (mw_ 8 4 3)), (32, 0xF3101060, .mfill none (mw_ 8 4 3)),
    (32, 0xF4101062, .cacopy none (sw_ 8 4 12)), (32, 0xF5001000, .acwait none (sw_ 0 4 0)), (32, 0xF5001002, .bcwait none (sw_ 0 4 0)),
    (32, 0xF6101060, .cains none (sw_ 8 4 12)), (32, 0xF6101062, .cainsN none (sw_ 8 4 12)), (32, 0xF7101000, .caget none (sw_ 8 4 0)),
    (32, 0xF7001002, .carefInc none (sw_ 0 4 0)), (32, 0xF7001004, .carefDec none (sw_ 0 4 0)), (32, 0xF7101006, .carefPin none (sw_ 8 4 0)),
    (32, 0xF9101062, .cawalk none (sw_ 8 4 12)), (32, 0xFA001060, .launch none (sw_ 0 4 12)), (32, 0xFB101018, .sysrd none (iw_ 8 4 24)),
    (32, 0xFC101018, .syswr none (iw_ 8 4 24)), (32, 0xFD001060, .tlbinv none (sw_ 0 4 12)), (32, 0xFD001062, .shoot none (sw_ 0 4 12)),
    (32, 0xFD001064, .ctxsw none (sw_ 0 4 12)), (32, 0xFD001006, .uien none (sw_ 0 4 0))] : List (Nat × Nat × Instr)), decodeTableWord x.1 x.2.1 = some x.2.2 := by decide +kernel

/-- The rows that need a prefix (R154): c is 20 or a predicate, sub as the rule of the row says. -/
theorem test_decode_table_prefixed : ∀ x ∈ ([
    (64, 0x2B101060FE000140, .mad (ext_ 0x140) (rw_ 8 4 12)), (64, 0x2C101060FE000140, .madwI32 (ext_ 0x140) (rw_ 8 4 12)),
    (64, 0x2D101060FE000140, .madwN32 (ext_ 0x140) (rw_ 8 4 12)), (64, 0x63101060FE000140, .ffma (ext_ 0x140) (rw_ 8 4 12)),
    (64, 0x64101060FE000140, .ffms (ext_ 0x140) (rw_ 8 4 12)), (64, 0x65101060FE000140, .fnma (ext_ 0x140) (rw_ 8 4 12)),
    (64, 0x71101060FE000140, .ffmaX2 (ext_ 0x140) (rw_ 8 4 12)), (64, 0x51101060FE000070, .sel (ext_ 0x70) (rw_ 8 4 12)),
    (64, 0x87101060FE006001, .cvtPkHi (ext_ 0x6001) (rw_ 8 4 12)), (64, 0xB9101060FE000040, .ldt (ext_ 0x40) (mw_ 8 4 3)),
    (64, 0xC6101060FE000140, .atomCas (ext_ 0x140) (mw_ 8 4 3)), (64, 0xCE101060FE000002, .atomfMax (ext_ 0x2) (mw_ 8 4 3)),
    (64, 0xE6101060FE000002, .astI (ext_ 0x2) (mw_ 8 4 3)), (64, 0xE7061060FE000002, .amovPut (ext_ 0x2) (sw_ 3 4 12)),
    (64, 0xE8101000FE000001, .bndrdK (ext_ 0x1) (sw_ 8 4 0)), (64, 0xF0000018FE000141, .forkHandle (ext_ 0x141) 24),
    (64, 0xF1000000FE000001, .rdvAll (ext_ 0x1) (sw_ 0 0 0)), (64, 0xF2061060FE000146, .acopyB (ext_ 0x146) (mw_ 3 4 3)),
    (64, 0xF8101060FE000140, .caswap (ext_ 0x140) (mw_ 8 4 3)), (64, 0xF9100C60FE000140, .kvwalk (ext_ 0x140) (sw_ 8 3 12)),
    (64, 0xFD001062FE000141, .shootCtx (ext_ 0x141) (sw_ 0 4 12))] : List (Nat × Nat × Instr)), decodeTableWord x.1 x.2.1 = some x.2.2 := by decide +kernel

/-! ## The condition to issue is met: for every instruction, in the small state, by a split; and for those that feed threads execute, by
a feed thread -/

/-- Every instruction of an R word may issue. -/
theorem witness_issue_R : ∀ f ∈ ([
    .add, .sub, .addSatI32, .addSatN32, .subSatI32, .subSatN32, .mul, .mulhI32, .mulhN32, .mad, .madwI32, .madwN32, .minI32,
    .minN32, .maxI32, .maxN32, .abs, .neg, .and, .or, .xor, .not, .andn, .shl, .shr, .sha, .rol, .ror, .popc, .clz, .ctz,
    .brev, .sel, .mov, .lea, .bfxrI32, .bfxrN32, .bfir, .fadd, .fsub, .fmul, .ffma, .ffms, .fnma, .fmin, .fmax, .frcp,
    .frsq, .fsqrt, .fexp2, .flog2, .fclass, .faddX2, .fsubX2, .fmulX2, .ffmaX2, .fminX2, .fmaxX2, .frcpX2, .frsqX2,
    .fsqrtX2, .fexp2X2, .flog2X2, .cvtFromF32, .cvtFromF16, .cvtFromBf16, .cvtFromE4m3, .cvtFromE5m2, .cvtFromI32,
    .cvtFromN32, .cvtFromI64, .cvtFromN64, .cvtFromI16, .cvtFromN16, .cvtFromI8, .cvtFromN8, .cvtFromI4, .cvtPk, .cvtPkHi,
    .cmpI32, .cmpN32, .cmpF32, .pand, .por, .pxor, .pnot, .pmov, .shflIdx, .shflUp, .shflDown, .shflXor, .voteAny, .voteAll,
    .voteEq, .ballot, .reduxAdd, .reduxMinI32, .reduxMinN32, .reduxMaxI32, .reduxMaxN32, .reduxAnd, .reduxOr, .reduxXor] : List (Pre → RWord → Instr)),
    one_.mayIssue (f none (rw_ 4 1 2)) ∧ one_.activeFor (f none (rw_ 4 1 2)) = 0xFFFFFFFF := by
  intro f hf
  have h : (mayB one_ (f none (rw_ 4 1 2)) && one_.activeFor (f none (rw_ 4 1 2)) == 0xFFFFFFFF) = true := by revert f; decide +kernel
  simp only [Bool.and_eq_true, beq_iff_eq] at h
  exact ⟨may h.1, h.2⟩

/-- Every instruction of an S word may issue. -/
theorem witness_issue_S : ∀ f ∈ ([
    .braR, .callR, .ret, .wbaseR, .rmov, .qpush, .qpop, .qtry, .mma, .mmaW, .cmma, .aclr, .amov, .amovGet, .amovPut, .bndrd,
    .bndrdK, .bndwr, .bndchk, .cvtq, .srseed, .smerge, .rdv, .rdvAll, .bcopy, .cacopy, .acwait, .bcwait, .cains, .cainsN,
    .caget, .carefInc, .carefDec, .carefPin, .kvwalk, .cawalk, .launch, .tlbinv, .shoot, .shootCtx, .ctxsw, .uien] : List (Pre → SWord → Instr)),
    one_.mayIssue (f none (sw_ 4 2 0)) ∧ one_.activeFor (f none (sw_ 4 2 0)) = 0xFFFFFFFF := by
  intro f hf
  have h : (mayB one_ (f none (sw_ 4 2 0)) && one_.activeFor (f none (sw_ 4 2 0)) == 0xFFFFFFFF) = true := by revert f; decide +kernel
  simp only [Bool.and_eq_true, beq_iff_eq] at h
  exact ⟨may h.1, h.2⟩

/-- Every instruction of an I word may issue. -/
theorem witness_issue_I : ∀ f ∈ ([
    .brcAny, .brcAll, .brcZ, .brcNz, .brd, .brdZ, .brdNz, .wbase, .addi, .muli, .miniI32, .miniN32, .maxiI32, .maxiN32,
    .andi, .ori, .xori, .andni, .shli, .shri, .shai, .roli, .bfxI32, .bfxN32, .bfi, .movi, .movh, .leai, .rsubi, .cmpiI32,
    .cmpiN32, .shfliIdx, .shfliUp, .shfliDown, .shfliXor, .rset, .rget, .qallow, .qinit, .evwait, .evset, .evclr, .evtest,
    .bndthr, .sysrd, .syswr] : List (Pre → IWord → Instr)),
    one_.mayIssue (f none (iw_ 4 1 3)) ∧ one_.activeFor (f none (iw_ 4 1 3)) = 0xFFFFFFFF := by
  intro f hf
  have h : (mayB one_ (f none (iw_ 4 1 3)) && one_.activeFor (f none (iw_ 4 1 3)) == 0xFFFFFFFF) = true := by revert f; decide +kernel
  simp only [Bool.and_eq_true, beq_iff_eq] at h
  exact ⟨may h.1, h.2⟩

/-- Every instruction of an M word may issue. -/
theorem witness_issue_M : ∀ f ∈ ([
    .ld, .ldB128, .st, .stB128, .ldfeKeep, .ldfeClr, .stfe, .feset, .feclr, .ldt, .pref, .rld, .atomAdd, .atomMin, .atomMax,
    .atomAnd, .atomOr, .atomXor, .atomXchg, .atomCas, .atomIncw, .redAdd, .redMin, .redMax, .redAnd, .redOr, .redXor,
    .atomfAdd, .atomfMin, .atomfMax, .fence, .xfence, .adrain, .afill, .ast, .astW, .astI, .acopy, .acopyA, .acopyB, .mfill,
    .caswap] : List (Pre → MWord → Instr)),
    one_.mayIssue (f none (mw_ 4 2 1)) ∧ one_.activeFor (f none (mw_ 4 2 1)) = 0xFFFFFFFF := by
  intro f hf
  have h : (mayB one_ (f none (mw_ 4 2 1)) && one_.activeFor (f none (mw_ 4 2 1)) == 0xFFFFFFFF) = true := by revert f; decide +kernel
  simp only [Bool.and_eq_true, beq_iff_eq] at h
  exact ⟨may h.1, h.2⟩

/-- Every instruction of an C word may issue. -/
theorem witness_issue_C : ∀ f ∈ ([
    .bra, .call, .exit, .yield, .trap, .spop, .fork, .forkHandle] : List (Pre → CWord → Instr)),
    one_.mayIssue (f none (4)) ∧ one_.activeFor (f none (4)) = 0xFFFFFFFF := by
  intro f hf
  have h : (mayB one_ (f none (4)) && one_.activeFor (f none (4)) == 0xFFFFFFFF) = true := by revert f; decide +kernel
  simp only [Bool.and_eq_true, beq_iff_eq] at h
  exact ⟨may h.1, h.2⟩

theorem witness_issue_fieldless : ∀ i ∈ [Instr.nop, .bar, .bara, .barw, .gbar], one_.mayIssue i := by
  intro i hi
  have h : mayB one_ i = true := by revert i; decide +kernel
  exact may h

/-- A feed thread may issue an instruction of R58. -/
theorem witness_issue_feed : feed_.mayIssue (.add none (rw_ 4 1 2)) ∧ feed_.mayIssue (.exit none 0) ∧ feed_.mayIssue (.qpop none (sw_ 4 2 0)) ∧
    feed_.mayIssue (.acopy (pre_ 0 0 13) (mw_ 4 2 1)) :=
  ⟨may (by decide +kernel), may (by decide +kernel), may (by decide +kernel), may (by decide +kernel)⟩

/-- No lane is active under a guard that no lane meets. -/
theorem witness_no_lane : one_.mayIssue (.evset (guard_ 2) (iw_ 0 0 3)) ∧ lowest (one_.activeFor (.evset (guard_ 2) (iw_ 0 0 3))) = none ∧
    one_.activeFor (.trap (guard_ 2) 0) = 0 := ⟨may (by decide +kernel), by decide +kernel, by decide +kernel⟩


theorem witness_PredicateResults : ∀ i ∈ [Instr.pand none (rw_ 1 7 2), .por none (rw_ 1 7 2), .pxor none (rw_ 1 7 2), .pnot none (rw_ 7 1 0), .pmov none (rw_ 7 1 0),
    .shfliIdx none (iw_ 4 1 31), .shfliUp none (iw_ 4 1 31), .shfliDown none (iw_ 4 1 31), .shfliXor none (iw_ 4 1 31), .wbase none (iw_ 0 0 31),
    .srseed none (sw_ 0 3 0)], i.wf = true := by decide +kernel

theorem test_wf_refuses_latch_of_predicate : (Instr.pand none { rw_ 1 2 3 with la := true }).wf = false ∧ (Instr.shfliXor none (iw_ 4 1 32)).wf = false := by
  decide +kernel
/-! ## Witnesses: the step (StepRunsDecoded, FetchReadsMemory, AnswersNext, NotReadyWaits, StepKeepsInv) -/

/-- Page tables of context 3: a 1 GiB page at 0 with all permissions, at physical address 0x40000000. -/
def mem_ : Memory :=
  Memory.write64 (Memory.write64 [] 0x200000 0x8000000000010000) 0x10000 0xC070000040000000

/-- A translation of the page in the core's TLB. -/
def tlb_ : TlbEntry := { ctx := 3, va := 0, size := 2 ^ 30, pa := 0x40000000, cls := 0, tier := 0, x := true, w := true, rd := true, d := true }

/-- The small state with these tables, and with a translation of the page for fetches. -/
def paged_ (f : Group → Group := id) (h : Block → Block := id) (k : State → State := id) : State :=
  one_ f h fun s => k { s with mem := mem_, cores := [(0, { s.core 0 with tlb := [tlb_] })] }

/-- The same with words at the split's address, the split's turn in the line of its core, and a choice. -/
def words_ (v u : Word) (c : Choice) : State :=
  paged_ id id fun s => { s with mem := s.mem.writeAll (at_ 0x40001000 (bytesOf (u ++ v) 8)), agenda := [c], lined := true,
                                 cores := [(0, { s.core 0 with line := [.split at0 0] })] }

def add_ : Instr := .add none (rw_ 5 2 3)

theorem witness_StepRunsDecoded_turn : let s := words_ 0x200A0818 0 (.turn 0)
    let u : State := ({ s with agenda := [] } : State).setCore 0 { s.core 0 with line := [] }
    s.agenda = .turn 0 :: [] ∧ s.lined = true ∧ (s.core 0).line = .split at0 0 :: [] ∧ s.lives (.split at0 0) = true ∧
      (s.sp (.split at0 0)).tried = false ∧ (s.sp (.split at0 0)).wait = none ∧ u.fetched (.split at0 0) = .ok add_ 0x200A0818 4 := by decide +kernel

theorem witness_StepRunsDecoded_illegal : let s := words_ 0x14000000 0 (.turn 0)
    (({ s with agenda := [] } : State).setCore 0 { s.core 0 with line := [] }).fetched (.split at0 0) = .illegal 0x14000000 := by decide +kernel

theorem witness_StepRunsDecoded_wait : one_.fetched (.split at0 0) = .wait 0x1000 ∧ one_.lives (.split at0 5) = false := by decide +kernel

/-- A state whose issuer waits in an instruction. -/
def waits_ (v : Word) (w : Wait) : State :=
  let s := words_ v 0 (.turn 0)
  s.setSp (.split at0 0) { s.sp (.split at0 0) with wait := some w, snap := some regs_ }

theorem witness_StepRunsDecoded_retry :
    (waits_ 0xD6000000 .qpush).fetched (.split at0 0) = .ok (.qpush none (sw_ 0 0 0)) 0xD6000000 4 ∧
      (waits_ 0xD7000000 .qpop).fetched (.split at0 0) = .ok (.qpop none (sw_ 0 0 0)) 0xD7000000 4 ∧
      (waits_ 0xB4000000 .ldfe).fetched (.split at0 0) = .ok (.ldfeKeep none (mw_ 0 0 0)) 0xB4000000 4 ∧
      (waits_ 0xB5000000 .ldfe).fetched (.split at0 0) = .ok (.ldfeClr none (mw_ 0 0 0)) 0xB5000000 4 ∧
      ((waits_ 0xD6000000 .qpush).sp (.split at0 0)).wait = some .qpush := by decide +kernel

theorem witness_StepRunsDecoded_event : State.reset.admits .wsRefreshOpen = true ∧ State.reset.lined = false ∧ one_.admits .wsRefreshOpen = true ∧
    State.reset.admits .portDown = true ∧ State.reset.admits .contextCreate = false := by decide +kernel

theorem witness_StepRunsDecoded_lined : let s : State := { one_ with lined := true, agenda := [.tick 7] }
    s.cycleOver = true ∧ one_.agenda = [] ∧ one_.lined = false ∧ one_.due = [] ∧ (one_.cores.flatMap fun e => one_.groupsDue e.1 e.2) = [] := by
  decide +kernel

theorem witness_FetchReadsMemory : let s := words_ 0xFE000015 0x53060278 (.turn 0)
    let w : Who := .split at0 0
    instrAddr (s.sp w).pc = true ∧ instrAddr 0x1002 = false ∧ (s.sp w).words = [] ∧
      s.tlb? 0 3 0x1000 (fun e => e.x && e.cls == 0) = some (0x40001000, 0, 0) ∧ s.poisoned 0x40001000 = false ∧
      isPrefixWord (BitVec.ofNat 32 (ofBytes (s.seenBytes 3 0x40001000 4))) = true ∧ s.poisoned 0x40001004 = false ∧ s.spanLacks at0 0 = none ∧
      (let u : State := { s with poison := [(0x800020, true)] }
       u.poisoned 0x40001000 = true ∧ u.tlb? 0 3 0x1000 (fun e => e.x && e.cls == 0) = some (0x40001000, 0, 0)) ∧
      s.tlb? 0 3 0x1004 (fun e => e.x && e.cls == 0) = some (0x40001004, 0, 0) ∧
      decode (s.seenBytes 3 0x40001000 4 ++ s.seenBytes 3 0x40001004 4) = .ok (.movi (ext_ 21) (iw_ 3 0 0x278), []) := by decide +kernel

theorem witness_FetchReadsMemory_one_word : let s := words_ 0x200A0818 0x14000000 (.turn 0)
    decode (s.seenBytes 3 0x40001000 4) = .ok (add_, []) ∧ decode (s.seenBytes 3 0x40001004 4) = .error .reservedOpcode ∧
      s.tlb? 0 3 0x40000000 (fun e => e.x && e.cls == 0) = none := by decide +kernel

theorem witness_FetchReadsMemory_bad_second : let s := words_ 0xFE000000 0xFE000000 (.turn 0)
    isPrefixWord (BitVec.ofNat 32 (ofBytes (s.seenBytes 3 0x40001000 4))) = true ∧
      decode (s.seenBytes 3 0x40001000 4 ++ s.seenBytes 3 0x40001004 4) = .error .doublePrefix := by decide +kernel

theorem witness_AnswersNext : isEvent .wsRefreshOpen = true ∧ one_.hasIssuer = true ∧ isEvent add_ = false ∧ State.reset.hasIssuer = false := by decide +kernel

/-- A group that a load owes v2. -/
def owing_ (g : Group) : Group := { g with sb := [{ id := 1, dsts := [.row 2], active := 1, returned := 0, left := 1 }] }

theorem not_may {s : State} {i : Instr} (h : mayB s i = false) : ¬s.mayIssue i := fun hm => by simp_all [mayB, State.mayIssue]

theorem witness_NotReadyWaits_split : isEvent add_ = false ∧ (one_ owing_).hasIssuer = true ∧ ¬(one_ owing_).mayIssue add_ :=
  ⟨by decide, by decide +kernel, not_may (by decide +kernel)⟩

theorem witness_NotReadyWaits_feed : feed_.hasIssuer = true ∧ feed_.cur = .thread 0 1 4 ∧ ¬feed_.mayIssue (.ld none (mw_ 4 2 1)) :=
  ⟨by decide +kernel, rfl, not_may (by decide +kernel)⟩

theorem witness_StepKeepsInv : State.reset.inv ∧ (next (step { one_ with agenda := [.tick 0], lined := true }) fun t => t.ck == 1) = true :=
  ⟨by unfold State.inv; decide +kernel, by decide +kernel⟩

/-- The word at the program counter runs: v4 takes v2 + v2 in lane 31 (R169). -/
theorem test_step_runs_add : (next (step (words_ 0x20080810 0 (.turn 0))) fun t =>
    (t.rf (.split at0 0)).lane 4 31 == 62 && (t.sp (.split at0 0)).pc == 0x1004) = true := by decide +kernel

/-- A word that is no instruction enters the handler with cause 1 (R301). -/
theorem test_step_traps_reserved : (next (step (words_ 0x14000000 0 (.turn 0))) fun t =>
    (t.group at0).xcause == 1 && (t.group at0).xinfo == 0x14000000 && (t.sp (.split at0 0)).pc == 0x8000) = true := by decide +kernel

/-- A cycle at 850 MHz takes 1 ns and 3/17 of one (R5, R22). -/
theorem test_step_clock : (next (step { one_ with agenda := [.tick 0], lined := true }) fun t => t.ck == 1 && t.ns == 1 && t.frac == (3, 17)) = true := by
  decide +kernel

/-! ## Scalar instructions: single steps (R161, R191, R192, R50, R195, R196) -/

/-- What v4 holds in a lane after an instruction in the small state. -/
def gives (i : Instr) (l : Nat) (v : Word) (f : Group → Group := id) : Bool :=
  next (exec i (one_ f)) fun t => (t.rf (.split at0 0)).lane 4 l == v && (t.sp (.split at0 0)).pc == 0x1004

theorem test_addi_sign : gives (.addi none (iw_ 4 1 0x3FF)) 7 0 = true := by decide +kernel
theorem test_rsubi_order : gives (.rsubi none (iw_ 4 2 10)) 3 7 = true := by decide +kernel
theorem test_sub_order : gives (.sub none (rw_ 4 1 2)) 3 0xFFFFFFFE = true := by decide +kernel
theorem test_shli_32 : gives (.shli none (iw_ 4 2 32)) 5 0 = true := by decide +kernel
theorem test_shai_sign : gives (.shai (some ⟨false, 0, false, 0⟩) (iw_ 4 3 40)) 5 0xFFFFFFFF
    (fun g => { g with rf := g.rf.write 3 0xFFFFFFFF fun _ => 0x80000000 }) = true := by decide +kernel
theorem test_clz_zero : gives (.clz none (rw_ 4 3 0)) 0 32 = true := by decide +kernel
theorem test_mulh_signed : gives (.mulhI32 none (rw_ 4 3 3)) 0 0x40000000
    (fun g => { g with rf := g.rf.write 3 0xFFFFFFFF fun _ => 0x80000000 }) = true := by decide +kernel
theorem test_shfl_down_edge : gives (.shfliDown none (iw_ 4 2 16)) 20 20 = true ∧ gives (.shfliDown none (iw_ 4 2 16)) 4 20 = true := by decide +kernel
theorem test_redux_add : gives (.reduxAdd none (rw_ 4 2 0)) 9 496 = true := by decide +kernel
theorem test_fadd_rounds_to_even : gives (.fadd none (rw_ 4 3 5)) 0 0x4B800000
    (fun g => { g with rf := (g.rf.write 3 0xFFFFFFFF fun _ => 0x4B800000).write 5 0xFFFFFFFF fun _ => 0x3F800000 }) = true := by decide +kernel
theorem test_guard_keeps_other_lanes : gives (.mov (guard_ 3) (rw_ 4 2 0)) 1 0 (fun g => { g with rf := g.rf.writePred 3 0xFFFFFFFF 1 }) = true := by
  decide +kernel
theorem test_latch_shift : (next (exec (.add none (rw_ 4 1 2)) one_) fun t => ((t.group at0).b[0]).lane 6 == 7 && ((t.group at0).b[1]).lane 6 == 0) = true := by
  decide +kernel
theorem test_compare_writes_predicate : (next (exec (.cmpiI32 none (iw_ (2 * 8 + 3) 2 4)) one_) fun t => (t.rf (.split at0 0)).pred 3 == 0xF) = true := by
  decide +kernel
theorem test_write_uniform_takes_lowest_lane : (next (exec (.add (guard_ 3) (rw_ 113 1 2)) (one_ fun g => { g with rf := g.rf.writePred 3 0xFFFFFFFF 0xC })) fun t =>
    (t.rf (.split at0 0)).lane 113 0 == 3) = true := by decide +kernel

/-- RegisterWrites: a lane register inside the window and beyond it, and a uniform register. -/
theorem witness_RegisterWrites : (2#7).toNat < 112 ∧ 16 * (regs_).wbase + 111 < 16 * (regs_).units ∧
    16 * (regs_ fun r => { r with wbase := 1 }).units ≤ 16 * (regs_ fun r => { r with wbase := 1 }).wbase + 96 ∧ 112 ≤ (112#7).toNat := by decide +kernel

theorem witness_WordFunctions : (31 : Nat) < 32 ∧ 1 ≤ 32 ∧ (f32 0x7FC00000).isNan = true ∧ (f32 0).isNan = false ∧ (8 : Word) ≠ 0 := by decide +kernel

/-! ## Control: single steps and witnesses (BranchesAndCalls, WindowBase, NopAndYield, ExitEndsLanes, TrapInstruction, TrapReturn,
TrapCauses) -/

/-- BRD.z on v2: lane 0 leaves and the rest fall through (R183, R185). -/
theorem test_brd_divides : (next (exec (.brdZ none (iw_ 0 2 4)) one_) fun t => (t.sp (.split at0 0)).pc == 0x1010 && (t.sp (.split at0 0)).mask == 1 &&
    ((t.group at0).split 1).pc == 0x1004 && ((t.group at0).split 1).mask == 0xFFFFFFFE && (t.group at0).stack == []) = true := by decide +kernel

theorem test_call_links : (next (exec (.call none 0xFFFFFF) one_) fun t => (t.sp (.split at0 0)).pc == 0xFFC && (t.rf (.split at0 0)).pair 110 31 == 0x1004) = true := by
  decide +kernel

theorem test_exit_retires_group : (next (exec (.exit none 0) one_) fun t => !(t.group at0).live) = true := by decide +kernel

theorem test_trap_enters : (next (exec (.trap none 5) one_) fun t => (t.group at0).xcause == 6 && (t.group at0).xinfo == 5 &&
    (t.sp (.split at0 0)).pc == 0x8000 && (t.sp (.split at0 0)).depth == 1 && (t.group at0).stack.map (·.pc) == [0x1004]) = true := by decide +kernel

/-- A group with so many entries on its stack, those of traps on top or not. -/
def stacked_ (n : Nat) (trap : Bool) (k : Split → Split := id) (g : Group) : Group :=
  let e : StackEntry := { pc := 0x2000, mask := 0xFF, trap := trap }
  { g with stack := List.replicate n e, splits := [(0, k split_)] }

theorem test_spop_returns : (next (exec (.spop none 0) (one_ (stacked_ 2 true fun x => { x with depth := 2 }))) fun t =>
    (t.sp (.split at0 0)).pc == 0x2000 && (t.sp (.split at0 0)).mask == 0xFF && (t.sp (.split at0 0)).depth == 1 && (t.group at0).stack.length == 1) = true := by
  decide +kernel

theorem witness_BranchesAndCalls : one_.mayIssue (.brdZ none (iw_ 0 2 4)) ∧ one_.hasRoom (.brdZ none (iw_ 0 2 4)) (one_.nextIf (.brdZ none (iw_ 0 2 4)) 0x1010
    fun l => l == 0) := ⟨may (by decide +kernel), by show _ ∨ _; decide +kernel⟩

theorem witness_WindowBase : let i : Instr := .wbaseR none (sw_ 0 2 0)
    lowest (one_.activeFor i) = some 0 ∧ ((one_.rf one_.cur).lane 2 0).toNat ≤ 31 ∧ one_.mayIssue i :=
  ⟨by decide +kernel, by decide +kernel, may (by decide +kernel)⟩

theorem witness_WindowBase_illegal : let s := one_ fun g => { g with rf := g.rf.write 2 1 fun _ => 32 }
    31 < ((s.rf s.cur).lane 2 0).toNat ∧ s.mayIssue (.wbaseR none (sw_ 0 2 0)) ∧ s.cur = .split at0 0 ∧ s.canTrap at0 0 :=
  ⟨by decide +kernel, may (by decide +kernel), rfl, canTrap (by decide +kernel)⟩

theorem witness_WindowBase_none : lowest (one_.activeFor (.wbaseR (guard_ 2) (sw_ 0 2 0))) = none ∧ one_.mayIssue (.wbaseR (guard_ 2) (sw_ 0 2 0)) :=
  ⟨by decide +kernel, may (by decide +kernel)⟩

theorem witness_NopAndYield : one_.mayIssue .nop ∧ one_.cur = .split at0 0 ∧ one_.mayIssue (.yield none 0) ∧ one_.activeFor (.yield none 0) ≠ 0 ∧
    one_.activeFor (.yield (guard_ 2) 0) = 0 := ⟨may (by decide +kernel), rfl, may (by decide +kernel), by decide +kernel, by decide +kernel⟩

theorem witness_ExitEndsLanes : one_.cur = .split at0 0 ∧ one_.mayIssue (.exit none 0) ∧ feed_.cur = .thread 0 1 4 ∧ feed_.mayIssue (.exit none 0) :=
  ⟨rfl, may (by decide +kernel), rfl, may (by decide +kernel)⟩

theorem witness_TrapInstruction : one_.activeFor (.trap none 5) ≠ 0 ∧ one_.mayIssue (.trap none 5) ∧ one_.cur = .split at0 0 ∧ one_.canTrap at0 0 :=
  ⟨by decide +kernel, may (by decide +kernel), rfl, canTrap (by decide +kernel)⟩

/-- Another split of the group is in the handler. -/
def besides_ (k : Split → Split) (g : Group) : Group := { g with splits := [(0, split_), (1, k { split_ with mask := 0 })] }

theorem witness_TrapInstruction_waits : let s := one_ (besides_ fun x => { x with depth := 1 })
    s.mayIssue (.trap none 5) ∧ ((s.group at0).split 0).depth = 0 ∧ (s.group at0).othersInHandler 0 = true :=
  ⟨may (by decide +kernel), by decide +kernel, by decide +kernel⟩

theorem witness_TrapInstruction_halts : let s := one_ (stacked_ 16 false)
    s.mayIssue (.trap none 5) ∧ (s.group at0).othersInHandler 0 = false ∧ 16 ≤ (s.group at0).stack.length :=
  ⟨may (by decide +kernel), by decide +kernel, by decide +kernel⟩

theorem witness_TrapReturn : let s := one_ (stacked_ 1 true fun x => { x with depth := 1 })
    let i : Instr := .spop none 0
    s.activeFor i ≠ 0 ∧ s.mayIssue i ∧ s.cur = .split at0 0 ∧ (s.group at0).stack = [{ pc := 0x2000, mask := 0xFF, trap := true }] ∧
      ((s.issued i).s.group at0).liveSplits.any (fun x => x.1 != 0 && x.2.depth == ((s.group at0).split 0).depth) = false :=
  ⟨by decide +kernel, may (by decide +kernel), rfl, by decide +kernel, by decide +kernel⟩

theorem witness_TrapReturn_shared : let s := one_ fun g => { besides_ id g with stack := [{ pc := 0x2000, mask := 0xFF, trap := true }] }
    let i : Instr := .spop none 0
    s.mayIssue i ∧ ((s.issued i).s.group at0).liveSplits.any (fun x => x.1 != 0 && x.2.depth == ((s.group at0).split 0).depth) = true :=
  ⟨may (by decide +kernel), by decide +kernel⟩

theorem witness_TrapReturn_illegal : let s := one_ (stacked_ 1 false)
    s.mayIssue (.spop none 0) ∧ s.canTrap at0 0 ∧ ∀ e rest, (s.group at0).stack = e :: rest → e.trap = false := by
  refine ⟨may (by decide +kernel), canTrap (by decide +kernel), fun e rest h => ?_⟩
  have : (one_ (stacked_ 1 false)).group at0 |>.stack.all (fun e => !e.trap) := by decide +kernel
  rw [h] at this
  simp only [List.all_cons, Bool.and_eq_true, Bool.not_eq_true'] at this
  exact this.1

/-- Lanes with different targets: 32 parts, of which 28 would be pushed onto a stack of none (R308). -/
theorem witness_TrapCauses_stack : let s := one_ fun g => { g with rf := g.rf.write 3 0xFFFFFFFF fun _ => 0 }
    let i : Instr := .braR none (sw_ 0 2 0)
    let gr := (s.issued i).s.group at0
    let k := (partsOf (s.sp s.cur).mask fun l => if (s.activeFor i).getLsbD l then (s.rf s.cur).pair 2 l else s.fall).length - 1 - (4 - gr.liveSplits.length)
    s.mayIssue i ∧ s.canTrap at0 0 ∧ k ≠ 0 ∧ 15 < gr.stack.length + k :=
  ⟨may (by decide +kernel), canTrap (by decide +kernel), by decide +kernel, by decide +kernel⟩

/-- The small state with a record in k1. -/
def with_ (r : BitVec 256) (f : Group → Group := id) (h : Block → Block := id) : State :=
  one_ (fun g => f { g with rf := { g.rf with k := [(1, r)] } }) h

theorem witness_TrapCauses_bounds : let s := with_ (rec_ 0 16 1 1)
    let i : Instr := .ld none (mw_ 4 2 1)
    s.mayIssue i ∧ s.boardFree ∧ s.canTrap at0 0 ∧ ∃ x ∈ s.targetsOf i 1 2 false 4, x.2 = .bounds :=
  ⟨may (by decide +kernel), room (by decide +kernel), canTrap (by decide +kernel), by decide +kernel⟩

theorem test_load_bounds_trap : (next (exec (.ld none (mw_ 4 2 1)) (with_ (rec_ 0 16 1 1))) fun t => (t.group at0).xcause == 2 && (t.group at0).xinfo == 1 &&
    (t.group at0).xmask == 0xFFFFE000 && (t.group at0).stack.map (·.pc) == [0x1000]) = true := by decide +kernel

/-! ## Memory: single steps and witnesses (Loads, Stores, FullEmpty, ProbeAndPrefetch, RecordInstructions, Atomics, AccessAddress) -/

def block_rec : BitVec 256 := rec_ 0 8192 1 1
def global_rec : BitVec 256 := rec_ 0x10000 65536 0 1

/-- v3 holds four times the lane's number, as byte offsets. -/
def offs_ (g : Group) : Group := { g with rf := g.rf.write 3 0xFFFFFFFF fun l => BitVec.ofNat 32 (4 * l) }

theorem witness_Loads_block : let s := with_ block_rec
    s.mayIssue (.ld none (mw_ 4 2 1)) ∧ s.boardFree ∧ s.accessFree false 0 (s.targetsOf (.ld none (mw_ 4 2 1)) 1 2 false 4) 0 :=
  ⟨may (by decide +kernel), room (by decide +kernel), free (by decide +kernel)⟩

theorem witness_Loads_global : let s := with_ global_rec
    s.mayIssue (.ldB128 none (mw_ 4 2 1)) ∧ s.boardFree ∧ s.accessFree false 0 (s.targetsOf (.ldB128 none (mw_ 4 2 1)) 1 2 false 16) 0 ∧
      (s.targetsOf (.ldB128 none (mw_ 4 2 1)) 1 2 false 16).all (·.2.isLine) = true :=
  ⟨may (by decide +kernel), room (by decide +kernel), free (by decide +kernel), by decide +kernel⟩

theorem witness_Stores : ∀ r ∈ [block_rec, global_rec], let s := with_ r
    s.mayIssue (.st none (mw_ 4 2 1)) ∧ noWrites ((s.rf s.cur).rcd 1) = false ∧ s.accessFree false 0 (s.targetsOf (.st none (mw_ 4 2 1)) 1 2 false 4) 0 := by
  intro r hr
  simp only [List.mem_cons, List.not_mem_nil, or_false] at hr
  rcases hr with rfl | rfl
  · exact ⟨may (by decide +kernel), by decide +kernel, free (by decide +kernel)⟩
  · exact ⟨may (by decide +kernel), by decide +kernel, free (by decide +kernel)⟩

/-- A store and the load of its bytes: each lane its own word (R202, R206). -/
theorem test_store_then_load : (next (exec (.st none (mw_ 2 3 1)) (with_ block_rec offs_)) fun t =>
    next (exec (.ld none (mw_ 4 3 1)) t) fun u => (u.rf u.cur).lane 4 31 == 31 && (u.rf u.cur).lane 4 0 == 0) = true := by decide +kernel

theorem test_load_i8_extends : (next (exec (.ld (pre_ 1 0 0) (mw_ 4 2 1)) (with_ block_rec id fun b => { b with scratch := [(5, 0x80)] })) fun t =>
    (t.rf t.cur).lane 4 5 == 0xFFFFFF80 && (t.rf t.cur).lane 4 6 == 0) = true := by decide +kernel

theorem test_load_global_sends : (next (exec (.ld none (mw_ 4 3 1)) (with_ global_rec offs_)) fun t => t.reqs.map (·.va) == [0x10000] &&
    (t.group at0).sb.map (·.dsts) == [[.row 4]]) = true := by decide +kernel

theorem witness_FullEmpty_full : let s := with_ block_rec id fun b => { b with fe := (List.range 512).map fun n => (n, true) }
    let i : Instr := .ldfeClr none (mw_ 4 3 1)
    let ts := s.targetsOf i 1 3 false 4
    s.mayIssue i ∧ fePlace ((s.rf s.cur).rcd 1) = true ∧ s.boardFree ∧ s.feFree false 0 ts ∧ (s.issued i).strays ts = false ∧
      ts.padded &&& ~~~((s.sp s.cur).got ||| s.stepsNow ts 4) = 0 :=
  ⟨may (by decide +kernel), by decide +kernel, room (by decide +kernel), feFree (by decide +kernel), by decide +kernel, by decide +kernel⟩

/-- A gang of two blocks on cores 0 and 5, the first with full granules and the other with empty ones; the even lanes name bytes of the
first and the odd lanes of the other. -/
def gang2_ (k : Split → Split := id) : State :=
  let s := with_ (rec_ 0 0x80000 2 1) (fun g => { g with
    splits := [(0, k split_)]
    rf := g.rf.write 3 0xFFFFFFFF fun l => BitVec.ofNat 32 (4 * (l / 2) + 0x40000 * (l % 2)) }) fun b => { b with fe := (List.range 512).map fun n => (n, true) }
  { s with
    gangs := [(8, { Gang.empty with live := true, grid := 7, blocks := [(0, 1), (5, 2)], left := 2 })]
    cores := s.cores ++ [(5, { Core.reset with act := [(2, { block_ with ix := 1 })] })] }

/-- An LDFE at its first turn serves the lanes of one scratchpad and waits for the other; at a later turn, with that one served, it
still waits. -/
theorem witness_FullEmpty_partial : ∀ k ∈ [id, fun p : Split => { p with wait := some .ldfe, walks := some 5, got := 0x55555555, snap := some (gang2_.rf (.split at0 0)) }],
    let s := gang2_ k
    mayB s (.ldfeClr none (mw_ 4 3 1)) = true ∧ roomB s = true ∧ fePlace (s.operands.rcd 1) = true := by
  decide +kernel

theorem witness_FullEmpty_steps : let s := gang2_
    let ts := s.targetsOf (.ldfeClr none (mw_ 4 3 1)) 1 3 false 4
    feFreeB s false 0 ts = true ∧ s.stepsNow ts 4 = 0x55555555 ∧ ts.padded = 0xFFFFFFFF := by decide +kernel

theorem witness_FullEmpty_empty : let s := with_ block_rec
    let ts := s.targetsOf (.ldfeKeep none (mw_ 4 3 1)) 1 3 false 4
    ts.pads ≠ [] ∧ s.stepsNow ts 4 = 0 := by decide +kernel

/-- What one scratchpad gives a waiting LDFE goes to its lanes, and empties its granules, while the others wait (R208). -/
theorem test_ldfe_partial : (next (exec (.ldfeClr none (mw_ 4 3 1)) gang2_) fun t =>
    ((t.group at0).split 0).got == 0x55555555 && ((t.group at0).split 0).wait == some .ldfe && !(t.block 0 1).full 0 && (t.group at0).sb.length == 1) = true := by
  decide +kernel

theorem witness_FullEmpty_marks : let s := with_ block_rec
    let i : Instr := .stfe none (mw_ 4 3 1)
    let ts := s.targetsOf i 1 3 false 4
    s.mayIssue i ∧ fePlace ((s.rf s.cur).rcd 1) = true ∧ s.feFree true 0 ts ∧ (s.issued i).strays ts = false ∧ (∀ x ∈ ts, x.2 ≠ .away) :=
  ⟨may (by decide +kernel), by decide +kernel, feFree (by decide +kernel), by decide +kernel, by decide +kernel⟩

theorem test_stfe_fills : (next (exec (.stfe none (mw_ 4 3 1)) (with_ block_rec)) fun t => (t.block 0 1).full 0 && !(t.block 0 1).full 1) = true := by
  decide +kernel

theorem witness_ProbeAndPrefetch : ∀ r ∈ [block_rec, global_rec], let s := with_ r
    let i : Instr := .ldt none (mw_ 4 2 1)
    s.mayIssue i ∧ s.boardFree ∧ s.accessFree false 0 (s.targetsOf i 1 2 false 4) 0 ∧ s.mayIssue (.pref none (mw_ 0 2 1)) := by
  intro r hr
  simp only [List.mem_cons, List.not_mem_nil, or_false] at hr
  rcases hr with rfl | rfl
  · exact ⟨may (by decide +kernel), room (by decide +kernel), free (by decide +kernel), may (by decide +kernel)⟩
  · exact ⟨may (by decide +kernel), room (by decide +kernel), free (by decide +kernel), may (by decide +kernel)⟩

theorem witness_RecordInstructions : let s := with_ block_rec
    let i : Instr := .rld none (mw_ 2 3 1)
    let t0 := s.target s.cur ((s.rf s.cur).rcd 1) ((s.rf s.cur).lane 3 0) false 32
    lowest (s.activeFor i) = some 0 ∧ s.mayIssue i ∧ rldOdd ((s.rf s.cur).rcd 1) ((s.rf s.cur).lane 3 0) false = false ∧ s.boardFree ∧
      s.accessFree false 0 [(0, t0)] 0 ∧ s.mayIssue (.rset none (iw_ 2 2 7)) ∧ lowest (s.activeFor (.rld (guard_ 2) (mw_ 2 3 1))) = none :=
  ⟨by decide +kernel, may (by decide +kernel), by decide +kernel, room (by decide +kernel), free (by decide +kernel), may (by decide +kernel),
    by decide +kernel⟩

theorem test_rset_keeps_reserved_zero : (next (exec (.rset none (iw_ 2 3 5)) (one_ fun g => { g with rf := g.rf.write 3 1 fun _ => 0xFFFFFFFF })) fun t =>
    (t.rf t.cur).rcd 2 == 0x00FFFFFF#256 <<< 160) = true := by decide +kernel

theorem witness_Atomics_scratch : let s := with_ block_rec
    let i : Instr := .atomAdd none (mw_ 4 3 1)
    let ts := s.targetsOf i 1 3 false 4
    s.mayIssue i ∧ noWrites ((s.rf s.cur).rcd 1) = false ∧
      (∀ l, (s.activeFor i).getLsbD l = true → odd ((s.rf s.cur).rcd 1) ((s.rf s.cur).lane 3 l) false 4 = false) ∧ s.boardFree ∧ s.accessFree false 0 ts 0 ∧
      ts.lines 4 = [] := by
  refine ⟨may (by decide +kernel), by decide +kernel, fun l hl => ?_, room (by decide +kernel), free (by decide +kernel), by decide +kernel⟩
  by_cases h : l < 32
  · exact (by decide +kernel : ∀ n, n < 32 → odd (((with_ block_rec).rf (with_ block_rec).cur).rcd 1) (((with_ block_rec).rf (with_ block_rec).cur).lane 3 n) false 4 = false) l h
  · simp [BitVec.getLsbD_of_ge _ _ (Nat.not_lt.1 h)] at hl

/-- An atomic at lines: nothing is held yet, and its lanes walk. -/
theorem witness_Atomics_lines : let s := with_ global_rec
    let ts := s.targetsOf (.atomAdd none (mw_ 4 3 1)) 1 3 false 4
    ts.lines 4 ≠ [] ∧ (s.sp s.cur).walks = none ∧ ({ s with reqs := [] } : State).heldOf 9 = [] := by decide +kernel

/-- A lane of an atomic that the core holds, with its walk at an end or not. -/
def held_ (st : ReqSt) : Req :=
  { id := 5, ctx := 3, part := 2, party := .group 0 1 0, core := 0, gslot := 0, feed := false, grid := 7, cls := 0, instr := 5, held := true,
    kind := .atom .add 4 1 0, space := .global, va := 0x10000, root := 0, extent := 65536, order := 0, scope := 0, st := st,
    pieces := [{ lane := 0, off := 0, n := 4, first := 0 }], land := .none, gen := 0, policy := 0, uses := 0 }

/-- The issuer waits for the walks of the lane that it holds. -/
def holding_ (st : ReqSt) : State :=
  { with_ global_rec fun g => { g with splits := [(0, { split_ with walks := some 5, wait := some .walks })] } with reqs := [held_ st] }

theorem witness_Atomics_held : (∃ q ∈ (holding_ .needWalk).heldOf 5, q.walking = true) ∧
    (∀ q ∈ (holding_ (.mapped 0x10000 0 0)).heldOf 5, q.walking = false ∧ q.mmio = false) ∧ (holding_ (.mapped 0x10000 0 0)).heldOf 5 ≠ [] ∧
    (∃ q ∈ (holding_ (.mapped 0x10000 4 0)).heldOf 5, q.walking = false ∧ q.mmio = true) := by decide +kernel

theorem witness_Atomics_mmio_traps : ((holding_ (.mapped 0x10000 4 0)).dropHeld (.split at0 0) 5).canTrap at0 0 := canTrap (by decide +kernel)

theorem test_atom_add_lane_order : (next (exec (.atomAdd none (mw_ 1 3 1)) (with_ block_rec)) fun t =>
    (t.rf t.cur).lane 1 0 == 0 && (t.rf t.cur).lane 1 31 == 31 && (t.block 0 1).bytes 0 4 == [32, 0, 0, 0]) = true := by decide +kernel

theorem witness_AccessAddress : let r (mode extent : Nat) := rec_ 0 extent 0 mode
    ((r 2 16).extractLsb' 160 3).toNat = 2 ∧ ((r 2 16).extractLsb' 64 40).toNat = 16 ∧ ¬((16 : Int) + 4 ≤ 16) ∧ (4 : Int) ≤ 16 ∧
      ((r 2 3).extractLsb' 64 40).toNat < 4 ∧ ((r 3 16).extractLsb' 160 3).toNat = 3 ∧ ((r 1 16).extractLsb' 160 3).toNat = 1 ∧
      ((r 7 16).extractLsb' 160 3).toNat = 7 ∧ ((r 0 16).extractLsb' 160 3).toNat = 0 := by decide +kernel

/-! ## Order, barriers, queues and events: witnesses and single steps (Fences, Barriers, Queues, Events) -/

/-- A load of the group that has yet to be performed. -/
def owed_ (cls : Nat) (order : BitVec 2) : State :=
  { one_ with reqs := [{ held_ .needWalk with cls := cls, held := false, kind := .load, order := order }] }

theorem witness_Fences : one_.mayIssue (.fence none { mw_ 0 0 0 with order := 3 }) ∧ one_.owedBy one_.cur = [] ∧
    (owed_ 0 0).mayIssue (.fence none { mw_ 0 0 0 with order := 1 }) ∧
    (∃ q ∈ (owed_ 0 0).owedBy (owed_ 0 0).cur, q.cls = 0 ∧ q.seq < (owed_ 0 0).covers ∧ q.need ≠ .write) :=
  ⟨may (by decide +kernel), by decide +kernel, may (by decide +kernel), by decide +kernel⟩

theorem witness_Fences_classes : (owed_ 1 0).mayIssue (.xfence none (mw_ 1 0 0)) ∧ (owed_ 1 0).classOwed (owed_ 1 0).cur 1 9 = true ∧
    (owed_ 1 0).classOwed (owed_ 1 0).cur 0 9 = false ∧ (owed_ 1 0).relaxedOwed (owed_ 1 0).cur.party 9 = false :=
  ⟨may (by decide +kernel), by decide +kernel, by decide +kernel, by decide +kernel⟩

/-- The issuing split waits at a barrier since a phase, and its group has arrived or not. -/
def barred_ (w : Wait) (n : Nat) (arr : Option Nat) : State :=
  one_ fun g => { g with splits := [(0, { split_ with wait := some w, walks := some n })], arrB := arr }

theorem witness_Barriers : one_.mayIssue .bar ∧ (one_.sp one_.cur).walks.any (· != 0) = false ∧ one_.mayIssue .gbar ∧ one_.mayIssue .bara ∧
    (one_.group at0).arrB ≠ some 0 ∧ one_.mayIssue .barw := ⟨may (by decide +kernel), by decide +kernel, may (by decide +kernel), may (by decide +kernel), by decide +kernel, may (by decide +kernel)⟩

theorem witness_Barriers_passed : let s := one_ (fun g => { g with splits := [(0, { split_ with wait := some .bar, walks := some 0 })] }) fun b => { b with phase := 1 }
    s.mayIssue .bar ∧ (s.sp s.cur).walks.any (· != (s.block 0 1).phase) = true := ⟨may (by decide +kernel), by decide +kernel⟩

theorem witness_Barriers_arrived : let s := one_ fun g => { g with arrB := some 0 }
    s.mayIssue .bara ∧ (s.group at0).arrB = some 0 ∧ s.mayIssue .barw ∧ (s.sp s.cur).walks.any (· != 0) = false :=
  ⟨may (by decide +kernel), by decide +kernel, may (by decide +kernel), by decide +kernel⟩

theorem witness_Barriers_gang_passed : let s : State := { one_ (fun g => { g with splits := [(0, { split_ with wait := some .gbar, walks := some 0 })] }) with
      gangs := [(8, { Gang.empty with live := true, phase := 1, blocks := [(0, 1)] })] }
    s.mayIssue .gbar ∧ (s.sp s.cur).walks.any (· != (s.gang (s.block 0 1).gang).phase) = true := ⟨may (by decide +kernel), by decide +kernel⟩

theorem test_bar_arrives_with_all_lanes : (next (exec .bar one_) fun t => (t.group at0).arrB == some 0 && (t.sp t.cur).wait == some .bar) = true := by
  decide +kernel

/-- Queue 3 with a ring of 64 entries that holds so many and allows so many more. -/
def queue_ (count allow : Nat) (b : Block) : Block :=
  { b with q := [(3, { cap := 64, base := 1, head := 63, tail := (63 + count) % 64, count := count, allow := allow })],
           scratch := [(128 + 252, 7)] }

theorem witness_Queues : let s := one_ id (queue_ 1 1)
    lowest (s.activeFor (.qpush none (sw_ 3 2 0))) = some 0 ∧ s.mayIssue (.qpush none (sw_ 3 2 0)) ∧ s.acquired ∧ s.clsOwed s.cur 0 s.covers = false ∧
      ((s.blk s.cur).queue 3).allow ≠ 0 ∧ s.mayIssue (.qpop none (sw_ 4 3 0)) ∧ s.activeFor (.qpop none (sw_ 4 3 0)) ≠ 0 ∧ ((s.blk s.cur).queue 3).count ≠ 0 ∧
      s.mayIssue (.qtry none (sw_ 4 3 1)) ∧ s.activeFor (.qtry none (sw_ 4 3 1)) ≠ 0 ∧ s.mayIssue (.qallow none (iw_ 3 0 2)) ∧
      s.activeFor (.qallow none (iw_ 3 0 2)) ≠ 0 :=
  ⟨by decide +kernel, may (by decide +kernel), .inr (by decide +kernel), by decide +kernel, by decide +kernel, may (by decide +kernel), by decide +kernel, by decide +kernel,
    may (by decide +kernel), by decide +kernel, may (by decide +kernel), by decide +kernel⟩

theorem witness_Queues_wait : ((one_.blk one_.cur).queue 3).allow = 0 ∧ ((one_.blk one_.cur).queue 3).count = 0 ∧ one_.mayIssue (.qpush none (sw_ 3 2 0)) ∧
    one_.mayIssue (.qpop none (sw_ 4 3 0)) := ⟨by decide +kernel, by decide +kernel, may (by decide +kernel), may (by decide +kernel)⟩

/-- QINIT at the last rows of the allocation of 8 rows, and one row beyond it (R218). -/
theorem witness_Queues_init : let s := one_ fun g => { g with rf := g.rf.write 3 1 fun _ => 7 }
    let u := one_ fun g => { g with rf := g.rf.write 3 1 fun _ => 8 }
    let i : Instr := .qinit none (iw_ 3 3 31)
    lowest (s.activeFor i) = some 0 ∧ s.mayIssue i ∧ ((s.rf s.cur).lane 3 0).toNat + (32 + 31) / 32 ≤ (s.blk s.cur).g * (s.blk s.cur).sp ∧ u.mayIssue i ∧
      (u.blk u.cur).g * (u.blk u.cur).sp < ((u.rf u.cur).lane 3 0).toNat + (32 + 31) / 32 ∧ u.canTrap at0 0 :=
  ⟨by decide +kernel, may (by decide +kernel), by decide +kernel, may (by decide +kernel), by decide +kernel, canTrap (by decide +kernel)⟩

theorem test_qpop_wraps : (next (exec (.qpop none (sw_ 4 3 0)) (one_ id (queue_ 1 1))) fun t => (t.rf t.cur).lane 4 9 == 7 &&
    ((t.block 0 1).queue 3).head == 0 && ((t.block 0 1).queue 3).count == 0) = true := by decide +kernel

theorem test_qpush_uses_allowance : (next (exec (.qpush none (sw_ 3 1 0)) (one_ id (queue_ 0 1))) fun t => ((t.block 0 1).queue 3).allow == 0 &&
    ((t.block 0 1).queue 3).tail == 0 && (t.block 0 1).bytes 380 4 == [1, 0, 0, 0]) = true := by decide +kernel

theorem witness_Events : let i : Instr := .evset none (iw_ 0 0 255)
    lowest (one_.activeFor i) = some 0 ∧ one_.mayIssue i ∧ one_.clsOwed one_.cur 0 one_.covers = false ∧ (owed_ 0 0).mayIssue i ∧ (owed_ 0 0).clsOwed (owed_ 0 0).cur 0 (owed_ 0 0).covers = true ∧
      one_.eventBit (iw_ 0 0 255) 0 = 255 ∧ (one_.sp one_.cur).walks = none ∧ one_.mayIssue (.evwait none (iw_ 0 0 255)) ∧
      ((barred_ .event 256 none).sp (barred_ .event 256 none).cur).walks = some 256 ∧ (barred_ .event 256 none).mayIssue (.evwait none (iw_ 0 0 255)) ∧
      ((barred_ .event 255 none).sp (barred_ .event 255 none).cur).walks = some 255 :=
  ⟨by decide +kernel, may (by decide +kernel), by decide +kernel, may (by decide +kernel), by decide +kernel, by decide +kernel, by decide +kernel,
    may (by decide +kernel), by decide +kernel, may (by decide +kernel), by decide +kernel⟩

/-- The end of a cycle: the bits set and cleared are not those of before, and a split waits for a bit that is then set (R46). -/
theorem witness_Events_tick : let s : State := { barred_ .event 5 none with ctxs := [(3, { ctx_ with ev := 1, evClear := 1, evSet := 32 })] }
    s.killst.getLsbD 31 = false ∧ (s.sp s.cur).wait = some .event ∧ (s.sp s.cur).walks = some 5 ∧ (((s.ctx 3).ev &&& ~~~(s.ctx 3).evClear) ||| (s.ctx 3).evSet).getLsbD 5 = true ∧
      ((s.tick 0).sp s.cur).walks = some 256 ∧ ((s.tick 0).ctx 3).ev = 32 := by decide +kernel

/-- The bit is the sum of register and immediate, modulo 256 (R220). -/
theorem test_evset_adds_register : (next (exec (.evset none (iw_ 0 1 (512 + 255))) one_) fun t => (t.ctx 3).evSet == 1 && (t.ctx 3).ev == 0) = true := by
  decide +kernel

/-! ## Matrix: witnesses and single steps (Products, TileInstructions, TileTransfers, QuantiseSeedMerge) -/

/-- One quarter op of the group with these entries bound, in the core's queue. -/
def op_ (kind : MatKind) (ty : Nat) (a b : Option Nat) : QOp :=
  { id := 4, block := 1, group := 0, q := 0, kind := kind, ty := BitVec.ofNat 5 ty, tile := 2, fa := 0, fb := 1, a := a, b := b, tb := 0, begun := false }

/-- Its entries: A in FIFO 0 and B in FIFO 1. -/
def entry_ (id : Nat) (isB : Bool) (ty : Nat) : FifoEntry :=
  { id := id, isB := isB, ty := BitVec.ofNat 8 ty, size := 1024, data := [(0, 2), (1, 3), (128, 3)], trips := [(0, ⟨0x3F800000, 0, 0x3FF0000000000000⟩)], count := 1, present := true,
    taken := false, bound := 0, spent := false }

def matrix_ (o : QOp) (a : Arg) (pass : Option Pass := none) (ty : Nat := 1) : State :=
  ev_ a id (fun b => { b with fifos := [(0, [entry_ 1 false ty]), (1, [entry_ 2 true ty])] }) fun s =>
    { s with cores := [(0, { s.core 0 with mq := [o], pass := pass })], ck := 32 }

theorem witness_Products : ∀ i ∈ [Instr.mma none (sw_ 0 0 3), .mmaW none (sw_ 0 0 3), .cmma none (sw_ 4 0 3)], one_.mayIssue i ∧ one_.canTrap at0 0 := by
  intro i hi
  have h : (mayB one_ i && trapB one_ at0 0) = true := by revert i; decide +kernel
  simp only [Bool.and_eq_true] at h
  exact ⟨may h.1, canTrap h.2⟩

/-- Tiles 0 to 7 and FIFOs 0 to 3 fit, and no more (R224). -/
theorem witness_Products_fits : 0 + 7 < (one_.blk one_.cur).t ∧ 0 + 3 < (one_.blk one_.cur).g * (one_.blk one_.cur).f ∧ ¬(5 + 3 < (one_.blk one_.cur).t) ∧
    (one_.core 0).mq.length + 4 ≤ 64 ∧ 64 < (List.replicate 61 (op_ .mma 1 none none)).length + 4 := by decide +kernel

theorem witness_Products_bind : let s := matrix_ (op_ .mma 1 none none) (.num2 0 4)
    s.arg = .num2 0 4 ∧ (s.core 0).op? 4 = some (op_ .mma 1 none none) ∧ s.fifosAway 0 (s.block 0 1).part = false ∧
      waitsOn ((s.core 0).opsBefore 4) 1 0 = false ∧ ((s.block 0 1).stream 0).find? (fun e => !e.taken && e.count != 0 && !e.used) = some (entry_ 1 false 1) := by decide +kernel

theorem witness_Products_bind_b : let s := matrix_ (op_ .mma 1 (some 1) none) (.num2 0 4)
    (op_ .mma 1 (some 1) none).a.isSome = true ∧ waitsOn ((s.core 0).opsBefore 4) 1 1 = false ∧
      ((s.block 0 1).stream 1).find? (fun e => e.count != 0 && !e.taken) = some (entry_ 2 true 1) ∧ (entry_ 2 true 1).present = true := by decide +kernel

theorem witness_Products_pass : let s := matrix_ (op_ .mma 1 (some 1) (some 2)) (.num 0)
    s.arg = .num 0 ∧ s.issueCycle 0 = true ∧ (s.core 0).canStart (s.coreCk 0) = true ∧ ∀ o ∈ (s.core 0).form, s.fifosAway 0 (s.block 0 o.block).part = false := by
  decide +kernel

/-- A pass of one op at its end. -/
def ending_ (kind : MatKind) (ty : Nat) : State :=
  matrix_ { op_ kind ty (some 1) (some 2) with begun := true } (.num 0) (some { ops := [4], stop := 32 }) ty

theorem witness_Products_promote : ∀ ty ∈ [1, 12], let s := ending_ .mma ty
    s.arg = .num 0 ∧ (s.core 0).pass = some { ops := [4], stop := 32 } ∧ 32 ≤ s.ck ∧
      (s.core 0).op? 4 = some { op_ .mma ty (some 1) (some 2) with begun := true } ∧ (s.block 0 1).live = true ∧ ((s.block 0 1).group 0).live = true ∧
      ((s.block 0 1).stream 0).find? (fun e => e.id == 1) = some (entry_ 1 false ty) ∧ ((s.block 0 1).stream 1).find? (fun e => e.id == 2) = some (entry_ 2 true ty) ∧
      (entry_ 1 false ty).ty.toNat = (BitVec.ofNat 5 ty).toNat := by decide +kernel

theorem witness_Products_types : (fmtOf (12#5).toNat).isSome = true ∧ fmtOf (1#5).toNat = none := by decide +kernel

/-- MMA.i8 adds the integer products: 2 x 2 + 3 x 3 at element (0, 0), where row 0 of A and column 0 of B hold 2 and 3 (R126). -/
theorem test_promote_i8 : (next (exec .passPromote (ending_ .mma 1)) fun t => ((t.group at0).tile 2).elem 0 == 13 && (t.core 0).mq == []) = true := by
  decide +kernel

/-- The tiles that an instruction names are free (R223). -/
theorem witness_TileInstructions : ∀ i ∈ [Instr.aclr none (sw_ 4 3 0), .amov none (sw_ 4 3 0), .amovGet (pre_ 0 0 1) (sw_ 4 3 2), .amovPut (pre_ 0 0 2) (sw_ 3 4 2),
      .bndrd none (sw_ 4 3 0), .bndrdK (pre_ 0 0 1) (sw_ 4 3 0), .bndwr none (sw_ 3 4 0), .bndchk none (sw_ 3 0 0), .bndthr none (iw_ 3 0 0x3F)],
    one_.mayIssue i ∧ one_.activeFor i ≠ 0 ∧ one_.tilesFree at0 [3, 4] := by
  intro i hi
  have h : (mayB one_ i && one_.activeFor i != 0) = true := by revert i; decide +kernel
  simp only [Bool.and_eq_true, bne_iff_ne] at h
  exact ⟨may h.1, h.2, by unfold State.tilesFree; decide +kernel⟩

theorem witness_TileInstructions_illegal : (∃ n ∈ [8], (one_.blk one_.cur).t ≤ n) ∧ one_.canTrap at0 0 := ⟨by decide +kernel, canTrap (by decide +kernel)⟩

theorem witness_TileInstructions_waits : let s := { matrix_ (op_ .mma 1 none none) .none with cur := .split at0 0 }
    s.tileOwed at0 [2] = true ∧ s.mayIssue (.aclr none (sw_ 2 0 0)) := ⟨by decide +kernel, may (by decide +kernel)⟩

/-- A bound register whose overflow flag is set, and one where it is clear (R130). -/
theorem witness_TileInstructions_overflow : bndOvf 0 = false ∧ bndOvf (1#64 <<< 31) = true := by decide +kernel

theorem test_amov_put_then_get : (next (exec (.amovPut (pre_ 0 0 2) (sw_ 3 2 1)) one_) fun t => next (exec (.amovGet (pre_ 0 0 1) (sw_ 4 3 1)) t) fun u =>
    (u.rf u.cur).lane 4 31 == 31 && ((u.group at0).tile 3).elem (128 + 31) == 31 && ((u.group at0).tile 3).elem 0 == 0) = true := by decide +kernel

theorem witness_TileTransfers : ∀ r ∈ [block_rec, global_rec], let s := with_ r
    s.mayIssue (.adrain none (mw_ 3 5 1)) ∧ s.activeFor (.afill none (mw_ 3 5 1)) ≠ 0 ∧ s.mayIssue (.afill none (mw_ 3 5 1)) ∧ s.tilesFree at0 [3] ∧
      noWrites ((s.rf s.cur).rcd 1) = false := by
  intro r hr
  simp only [List.mem_cons, List.not_mem_nil, or_false] at hr
  rcases hr with rfl | rfl
  · exact ⟨may (by decide +kernel), by decide +kernel, may (by decide +kernel), by unfold State.tilesFree; decide +kernel, by decide +kernel⟩
  · exact ⟨may (by decide +kernel), by decide +kernel, may (by decide +kernel), by unfold State.tilesFree; decide +kernel, by decide +kernel⟩

/-- A record of FP32 elements is written by AST, and one of .i8 by AST.i (R69, R234). -/
theorem witness_TileTransfers_formats : let s := with_ global_rec
    (astFormat ((s.rf s.cur).rcd 1) 0).isSome = true ∨ (∃ f, f < 32 ∧ (astFormat (rec_ 0 0 0 0 ||| BitVec.ofNat 256 (f * 2 ^ 152)) 0).isSome = true) ∧
      ∃ f, f < 32 ∧ (astInt (rec_ 0 0 0 0 ||| BitVec.ofNat 256 (f * 2 ^ 152))).isSome = true := by decide +kernel

theorem witness_TileTransfers_fill : let s := with_ (rec_ 0 8208 1 2)
    s.accessFree false 0 [(0, s.target s.cur ((s.rf s.cur).rcd 1) ((s.rf s.cur).lane 5 0) false 8208)] 2 := free (by decide +kernel)

theorem witness_QuantiseSeedMerge : one_.mayIssue (.cvtq none (sw_ 8 0 12)) ∧ one_.mayIssue (.srseed none (sw_ 0 3 0)) ∧ one_.mayIssue (.smerge none (sw_ 20 26 0)) ∧
    lowest (one_.activeFor (.cvtq none (sw_ 8 0 12))) = some 0 :=
  ⟨may (by decide +kernel), may (by decide +kernel), may (by decide +kernel), by decide +kernel⟩

/-- SRSEED of 0 in lane 0: 0x9E3779B9 (R240). -/
theorem test_srseed : (next (exec (.srseed none (sw_ 0 3 0)) one_) fun t => (t.group at0).gen.lane 0 == 0x9E3779B9) = true := by decide +kernel

/-- One step of the generator from 0x2545F491 gives the state of R124's example. -/
theorem test_generator_shifts : genNext 1 = 0x42021 := by decide +kernel

/-! ## Engines: witnesses and single steps (ForkStartsThread, RendezvousAndWaits, CopiesStart, BulkCopies, ContentNames, Walks,
Launches) -/

/-- Feed threads of the block, each with its number as handle. -/
def threads_ (ended : Bool) (ns : List Nat) (b : Block) : Block :=
  { b with threads := ns.map fun n => (n, { Thread.empty with live := true, ended := ended, handle := BitVec.ofNat 32 n }) }

theorem witness_ForkStartsThread : lowest (one_.activeFor (.fork none 1)) = some 0 ∧ one_.mayIssue (.fork none 1) ∧ 0 ∉ (one_.core 0).threadsUsed ∧
    (let s := one_ id (threads_ false [0, 1, 2, 3, 4, 5, 6, 7])
     s.mayIssue (.forkHandle (pre_ 0 4 0) 1) ∧ ∀ n, n < 8 → n ∈ (s.core 0).threadsUsed) ∧
    (let s := one_ id (threads_ false [0, 1, 2, 3, 4, 5, 6])
     7 ∉ (s.core 0).threadsUsed ∧ ∀ m, m < 7 → m ∈ (s.core 0).threadsUsed) ∧ one_.activeFor (.fork (guard_ 2) 1) = 0 :=
  ⟨by decide +kernel, may (by decide +kernel), by decide +kernel, ⟨may (by decide +kernel), by decide +kernel⟩, by decide +kernel, by decide +kernel⟩

/-- FORK to the instruction after it: lane 0 has v1 and v2 of the lowest active lane, and the handle counts forks and thread. -/
theorem test_fork : (next (exec (.fork none 1) one_) fun t => ((t.block 0 1).thread 0).sp.pc == 0x1004 && ((t.block 0 1).thread 0).rf.lane 1 0 == 1 &&
    ((t.block 0 1).thread 0).rf.lane 1 1 == 0 && (t.group at0).forks == [0] && (t.core 0).forks == 1) = true := by decide +kernel

theorem witness_RendezvousAndWaits : let i : Instr := .rdv none (sw_ 0 3 0)
    lowest (one_.activeFor i) = some 0 ∧ one_.mayIssue i ∧ one_.joined 0 1 ((one_.rf one_.cur).lane 3 0) = true ∧
      (one_ id (threads_ true [0])).joined 0 1 0 = true ∧ (one_ id (threads_ false [0])).joined 0 1 0 = false ∧
      (one_ id (threads_ false [0])).mayIssue i ∧ one_.activeFor (.rdvAll none (sw_ 0 0 0)) ≠ 0 ∧
      (let s := one_ (fun g => { g with forks := [0] }) (threads_ false [0])
       s.mayIssue (.rdvAll none (sw_ 0 0 0)) ∧ s.issuer.forks = [0] ∧ s.joined 0 1 0 = false) :=
  ⟨by decide +kernel, may (by decide +kernel), by decide +kernel, by decide +kernel, by decide +kernel, may (by decide +kernel), by decide +kernel,
    ⟨may (by decide +kernel), by decide +kernel⟩⟩

theorem test_rdv_all_frees : (next (exec (.rdvAll none (sw_ 0 0 0)) (one_ (fun g => { g with forks := [0] }) (threads_ true [0, 1]))) fun t =>
    (t.group at0).forks == [] && (t.block 0 1).threads.map (·.1) == [1]) = true := by decide +kernel

/-- A copy and a job of the issuing group. -/
def copy_ (k : CopyKind) (party : Party := .group 0 1 0) : Copy :=
  { id := 6, ctx := 3, party := party, core := 0, block := 1, kind := k, size := 16, left := 0, buf := [(0, 9)],
    like := { held_ .needWalk with held := false, kind := .load } }
def job_ (k : JobKind) : Job :=
  { id := 6, kind := k, ctx := 3, part := 2, party := .group 0 1 0, also := [], handle := 1, src := global_rec, dst := rec_ 0x20000 65536 0 1, len := 16, wsr := true,
    ev := [7], phase := 0, left := 0, buf := [], page := 0, size := 65536, leafAt := 0x10000, leaf := 0xC070000040000000, frame := none }

theorem witness_RendezvousAndWaits_counts : let s : State := { one_ with copies := [copy_ (.scratch 0 false [(0, 1)])], jobs := [job_ .bulk] }
    lowest (s.activeFor (.acwait none (sw_ 0 3 0))) = some 0 ∧ s.mayIssue (.acwait none (sw_ 0 3 0)) ∧ s.mayIssue (.bcwait none (sw_ 0 1 0)) ∧
      ((s.rf s.cur).lane 3 0).toNat < (s.copies.filter fun x => !x.isWalk && x.party == s.cur.party).length ∧
      (s.copies.filter fun x => !x.isWalk && x.party == s.cur.party).length ≤ ((s.rf s.cur).lane 1 0).toNat ∧
      (∃ j ∈ s.jobs, j.kind ≠ .pageIn ∧ j.party = s.cur.party ∧ j.handle ≤ ((s.rf s.cur).lane 1 0).toNat) ∧
      ¬ ∃ j ∈ s.jobs, j.kind ≠ .pageIn ∧ j.party = s.cur.party ∧ j.handle ≤ ((s.rf s.cur).lane 3 0).toNat :=
  ⟨by decide +kernel, may (by decide +kernel), may (by decide +kernel), by decide +kernel, by decide +kernel, by decide +kernel, by decide +kernel⟩

/-- v3 holds 16 times the lane's number. -/
def steps_ (g : Group) : Group := { g with rf := g.rf.write 3 0xFFFFFFFF fun l => BitVec.ofNat 32 (16 * l) }

theorem witness_CopiesStart_acopy : ∀ r ∈ [global_rec, block_rec], let s := with_ r steps_
    let i : Instr := .acopy none (mw_ 3 3 1)
    let ts := s.targetsOf i 1 3 false 16
    s.mayIssue i ∧ recFormat ((s.rf s.cur).rcd 1) < 0x12 ∧ (∀ l, l < 32 → ((s.rf s.cur).lane 3 l).toNat % 16 = 0 ∧
      ((s.rf s.cur).lane 3 l).toNat + 16 ≤ (s.blk s.cur).alloc) ∧ s.accessFree false 0 ts 0 ∧ s.acquired ∧ s.copiesFit ts.length := by
  intro r hr
  simp only [List.mem_cons, List.not_mem_nil, or_false] at hr
  rcases hr with rfl | rfl
  · exact ⟨may (by decide +kernel), by decide +kernel, by decide +kernel, free (by decide +kernel), .inr (by decide +kernel), by unfold State.copiesFit; decide +kernel⟩
  · exact ⟨may (by decide +kernel), by decide +kernel, by decide +kernel, free (by decide +kernel), .inr (by decide +kernel), by unfold State.copiesFit; decide +kernel⟩

theorem witness_CopiesStart_full : let s : State := { with_ global_rec steps_ with copies := List.replicate 225 (copy_ (.scratch 0 false [(0, 1)])) }
    s.mayIssue (.acopy none (mw_ 3 3 1)) ∧ ¬s.copiesFit (s.targetsOf (.acopy none (mw_ 3 3 1)) 1 3 false 16).length :=
  ⟨may (by decide +kernel), by unfold State.copiesFit; decide +kernel⟩

/-- A record of .i8 elements (R69), and one of the block's tiles of FIFO entries. -/
def typed_ (fmt space : Nat) : BitVec 256 := rec_ 0x10000 0x100000 space 1 ||| BitVec.ofNat 256 (fmt * 2 ^ 152)

theorem witness_CopiesStart_fifo : let s := with_ (typed_ 1 0)
    let b := s.blk s.cur
    let parts (isB : Bool) := s.entryParts s.cur (typed_ 1 0) isB (laneOffset (typed_ 1 0) 0 false)
      (entrySpots (typed_ 1 0) 0 false (entryShape isB 1).1 (rowBytesOf isB 1))
    recFormat (typed_ 1 0) = 1 ∧ s.mayIssue (.acopyA none (mw_ 1 3 1)) ∧ s.mayIssue (.acopyB none (mw_ 1 3 1)) ∧ (1 : Nat) < b.g * b.f ∧ (matK 1).isSome = true ∧
      (∀ isB ∈ [true, false], ∀ y ∈ parts isB, y.2.1 ≠ .bounds ∧ y.2.1 ≠ .away) ∧ s.acquired ∧ s.fifosAway 0 b.part = false ∧ s.copiesFit 1 ∧ (b.stream 1).length < 4 :=
  ⟨by decide +kernel, may (by decide +kernel), may (by decide +kernel), by decide +kernel, by decide +kernel, by decide +kernel, .inr (by decide +kernel), by decide +kernel,
    by unfold State.copiesFit; decide +kernel, by decide +kernel⟩

/-- A pool of the partition with so many FIFO rows (R247). -/
theorem witness_CopiesStart_fifo_pool : let s : State := { with_ (typed_ 1 0) with parts := [(2, { Part.reset with ranges := { Part.reset.ranges with fifos := 4 } })] }
    s.entryFits (.acopyA none (mw_ 1 3 1)) 1 2048 ∧ ¬(with_ (typed_ 1 0)).entryFits (.acopyA none (mw_ 1 3 1)) 1 2048 := by
  unfold State.entryFits; decide +kernel

theorem witness_CopiesStart_mfill : let s := with_ global_rec fun g => { g with rf := g.rf.write 3 0xFFFFFFFF fun l => BitVec.ofNat 32 (128 * l) }
    let i : Instr := .mfill none (mw_ 4 3 1)
    let ts := s.targetsOf i 1 3 false 128
    lowest (s.activeFor i) = some 0 ∧ s.mayIssue i ∧ recSpace ((s.rf s.cur).rcd 1) = .global ∧ (∀ l, l < 32 →
      laneOffset ((s.rf s.cur).rcd 1) ((s.rf s.cur).lane 3 l) false % 128 = 0 ∧ ((s.rf s.cur).lane 4 l).toNat % 16 = 0 ∧
        ((s.rf s.cur).lane 4 l).toNat + 128 ≤ (s.blk s.cur).alloc) ∧ s.accessFree false 0 ts 0 ∧ s.acquired ∧ s.copiesFit ts.length :=
  ⟨by decide +kernel, may (by decide +kernel), by decide +kernel, by decide +kernel, free (by decide +kernel), .inr (by decide +kernel), by unfold State.copiesFit; decide +kernel⟩

theorem test_acopy_starts : (next (exec (.acopy none (mw_ 3 3 1)) (with_ global_rec steps_)) fun t => t.copies.length == 32 && t.reqs.length == 32 &&
    (t.copies.getLast?.map (·.kind)) == some (.scratch 496 false [(0, 1)])) = true := by decide +kernel

/-- s1 holds 16, and two records: a destination and a source of these spaces. -/
def bulk_ (dst src : Nat) : State :=
  one_ (fun g => { g with rf := { g.rf.write 3 0xFFFFFFFF (fun _ => 16) with k := [(1, rec_ 0x20000 65536 dst 1), (2, rec_ 0 65536 src 1)] } })
    id fun s => { s with parts := [(2, { Part.reset with segs := BitVec.allOnes 128 })] }

theorem witness_BulkCopies : ∀ x ∈ [(0, 0), (3, 0), (0, 3), (0, 4), (0, 5)], let s := bulk_ x.1 x.2
    let i : Instr := .bcopy (pre_ 0 3 0) (sw_ 4 1 2)
    let dst := (s.rf s.cur).rcd 1
    let src := (s.rf s.cur).rcd 2
    lowest (s.activeFor i) = some 0 ∧ s.mayIssue i ∧ s.acquired ∧ jobLength 16 [dst, src] = 16 ∧ jobTraps 16 dst = false ∧
      jobTraps 16 src = false ∧ recFormat dst < 0x12 ∧ recFormat src < 0x12 ∧
      (recSpace src = .global ∨ recSpace src = .peer ∨ recSpace src = .tree ∨ (recSpace src = .weight ∧ (s.blk s.cur).wsr = true ∧ s.jobSegs 2 src 16 = true)) ∧
      (recSpace dst = .global ∨ (recSpace dst = .weight ∧ s.jobSegs 2 dst 16 = true)) ∧ s.openJobs (s.blk s.cur).ctx < 64 := by
  intro x hx
  simp only [List.mem_cons, List.not_mem_nil, or_false] at hx
  rcases hx with rfl | rfl | rfl | rfl | rfl <;> exact ⟨by decide +kernel, may (by decide +kernel), .inr (by decide +kernel), by decide +kernel⟩

theorem witness_BulkCopies_tree : let s := bulk_ 0 4
    let i : Instr := .cacopy none (sw_ 4 1 2)
    s.mayIssue i ∧ s.acquired ∧ recSpace ((s.rf s.cur).rcd 2) = .tree ∧ jobTraps 65536 ((s.rf s.cur).rcd 1) = false ∧
      ¬({ s with jobs := List.replicate 64 (job_ .bulk) } : State).openJobs 3 < 64 := ⟨may (by decide +kernel), .inr (by decide +kernel), by decide +kernel⟩

theorem test_bcopy_numbers : (next (exec (.bcopy (pre_ 0 3 0) (sw_ 4 1 2)) (bulk_ 0 0)) fun t => (t.rf t.cur).lane 4 9 == 1 &&
    t.jobs.map (fun j => (j.kind, j.len, j.handle)) == [(.bulk, 16, 1)]) = true := by decide +kernel

theorem witness_ContentNames : one_.activeFor (.cains none (sw_ 4 1 8)) ≠ 0 ∧ one_.boardFree ∧ one_.mayIssue (.cains none (sw_ 4 1 8)) ∧
    one_.mayIssue (.cainsN none (sw_ 4 1 8)) ∧ lowest (one_.activeFor (.caget none (sw_ 8 4 0))) = some 0 ∧ one_.mayIssue (.caget none (sw_ 8 4 0)) ∧
    one_.mayIssue (.carefInc none (sw_ 0 4 0)) ∧ one_.mayIssue (.carefDec none (sw_ 0 4 0)) ∧ one_.mayIssue (.carefPin none (sw_ 8 4 0)) ∧
    ((one_.rf one_.cur).pair 4 0).toNat % 8 = 0 :=
  ⟨by decide +kernel, room (by decide +kernel), may (by decide +kernel), may (by decide +kernel), by decide +kernel, may (by decide +kernel),
    may (by decide +kernel), may (by decide +kernel), may (by decide +kernel), by decide +kernel⟩

theorem witness_ContentNames_swap : let s := with_ global_rec fun g => { g with rf := g.rf.write 3 0xFFFFFFFF fun l => BitVec.ofNat 32 (8 * l) }
    let i : Instr := .caswap (pre_ 0 8 0) (mw_ 4 3 1)
    let ts := s.targetsOf i 1 3 false 8
    s.mayIssue i ∧ recSpace ((s.rf s.cur).rcd 1) = .global ∧ (∀ l, l < 32 → odd ((s.rf s.cur).rcd 1) ((s.rf s.cur).lane 3 l) false 8 = false) ∧ s.boardFree ∧
      s.accessFree (orderRel 0) 0 ts 0 ∧ ts.lines 8 ≠ [] ∧ (s.targetsOf (.caswap (some ⟨false, 2, true, 0⟩) (mw_ 4 3 1)) 1 3 false 8).lines 8 = [] :=
  ⟨may (by decide +kernel), by decide +kernel, by decide +kernel, room (by decide +kernel), free (by decide +kernel), by decide +kernel,
    by decide +kernel⟩

theorem witness_Walks : let s := with_ (rec_ 0x1000 2048 4 0)
    s.mayIssue (.cawalk none (sw_ 4 1 2)) ∧ s.activeFor (.cawalk none (sw_ 4 1 2)) ≠ 0 ∧ recSpace ((s.rf s.cur).rcd 1) = .tree ∧ s.boardFree ∧
      (∃ l, l < 32 ∧ ((s.rf s.cur).lane 2 l).toNat < 16 ^ treeDepth 16) ∧ ∃ l, l < 32 ∧ ¬((s.rf s.cur).lane 2 l).toNat < 16 ^ treeDepth 16 :=
  ⟨may (by decide +kernel), by decide +kernel, by decide +kernel, room (by decide +kernel), by decide +kernel, by decide +kernel⟩

theorem witness_Walks_kv : ∀ r ∈ [global_rec, rec_ 0 8192 1 0], let s := with_ r
    let i : Instr := .kvwalk (pre_ 0 8 0) (sw_ 4 1 2)
    s.mayIssue i ∧ s.activeFor i ≠ 0 ∧ ¬(recSpace r = .reserved ∧ recMode r = .trap) ∧ s.boardFree ∧ s.acquired ∧
      ((s.kvTarget s.cur r 0 128).isLine = false → ∀ l ∈ lanesOf (s.activeFor i),
        (s.kvPads s.cur r ((s.rf s.cur).pair 8 l) ((s.rf s.cur).lane 2 l).toNat 18 .root).isSome = true) := by
  intro r hr
  simp only [List.mem_cons, List.not_mem_nil, or_false] at hr
  rcases hr with rfl | rfl
  · exact ⟨may (by decide +kernel), by decide +kernel, by decide +kernel, room (by decide +kernel), .inr (by decide +kernel), by decide +kernel⟩
  · exact ⟨may (by decide +kernel), by decide +kernel, by decide +kernel, room (by decide +kernel), .inr (by decide +kernel), by decide +kernel⟩

theorem witness_Launches : ∀ r ∈ [block_rec, global_rec], let s := with_ r
    let i : Instr := .launch none (sw_ 0 1 3)
    lowest (s.activeFor i) = some 0 ∧ s.mayIssue i ∧ (s.sp s.cur).lpb = none ∧ (s.sp s.cur).wait ≠ some .lpb ∧ s.clsOwed s.cur 0 s.covers = false ∧
      s.accessFree true 0 [(0, s.target s.cur r 0 false 128)] 0 ∧ laneOffset r 0 false % 128 = 0 ∧ laneOffset r 5 false % 128 ≠ 0 := by
  intro r hr
  simp only [List.mem_cons, List.not_mem_nil, or_false] at hr
  rcases hr with rfl | rfl
  · exact ⟨by decide +kernel, may (by decide +kernel), by decide +kernel, by decide +kernel, by decide +kernel, free (by decide +kernel), by decide +kernel,
      by decide +kernel⟩
  · exact ⟨by decide +kernel, may (by decide +kernel), by decide +kernel, by decide +kernel, by decide +kernel, free (by decide +kernel), by decide +kernel,
      by decide +kernel⟩

theorem witness_Launches_targets : (one_.target one_.cur block_rec 0 false 128).isLine = false ∧ ∃ sp va, one_.target one_.cur global_rec 0 false 128 = .line sp va :=
  ⟨by decide +kernel, .global, 0x10000, by decide +kernel⟩

theorem witness_Launches_offered : let s := one_ fun g => { g with splits := [(0, { split_ with lpb := some 5 })] }
    (s.sp s.cur).lpb = some 5 ∧ s.mayIssue (.launch none (sw_ 0 1 3)) := ⟨by decide +kernel, may (by decide +kernel)⟩

/-- A launch parameter block of one group of 16 register units, and its ranges (R40, R41). -/
def lpb_ (x : Nat) : Lpb := BitVec.ofNat 1024 (2 ^ 210 + x)
def ranges_ : Ranges := { Part.reset.ranges with slots := 1, rows := 16, sprows := 0, tiles := 0, fifos := 0 }

/-- The reasons 2, 3, 5 and 4 and no refusal, each at a value at its edge (R41). -/
theorem witness_Launches_checks : lpbRefused ranges_ (lpb_ 0) = none ∧ lpbRefused ranges_ (lpb_ (2 ^ 252)) = some 2 ∧ lpbRefused ranges_ (lpb_ (32 * 2 ^ 210)) = some 3 ∧
    lpbRefused ranges_ (BitVec.ofNat 1024 0) = some 3 ∧ lpbRefused ranges_ (lpb_ 2) = some 5 ∧ lpbRefused ranges_ (lpb_ (2 ^ 56)) = some 5 ∧
    lpbRefused ranges_ (lpb_ (255 * 2 ^ 56)) = none ∧ lpbRefused ranges_ (lpb_ (2 ^ 210)) = some 4 ∧ lpbRefused ranges_ (lpb_ (2 ^ 205)) = some 4 := by decide +kernel

/-! ## System: witnesses and single steps (SystemRead, SystemWrite, SystemRegisters, Shootdowns, ContextSwitch) -/

/-- A context that has bit sys. -/
def sys_ (f : Group → Group := id) : State := one_ f id fun s => { s with ctxs := [(3, { ctx_ with sys := true }), (4, { ctx_ with res := .spilled })] }

theorem witness_SystemRead : one_.mayIssue (.sysrd none (iw_ 4 0 7)) ∧ lowest (one_.activeFor (.sysrd none (iw_ 4 0 7))) = some 0 ∧
    regReadable one_.rank 7 0 = true ∧ isArray 7 = false ∧ isArray 0x030 = true ∧ regReadable one_.rank 0x030 0 = true ∧
    regReadable one_.rank 0x030 (one_.element 0x030 1 0) = true ∧ regReadable one_.rank 0x3FF 0 = false ∧ (3#7) ≠ 0 ∧
    (one_ fun g => { g with rf := g.rf.write 3 1 fun _ => 9 }).element 0x030 3 0 = 9 ∧ regReadable one_.rank 0x030 9 = false ∧
    lowest (one_.activeFor (.sysrd (guard_ 2) (iw_ 4 0 7))) = none :=
  ⟨may (by decide +kernel), by decide +kernel⟩

theorem test_sysrd_laneid : (next (exec (.sysrd none (iw_ 4 0 0)) one_) fun t => (t.rf t.cur).lane 4 31 == 31) = true := by decide +kernel

theorem witness_SystemWrite : let i : Instr := .syswr none (iw_ 0 1 0x61)
    sys_.mayIssue i ∧ lowest (sys_.activeFor i) = some 0 ∧ regWritable sys_.rank 0x61 0 = true ∧ isArray 0x61 = false ∧
      sys_.element 0x61 0 0 = 0 ∧ regWritable one_.rank 0x61 0 = false ∧ lowest (sys_.activeFor (.syswr (guard_ 2) (iw_ 0 1 0x61))) = none :=
  ⟨may (by decide +kernel), by decide +kernel⟩

theorem test_syswr_needs_sys : (next (exec (.syswr none (iw_ 0 1 0x61)) sys_) fun t => (t.ctx 3).handler == 1) = true ∧
    (next (exec (.syswr none (iw_ 0 1 0x61)) one_) fun t => (t.group at0).xcause == 1 && (t.ctx 3).handler == 0x8000) = true := by decide +kernel

/-- A trap entry on the stack, and an empty stack. -/
theorem witness_SystemRegisters : (4#32).toNat % 32 = 4 ∧ (16#32).toNat % 32 ≤ 16 ∧ (65536#32).toNat ≤ 65536 ∧
    (∃ e rest, ((one_ (stacked_ 1 true)).group at0).stack = e :: rest ∧ e.trap = true) ∧ (one_.group at0).stack = [] :=
  ⟨by decide, by decide, by decide, ⟨_, [], rfl, rfl⟩, rfl⟩

theorem witness_Shootdowns : sys_.mayIssue (.tlbinv none (sw_ 0 4 3)) ∧ sys_.mayIssue (.shoot none (sw_ 0 4 3)) ∧ sys_.mayIssue (.shootCtx (pre_ 0 5 0) (sw_ 0 4 3)) ∧
    lowest (sys_.activeFor (.shoot none (sw_ 0 4 3))) = some 0 ∧ sys_.mayName 3 ∧ (sys_.ctx 3).created = true ∧ sys_.mayName 9 ∧ (sys_.ctx 9).created = false ∧
    ¬one_.mayName 3 ∧ sys_.rank = 1 := by
  refine ⟨may (by decide +kernel), may (by decide +kernel), may (by decide +kernel), ?_⟩
  unfold State.mayName; decide +kernel

theorem test_tlbinv_range : (next (exec (.tlbinv none (sw_ 0 3 1)) (paged_ fun g => { g with rf := g.rf.write 3 1 fun _ => 0x3FFF0000 })) fun t =>
    (t.core 0).tlb == []) = true ∧
    (next (exec (.tlbinv none (sw_ 0 3 1)) (paged_ fun g => { g with rf := g.rf.write 3 1 fun _ => 0x40000000 })) fun t => (t.core 0).tlb == [tlb_]) = true := by
  decide +kernel

/-- CTXSW of context 3 for context 4, which is spilled. -/
theorem witness_ContextSwitch : let s := sys_ fun g => { g with rf := (g.rf.write 3 1 fun _ => 3).write 4 1 fun _ => 4 }
    let i : Instr := .ctxsw none (sw_ 0 3 4)
    lowest (s.activeFor i) = some 0 ∧ s.mayIssue i ∧ s.mayName 3 ∧ s.mayName 4 ∧ ((s.rf s.cur).lane 3 0).toNat = 3 ∧ ((s.rf s.cur).lane 4 0).toNat = 4 ∧
      (s.ctx 3).res = .resident ∧ (s.ctx 4).res = .spilled ∧ (s.core 0).holds 3 = true ∧ ¬one_.mayName 0 ∧ one_.mayIssue (.uien none (sw_ 0 1 0)) ∧
      lowest (one_.activeFor (.uien none (sw_ 0 1 0))) = some 0 := by
  refine ⟨by decide +kernel, may (by decide +kernel), ?_, ?_, by decide +kernel, by decide +kernel, by decide +kernel, by decide +kernel, by decide +kernel, ?_,
    may (by decide +kernel), by decide +kernel⟩ <;> · unfold State.mayName; decide +kernel

theorem test_ctxsw_stages : (next (exec (.ctxsw none (sw_ 0 3 4)) (sys_ fun g => { g with rf := (g.rf.write 3 1 fun _ => 3).write 4 1 fun _ => 4 })) fun t =>
    (t.core 0).preempt == [3] && (t.core 0).pairs == [(3, 4)] && (t.ctx 4).staged) = true := by decide +kernel

theorem test_uien : (next (exec (.uien none (sw_ 0 1 0)) one_) fun t => (t.group at0).uien == 1) = true := by decide +kernel

/-! ## Events: witnesses and single steps (GroupEvents, DispatchEvents, PreemptionEvents, MemoryEvents, ParkingAndPorts, JobsAndPools,
DeviceEvents, RegisterWriteEvents) -/

theorem witness_GroupEvents_merge : let s := ev_ (.splits at0 0 1) (besides_ id)
    let x := (s.group at0).split 0
    let y := (s.group at0).split 1
    s.arg = .splits at0 0 1 ∧ (s.group at0).live = true ∧ x.live = true ∧ y.live = true ∧ x.pc = y.pc ∧ x.depth = y.depth ∧ s.leaving at0 x = false ∧
      s.leaving at0 y = false ∧ s.lined = false ∧ (s.core 0).sits = false ∧ (s.group at0).popped = false ∧ s.inSpan 0 3 x = false ∧ (s.group at0).last ≠ some 1 ∧ x.waitsWith y = false := by
  decide +kernel

/-- Two splits that wait alike. -/
theorem witness_GroupEvents_alike : let x : Split := { split_ with wait := some .event, walks := some 5, snap := some regs_ }
    x.waitsWith { x with mask := 0xF0 } = true ∧ one_.leaving at0 x = false ∧ one_.leaving at0 { x with walks := some 256 } = true := by decide +kernel

theorem witness_GroupEvents_pop : let s := ev_ (.group at0) (stacked_ 1 false)
    s.arg = .group at0 ∧ (s.group at0).live = true ∧ (s.group at0).liveSplits.length < 4 ∧ s.lined = false ∧ (s.core 0).sits = false ∧ (s.group at0).popped = false ∧ s.merges at0 = [] ∧
      (s.group at0).stack = [{ pc := 0x2000, mask := 0xFF, trap := false }] := by decide +kernel

/-- Line 2 is pending and enabled. -/
def lined_ (g : Group) : Group := { g with uien := 4, uipend := 4 }

theorem witness_GroupEvents_interrupt : let s := ev_ (.split at0 0) lined_
    s.arg = .split at0 0 ∧ s.interruptee at0 = some 0 ∧ (s.group at0).lines.getLsbD 2 = true ∧ (∀ m, m < 2 → (s.group at0).lines.getLsbD m = false) ∧
      (s.group at0).stack.length < 16 ∧ (s.ctx 3).handler ≠ 0 ∧
      (let t := ev_ (.split at0 0) fun g => lined_ (stacked_ 16 true id g)
       t.interruptee at0 = some 0 ∧ 16 ≤ (t.group at0).stack.length) := by decide +kernel

theorem witness_GroupEvents_yield : let s := ev_ (.split at0 0) (fun g => { g with splits := [(0, { split_ with yield := some ([], 0, 64) })] }) id fun s => { s with ck := 64 }
    s.arg = .split at0 0 ∧ ((s.group at0).split 0).yield = some ([], 0, 64) ∧ 64 ≤ s.coreCk 0 := by decide +kernel

/-- A split that waits with a word at its address: QPUSH, QPOP and the two LDFE (R218, R208). -/
def again_ (wt : Wait) (v : Word) : State :=
  { (paged_ (fun g => { g with splits := [(0, { split_ with wait := some wt })] }) id fun s => { s with mem := s.mem.writeAll (at_ 0x40001000 (bytesOf v 4)) }) with
    arg := .who (.split at0 0), cur := .nobody, lined := true }

theorem witness_GroupEvents_retry : let w : Who := .split at0 0
    (again_ .qpush 0xD6060800).fetched w = .ok (.qpush none (sw_ 3 2 0)) 0xD6060800 4 ∧ (again_ .qpop 0xD7080C00).fetched w = .ok (.qpop none (sw_ 4 3 0)) 0xD7080C00 4 ∧
      (again_ .ldfe 0xB4080C20).fetched w = .ok (.ldfeKeep none (mw_ 4 3 1)) 0xB4080C20 4 ∧
      (again_ .ldfe 0xB5080C20).fetched w = .ok (.ldfeClr none (mw_ 4 3 1)) 0xB5080C20 4 ∧
      ((again_ .qpush 0xD6060800).sp w).tried = false ∧ (again_ .qpush 0xD6060800).lives w = true ∧ ((again_ .ldfe 0xB4080C20).sp w).wait = some .ldfe := by
  decide +kernel

theorem test_split_merge : (next (exec .splitMerge (ev_ (.splits at0 0 1) (besides_ fun x => { x with mask := 0xF0 }))) fun t =>
    ((t.group at0).liveSplits.map fun e => (e.1, e.2.mask)) == [(0, 0xFFFFFFFF)]) = true := by decide +kernel

theorem witness_DispatchEvents_take : let s := ev_ (.num2 3 0) id id fun s => { s with ctxs := [(3, { ctx_ with lq := [(0, [lpb_ 0])] })] }
    s.arg = .num2 3 0 ∧ (s.ctx 3).queue 0 = lpb_ 0 :: [] ∧ (s.ctx 3).created = true ∧ (s.ctx 3).killed = false ∧
      lpbWait (lpb_ 0) &&& ~~~(s.ctx 3).ev = 0 ∧ (s.grids.filter fun g => g.2.live && g.2.ctx == 3).length < 8 ∧ lpbWsr (lpb_ 0) = false ∧ lpbWsr (lpb_ (2 ^ 243)) = true ∧ s.jobs = [] := by decide +kernel

/-- A grid whose one gang has yet to be placed, and a free core. -/
def placing_ : State :=
  ev_ (.places 7 [{ core := 1, slot := 0, row := 0, sprow := 0, tile := 0, fifo := 0 }]) id id fun s => { s with
    grids := [(7, { Grid.empty with live := true, ctx := 3, lpb := lpb_ 0 })], parts := [(2, { Part.reset with ranges := ranges_ })], cores := [], gangs := [] }

theorem witness_DispatchEvents_place : placing_.placesOk 2 (lpb_ 0) [{ core := 1, slot := 0, row := 0, sprow := 0, tile := 0, fifo := 0 }] = true := by decide +kernel

theorem witness_DispatchEvents_place_next : (placing_.nextPlacement 2).map (·.1) = some 7 := by decide +kernel

theorem test_gang_place : (next (exec .gangPlace placing_) fun t => (t.block 1 10).live && ((t.block 1 10).group 0).rf.lane 0 5 == 5 && (t.grid 7).next == 1) = true := by
  decide +kernel

theorem witness_DispatchEvents_block : ∀ n ∈ [1, 2], let s := ev_ (.num2 0 1) (fun g => { g with live := false }) id fun s => { s with
      gangs := [(8, { Gang.empty with live := true, grid := 7, blocks := [(0, 1)], left := n })] }
    s.arg = .num2 0 1 ∧ (s.block 0 1).live = true ∧ (∀ e ∈ (s.block 0 1).groups, e.2.live = false) ∧ (∀ e ∈ (s.block 0 1).threads, e.2.live = false) ∧
      (s.gang (s.block 0 1).gang).left = n := by decide +kernel

theorem witness_DispatchEvents_grid : let s := ev_ (.num 7) id id fun s => { s with grids := [(7, { live := true, ctx := 3, lpb := lpb_ 0, next := 1, retired := 1 })] }
    s.arg = .num 7 ∧ (s.grid 7).live = true ∧ (s.grid 7).next = lpbGangs (s.grid 7).lpb ∧ (s.grid 7).retired = lpbGangs (s.grid 7).lpb ∧ s.gridOwes 7 = false := by
  decide +kernel

theorem witness_DispatchEvents_barrier : (ev_ (.barrier (.block 0 1)) fun g => { g with arrB := some 0 }).phaseDone (.block 0 1) = true ∧
    (ev_ (.barrier (.gang 8)) fun g => { g with arrG := some 0 }).phaseDone (.gang 8) = true := by decide +kernel

/-- The small state with context 3 in a residency, its block in the active or the shadow bank. -/
def banks_ (a : Arg) (res : Residency) (act : Bool) (f : Ctx → Ctx) (g : Core → Core) : State :=
  ev_ a id id fun s => { s with
    cores := [(0, g { Core.reset with act := if act then (s.core 0).act else [], sha := if act then [] else (s.core 0).act })]
    ctxs := [(3, f { ctx_ with res := res, save := 0x100000 })] }

/-- What is saved of the block. -/
def saved_ : List SavedCore := [{ core := 0, blocks := [(1, block_)], ops := [], written := true }]

/-- The header of a save area of a partition without ranges is 0; another partition has ranges. -/
theorem witness_PreemptionEvents : (banks_ (.num2 0 3) .resident true id fun c => { c with preempt := [3] }).canSwap 0 3 = true ∧
    (banks_ (.num2 0 3) .spilling false id id).canSpill 0 3 = true ∧
    (let s := banks_ (.num2 0 3) .spilled true (fun x => { x with staged := true, image := some saved_ }) fun c => { c with act := [] }
     s.canLoad 0 3 = true ∧ headerRanges s.mem (s.ctx 3).save = [0, 0, 0, 0, 0] ∧ (s.part 2).ranges = Ranges.empty ∧
       (s.ctx 3).savedOn 0 = some (0, { core := 0, blocks := [(1, block_)], ops := [], written := true }) ∧ ranges_.slots % 256 ≠ 0) ∧
    (banks_ (.num2 0 3) .restoring false id id).canStage 0 3 = true := by decide +kernel

theorem witness_PreemptionEvents_reports : let s : State := ev_ (.num 3) id id fun s => { s with
      ctxs := [(3, { ctx_ with idle := 0x100000 })], grids := [(7, { Grid.empty with live := true, ctx := 3, lpb := lpb_ 0 })] }
    s.undispatched 3 = true ∧ s.arg = .num 3 ∧ (s.ctx 3).ctxerr.getLsbD 30 = false ∧ (s.ctx 3).stallst.getLsbD 31 = false ∧ (s.ctx 3).idle = 0x100000 := by
  decide +kernel

theorem witness_PreemptionEvents_hang : let s : State := ev_ (.num 3) id id fun s => { s with ctxs := [(3, { ctx_ with idle := 0x1000000 })], grids := [] }
    s.undispatched 3 = false ∧ (s.ctx 3).ctxerr &&& 0xC0000000 = 0 ∧ (∀ x ∈ s.groupsOf 3, ∀ e ∈ x.2.2.2.liveSplits, e.2.depth = 0) ∧
      (s.ctx 3).idle = 0x1000000 := by decide +kernel

theorem witness_PreemptionEvents_kill : let s := ev_ (.write 0 3)
    s.killst.getLsbD 31 = false ∧ s.kills = [] ∧ ({ s with killst := 0x80000005 } : State).killst.getLsbD 31 = true := by decide +kernel

theorem test_preempt_swap : (next (exec .preemptSwap (banks_ (.num2 0 3) .resident true id fun c => { c with preempt := [3] })) fun t =>
    (t.core 0).act == [] && (t.core 0).sha.map (·.1) == [1] && (t.core 0).swaps.map (·.stop) == [96]) = true := by decide +kernel

/-- A request of the group, and the small state with it and with page tables. -/
def req_ (kind : ReqKind) (st : ReqSt) (land : Land := .none) : Req := { held_ st with held := false, kind := kind, land := land }
def memory_ (r : Req) (k : State → State := id) : State := k { paged_ with arg := .num r.id, cur := .nobody, reqs := [r] }

theorem witness_MemoryEvents_walk : let r := req_ .load .needWalk
    let s := memory_ r
    s.arg = .num r.id ∧ s.req? r.id = some r ∧ r.translated = true ∧ s.markers.contains (r.ctx, granuleOf r.va) = false ∧
      s.translate 3 r.va r.need (r.space == .peer) r.isAtomic = .ok 0x40010000 0 0 2 0x10000 0xC070000040000000 ∧
      (memory_ r fun s => { s with mem := [] }).translate 3 r.va r.need false false = .fail 0 3 0 ∧
      (memory_ r fun s => { s with markers := [(3, 1)] }).markers.contains (r.ctx, granuleOf r.va) = true := by decide +kernel

theorem witness_MemoryEvents_perform : ∀ kind ∈ [ReqKind.store [(0, 1), (127, 2)], .load, .atom .add 4 1 0, .caswap 0 5], ∀ land ∈ [Land.none, .copy 6,
      .regs 0 1 0 1 [some (.row 4)] none 0 4 0], let r := req_ kind (.mapped 0x40010000 0 0) land
    let s := memory_ r
    s.req? r.id = some r ∧ s.mayGo r = true ∧ s.poisoned 0x40010000 = false ∧ r.space = .global ∧ r.pieces = [⟨0, 0, 4, 0⟩] ∧ s.home r.ctx 0 1 = .act := by decide +kernel

theorem witness_MemoryEvents_insert : let r := { req_ (.caInsert 1 CaLine.zero) (.mapped 0 0 0) with space := .tree, cls := 4 }
    (memory_ r).req? r.id = some r ∧ (memory_ r).mayGo r = true := by decide +kernel

theorem witness_MemoryEvents_window : let r := req_ .load (.mapped 0x40010000 0 0) (.copy 6)
    let s := { memory_ r with arg := .num 0x800200 }
    s.reqs.filter (·.joins 0x800200) = [r] ∧ ∀ q ∈ s.reqs, q.joins 0x800201 = false := by decide +kernel

theorem witness_MemoryEvents_copies : ∀ k ∈ [CopyKind.scratch 32 true [(0, 1)], .fifo 1 6, .lpb (.split at0 0)], let x := copy_ k
    let s := ev_ (.num2 x.id 0) (fun g => { g with splits := [(0, { split_ with walks := some 6 })] }) id fun s => { s with copies := [x] }
    s.arg = .num2 x.id 0 ∧ (s.copies.find? fun y => y.id == x.id && y.left == 0) = some x ∧ s.home 3 0 1 = .act ∧ (s.sp (.split at0 0)).walks = some x.id := by
  decide +kernel

theorem witness_MemoryEvents_failures : let r (cls tier : Nat) := { req_ .load (.mapped 0x40010000 cls tier) with space := if cls = 2 then .peer else .global }
    (memory_ (r 2 0)).mayGo (r 2 0) = true ∧ (r 2 0).space = .peer ∧ (memory_ (r 4 0)).mayGo (r 4 0) = true ∧ (memory_ (r 0 2)).mayGo (r 0 2) = true ∧
      (r 0 2).translated = true ∧ (r 0 2).need ≠ .write ∧ (memory_ (r 4 0)).home 3 0 1 ≠ .image := by decide +kernel

/-- A context reads what it writes, on the package and off it (R25, R206). -/
theorem test_written_is_seen : (one_.writeFor 3 [(0x40010000, 1), (0x4001007F, 2)]).seenBy 3 0x4001007F = 2 :=
  (State.writeFor_wroteFor one_ 3 0x40010000 [(0, 1), (127, 2)]).1 (127, 2) (by decide) (by decide)

theorem test_walk_sets_accessed : (next (exec .pageWalk (memory_ (req_ .load .needWalk))) fun t => t.mem.read64 0x10000 == 0xC170000040000000) = true := by
  decide +kernel

/-- A record at Sorrel. -/
def park_ (r : Req) (cause : Nat) : ParkRec := { req := r, slice := r.slice, seq := 0, cause := cause, level := 0, pte := 0, since := 0 }

theorem witness_ParkingAndPorts_park : let r := req_ .load (.failed 1 0 0)
    let s := memory_ r
    s.req? r.id = some r ∧ s.canPark r = true ∧ (s.ctx r.ctx).killed = false ∧ r.translated = true ∧ s.markers.contains (r.ctx, granuleOf r.va) = false ∧
      r.gen = (s.ctx r.ctx).tgen.toNat ∧ (∀ p ∈ s.parked, s.holds p r = false ∧ p.near r 0 = false) ∧
      (let t := memory_ r fun s => { s with parked := [park_ { r with id := 4 } 1] }
       t.canPark r = true ∧ ∃ p ∈ t.parked, t.holds p r = true) := by decide +kernel

/-- A fault record that waits, and room in the queue of 16 records but not with 15 in it. -/
def fault_ : FaultRec := { va := 0x10000, pte := 0, seq := 0, ctx := 3, part := 2, cause := 1, acc := 0, level := 0, slice := 0, src := 0, gen := 0 }
theorem witness_ParkingAndPorts_post : let s (h t : Nat) := ev_ (.num 2) id id fun s => { s with parts := [(2, { Part.reset with faults := [fault_], fqhead := h, fqtail := t })] }
    ((s 0 0).part 2).faults = fault_ :: [] ∧ ((s 0 0).part 2).queueRoom = true ∧ ((s 0 15).part 2).queueRoom = false ∧ ((s 1 15).part 2).queueRoom = true := by decide +kernel

theorem test_fault_record_wraps : (next (exec .faultRecordPost (ev_ (.num 2) id id fun s => { s with
    parts := [(2, { Part.reset with faults := [fault_], fqhead := 1, fqtail := 15, fqbase := 0x1000 })] })) fun t => (t.part 2).fqtail == 0 && t.mem.read (0x1000 + 32 * 15 + 26) == 1) = true := by decide +kernel

theorem witness_ParkingAndPorts_redrive : let r := req_ (.store [(0, 1)]) (.failed 1 0 0)
    let s := { memory_ r with reqs := [], arg := .write 3 0, parked := [park_ r 1], ctxs := [(3, { ctx_ with redrivelo := 0x10000 })] }
    (s.ctx 3).created = true ∧ (0 : Word).extractLsb' 24 8 = 0 ∧ granuleOf r.va = granuleOf ((0 : Word) ++ ((s.ctx 3).redrivelo.extractLsb' 16 16 ++ (0 : BitVec 16))) ∧
      s.translate 3 r.va .write false false = .ok 0x40010000 0 0 2 0x10000 0xC070000040000000 ∧ s.poisoned 0x40010000 = false := by decide +kernel

/-- Port 5 serves context 3, or no context. -/
def ports_ (a : Arg) (v : Word) (f : Port → Port := id) : State := { paged_ with arg := a, cur := .nobody, ports := [(5, f { Port.reset with ioctx := v })] }

theorem witness_ParkingAndPorts_inbound : ∀ v ∈ [(3 : Nat), 0x80000003], let s := ports_ (.posted 5 1 0x1010 [1, 2]) (BitVec.ofNat 32 v)
    s.portUp 5 = true ∧ s.quotaFree 5 = true ∧ (0x1010#64).toNat % 128 + 2 ≤ 128 ∧ (s.ctx 3).created = true ∧ s.parked = [] ∧
      s.translate 3 (0x1010#64 - BitVec.ofNat 64 ((0x1010#64).toNat % 128)) .write false false = .ok 0x40001000 0 0 2 0x10000 0xC070000040000000 ∧
      s.translate 3 (0x1010#64 - BitVec.ofNat 64 ((0x1010#64).toNat % 128)) .read false false = .ok 0x40001000 0 0 2 0x10000 0xC070000040000000 ∧
      s.poisoned 0x40001000 = false ∧ 0x10000 + 8 ≤ 0x40001000 := by decide +kernel

theorem witness_ParkingAndPorts_timeout : let r := req_ .load (.failed 1 0 0) (.port 5 9)
    let s : State := { ports_ (.num r.id) 0x80000003 with parked := [park_ r 1], ns := 100000000 }
    s.arg = .num r.id ∧ s.parked = [park_ r 1] ∧ (park_ r 1).since + 100000000 ≤ s.ns ∧ (park_ r 1).cause ≠ 8 := by decide +kernel

theorem witness_ParkingAndPorts_states : (5 : Nat) < 24 ∧ (ports_ (.num 5) 0).arg = .num 5 ∧ ((ports_ (.num 5) 0).port 5).state = 0 ∧
    ((ports_ (.num 5) 0 fun p => { p with fails := 8 }).port 5).fails + 1 = 9 ∧ ((ports_ (.num 5) 0 fun p => { p with state := 1 }).port 5).state = 1 ∧
    (∀ q ∈ (ports_ (.num 5) 0).parked, q.req.party ≠ .port 5) ∧ (0x20000000#32).getLsbD 29 = true ∧ (0x20000000#32).getLsbD 28 = false ∧
    (0x10000000#32).getLsbD 28 = true ∧ (0x10000000#32).getLsbD 29 = false := by decide +kernel

/-- An inbound read of a port that translates for no context ends in a failure completion and is counted (R293). -/
theorem test_inbound_read : (next (exec .inboundRead (ports_ (.inbound 5 1 0x1010 2) 3)) fun t => (t.port 5).answers == [(1, none)] &&
    (t.port 5).uncorr == 1) = true := by decide +kernel

/-- A page-in of the 1 GiB page at 0, whose leaf says that it lies in LPDDR6. -/
def far_ (f : Job → Job) : State :=
  let j := f { job_ .pageIn with size := 2 ^ 30, leaf := 0xC270000040000000 }
  { paged_ with arg := .num j.id, cur := .nobody, jobs := [j], mem := Memory.write64 (Memory.write64 [] 0x200000 0x8000000000010000) 0x10000 0xC270000040000000,
                pools := [(6, [0x80000000])] }

theorem witness_JobsAndPools_page : let j : Job := { job_ .pageIn with size := 2 ^ 30, leaf := 0xC270000040000000 }
    let s := far_ id
    s.job? j.id = some j ∧ j.kind = .pageIn ∧ j.left = 0 ∧ j.frame = none ∧ s.pageOwed j = false ∧ s.stillFar j = true ∧
      FMap.get [] s.pools (poolList 0 j.size) = 0x80000000 :: [] ∧ ({ s with mem := mem_ } : State).stillFar j = false := by decide +kernel

theorem witness_JobsAndPools_move : let j : Job := { job_ .pageIn with leaf := 0xC270000040000000, frame := some 0x90000000 }
    let s := far_ fun _ => j
    s.job? j.id = some j ∧ j.frame = some 0x90000000 ∧ s.badLines j = [] ∧ s.parked = [] ∧ (j.leafAt + 7) / 16 < 0x90000000 / 16 := by decide +kernel

theorem witness_JobsAndPools_bulk : ∀ k ∈ [JobKind.bulk, .tree], ∀ n ∈ [0, 1, 2], ∀ d ∈ [0, 3],
    let j : Job := { job_ k with phase := n, dst := rec_ 0 65536 d 1 }
    let s : State := { one_ with arg := .num j.id, jobs := [j], gangs := [], grids := [] }
    s.job? j.id = some j ∧ j.left = 0 ∧ s.parked = [] ∧ (n = 0 → d = 0 → s.jobStarts j = true) := by decide +kernel

theorem witness_JobsAndPools_pools : let e : CaEntry := { digest := 1, index := 0, kind := 1, line := CaLine.zero, count := 0, poisoned := false }
    (({ one_ with parts := [(2, { Part.reset with dying := [e] })] } : State).part 2).dying = e :: [] ∧ e.kind ≠ 2 ∧ frameOk 0x80000000 6 = true ∧
      frameOk (2 ^ 52 - 2 ^ 30) 8 = true ∧ frameOk (2 ^ 52) 8 = false ∧ FMap.get [] (far_ id).pools 6 = 0x80000000 :: [] ∧ FMap.get [] one_.pools 5 = [] := by
  decide +kernel

theorem witness_JobsAndPools_refresh : let r : Req := { req_ .load (.mapped 0 0 0) (.copy 6) with space := .weight, va := 0x2000000 }
    let s : State := { one_ with arg := .num 1, reqs := [r], ns := 4000 }
    inRefresh 1 1999 = false ∧ inRefresh 1 2000 = true ∧ inRefresh 1 3999 = true ∧ inRefresh 1 s.ns = false ∧ s.reqs.filter (·.reads 1) = [r] ∧
      s.req? r.id = some r ∧ s.mayGo r = true ∧ (∀ q ∈ s.reqs, q.reads 2 = false) := by decide +kernel

theorem witness_DeviceEvents_rate : ¬16 * (7 * 1) < 8 * 1 ∧ 16 * (7 * 1) < 8 * 16 ∧ 64 * 1 ≤ 64 * 1 + 1 ∧ ¬64 * 16 ≤ 64 * 1 + 16 := by decide

theorem witness_DeviceEvents_ecc : (one_.block 0 1).live = true ∧
    (let r := req_ .load (.failed 4 0 0)
     ({ one_ with parked := [park_ r 4] } : State).parked = [park_ r 4] ∧ r.inbound = false) := by decide +kernel

theorem witness_DeviceEvents_clocks : let s := State.reset
    let within (v lo hi step : Nat) : Prop := lo ≤ v ∧ v ≤ hi ∧ v % step = 0
    within s.planar.toNat 700000 900000 1000 ∧ within s.plannet.toNat 1400000 1800000 1000 ∧ (∀ j, j < 48 → within (FMap.get (2000 : Word) s.planreg j).toNat 1000 4000 10) ∧
      Island.core 511 ∈ ({ s with switching := [.core 511] } : State).switching ∧ s.windowsLocked = false ∧ s.firmware ≠ .running ∧ (255 : Nat) < 256 := by decide +kernel

theorem test_island_switch : (next (exec .clockIslandSwitch { State.reset with arg := .island (.core 511), switching := [.core 511], clkst := 1, going := (700000, 1400000, false) })
    fun t => (t.core 511).khz == 700000 && t.clkst == 0 && !t.ssc) = true := by decide +kernel

theorem test_throttle_top : (next (exec .throttleRaise { State.reset with arg := .flags true false, level := 12 }) fun t => t.level == 12 && t.pwr) = true := by decide +kernel

theorem witness_RegisterWriteEvents : let s := ev_ (.write 3 0x80000080)
    (s.ctx 3).created = true ∧ (s.ctx 3).killed = false ∧ (0x80000080#32).toNat % 128 = 0 ∧ (0x80000081#32).toNat % 128 ≠ 0 ∧ (0x80000080#32).getLsbD 31 = true ∧
      (0x80000080#32) &&& 0xC0000000 ≠ 0 ∧ s.parked = [] ∧ (s.ctx 4).created = false := by decide +kernel

theorem witness_RegisterWriteEvents_raise : let s := ev_ (.coreWrite 0 3 0x2)
    (s.core 0).act = [(1, block_)] ∧ block_.live = true ∧ block_.ctx = 3 ∧ block_.place.slot ≤ ((0x2#32).extractLsb' 8 5).toNat ∧ (s.group at0).live = true ∧
      ∀ e ∈ (s.core 1).act, e.2.ctx ≠ 3 := by decide +kernel

theorem witness_RegisterWriteEvents_freeze : (3#32).getLsbD 1 = true ∧ (3#32).getLsbD 0 = true ∧ ((one_ (stacked_ 2 true)).group at0).stack =
    [] ++ { pc := 0x2000, mask := 0xFF, trap := true } :: [{ pc := 0x2000, mask := 0xFF, trap := true }] := by decide +kernel

theorem witness_RegisterWriteEvents_plain : ∀ i ∈ [0x038, 0x04C, 0x060, 0x0A2, 0x0AB, 0x0AC], regWritable (modeRank .m) i 0 = true ∧ plainReg i = true := by decide +kernel

theorem witness_RegisterWriteEvents_create : let r : Ranges := { ranges_ with slot0 := 31 }
    State.reset.partBusy 15 = false ∧ (State.reset.ctx 4095).created = false ∧ r.slot0 + r.slots ≤ 32 ∧ r.row0 + r.rows ≤ 4096 ∧ r.row0 % 16 = 0 ∧ r.rows % 16 = 0 ∧
      r.sprow0 + r.sprows ≤ 2048 ∧ r.tile0 + r.tiles ≤ 32 ∧ r.fifo0 + r.fifos ≤ 32 ∧ State.reset.parts = [] ∧ one_.partBusy 2 = true := by decide +kernel

/-- The hart of core 0 runs in M mode, with pc 0x100, x6 = 7, x7 = 0x1000, and an instruction of four bytes at 0x100. -/
def hart_ (a : Arg) (v : Word) (f : Hart → Hart := id) (k : State → State := id) : State :=
  k { one_ with
      arg := a
      cur := .nobody
      mem := Memory.writeAll [] (at_ 0x100 (bytesOf v 4))
      cores := [(0, { one_.core 0 with hart := f { (one_.core 0).hart with started := true, mode := .m, pc := 0x100, x := [(6, 7), (7, 0x1000)] } })] }

/-- `amoadd.w x5, x6, (x7)` where the word holds -1 (R14). -/
theorem test_hart_amo_word : (next (exec .supervisorHartAccess (hart_ (.hart 0) 0x0063A2AF id fun s => { s with mem := s.mem.write64 0x1000 0x1FFFFFFFF })) fun t =>
    t.mem.read64 0x1000 == 0x100000006 && (t.hart 0).xr 5 == 0xFFFFFFFFFFFFFFFF && (t.hart 0).pc == 0x104) = true := by decide +kernel

/-- `c.li x5, 3` is two bytes long. -/
theorem test_hart_compressed : (next (exec .supervisorHartAccess (hart_ (.hart 0) 0x0000428D)) fun t => (t.hart 0).xr 5 == 3 && (t.hart 0).pc == 0x102) = true := by
  decide +kernel

/-- `lw x5, 0(x7)` of the register of the 1 GiB pool of HBM takes its frame (R297). -/
theorem test_pool_take : (next (exec .poolTake1g (hart_ (.num2 0 0) 0x0003A283 (fun h => { h with x := [(7, 0xFF00000000638)] }) fun s =>
    { s with pools := [(6, [0x80000000])] })) fun t => (FMap.get [] t.pools 6) == [] && (t.hart 0).xr 5 == 2) = true := by decide +kernel

theorem test_register_write_needs_mode : (next (exec .registerWrite (hart_ (.regWrite 0 3 .s 0x060 0 1) 0)) fun t => (t.ctx 3).sys) = false ∧
    (next (exec .registerWrite (hart_ (.regWrite 0 3 .m 0x060 0 1) 0)) fun t => (t.ctx 3).sys) = true := by decide +kernel


/-! ## Further witnesses: each form and clause of TrapCauses, ProbeAndPrefetch, AccessAddress, Products and the events at its boundary -/

/-- BRD of one lane among four splits, with 15 entries on the stack (R308). -/
theorem witness_TrapCauses_divide : let s := one_ fun g => { g with
      splits := [(0, split_), (1, { split_ with pc := 0x3000 }), (2, { split_ with pc := 0x3004 }), (3, { split_ with pc := 0x3008 })]
      stack := List.replicate 15 { pc := 0x2000, mask := 0xFF, trap := false } }
    let i : Instr := .brdZ none (iw_ 0 2 4)
    let k := (partsOf (s.sp s.cur).mask (s.nextIf i 0x1010 fun l => l == 0)).length - 1 - (4 - (s.group at0).liveSplits.length)
    s.mayIssue i ∧ s.canTrap at0 0 ∧ k = 1 ∧ (s.group at0).stack.length + k = 16 :=
  ⟨may (by decide +kernel), canTrap (by decide +kernel), by decide +kernel, by decide +kernel⟩

/-- Whether a split may issue, trap, and has a lane that takes the bounds trap, as a Bool. -/
def boundB (s : State) (i : Instr) (ts : Targets) : Bool := mayB s i && roomB s && trapB s at0 0 && ts.any fun x => x.2 == .bounds

theorem bound {s : State} {i : Instr} {ts : Targets} (h : boundB s i ts = true) : s.mayIssue i ∧ s.boardFree ∧ s.canTrap at0 0 ∧ ∃ x ∈ ts, x.2 = .bounds := by
  simp only [boundB, Bool.and_eq_true, List.any_eq_true, beq_iff_eq] at h
  exact ⟨may h.1.1.1, room h.1.1.2, canTrap h.1.2, h.2⟩

/-- A record of a space whose extent is 16 bytes, and v3 with the lane's number times the size of an access. -/
def short_ (space n : Nat) : State := with_ (rec_ 0x10000 16 space 1) fun g => { g with rf := g.rf.write 3 0xFFFFFFFF fun l => BitVec.ofNat 32 (n * l) }

theorem witness_TrapCauses_accesses : ∀ i ∈ [Instr.ld none (mw_ 4 3 1), .ldt none (mw_ 4 3 1), .st none (mw_ 4 3 1), .ldfeKeep none (mw_ 4 3 1),
      .ldfeClr none (mw_ 4 3 1), .stfe none (mw_ 4 3 1), .atomAdd none (mw_ 4 3 1), .atomMin none (mw_ 4 3 1), .atomMax none (mw_ 4 3 1),
      .atomAnd none (mw_ 4 3 1), .atomOr none (mw_ 4 3 1), .atomXor none (mw_ 4 3 1), .atomXchg none (mw_ 4 3 1), .atomCas none (mw_ 4 3 1),
      .atomIncw none (mw_ 4 3 1), .redAdd none (mw_ 4 3 1), .redMin none (mw_ 4 3 1), .redMax none (mw_ 4 3 1), .redAnd none (mw_ 4 3 1),
      .redOr none (mw_ 4 3 1), .redXor none (mw_ 4 3 1), .atomfAdd none (mw_ 4 3 1), .atomfMin none (mw_ 4 3 1), .atomfMax none (mw_ 4 3 1)],
    let s := short_ 1 4
    s.mayIssue i ∧ s.boardFree ∧ s.canTrap at0 0 ∧ ∃ x ∈ s.targetsOf i 1 3 false 4, x.2 = .bounds := by
  intro i hi
  refine bound ?_
  revert i
  decide +kernel

theorem witness_TrapCauses_even : let r := rec_ 0x10000 16 1 1
    noWrites r = false ∧ fePlace r = true ∧ (∀ l, l < 32 → odd r (((short_ 1 4).rf (short_ 1 4).cur).lane 3 l) false 4 = false) ∧
      recSpace (rec_ 0x10000 16 0 1) = .global ∧ reservedFormat (rec_ 0x10000 16 0 1) = false := by decide +kernel

theorem witness_TrapCauses_wide : ∀ x ∈ [(Instr.ldB128 none (mw_ 4 3 1), 1, 16), (.stB128 none (mw_ 4 3 1), 1, 16), (.feset none (mw_ 1 3 1), 1, 32),
      (.feclr none (mw_ 1 3 1), 1, 32), (.caswap (pre_ 0 8 0) (mw_ 4 3 1), 0, 8)],
    let s := short_ x.2.1 x.2.2
    s.mayIssue x.1 ∧ s.boardFree ∧ s.canTrap at0 0 ∧ (∃ y ∈ s.targetsOf x.1 1 3 false x.2.2, y.2 = .bounds) ∧
      ∀ l, l < 32 → odd ((s.rf s.cur).rcd 1) ((s.rf s.cur).lane 3 l) false 8 = false := by
  intro x hx
  have h : (boundB (short_ x.2.1 x.2.2) x.1 ((short_ x.2.1 x.2.2).targetsOf x.1 1 3 false x.2.2) &&
      (List.range 32).all fun l => !odd (((short_ x.2.1 x.2.2).rf (short_ x.2.1 x.2.2).cur).rcd 1) (((short_ x.2.1 x.2.2).rf (short_ x.2.1 x.2.2).cur).lane 3 l) false 8) = true := by
    revert x
    decide +kernel
  simp only [Bool.and_eq_true, List.all_eq_true, List.mem_range, Bool.not_eq_true'] at h
  obtain ⟨h1, h2, h3, h4⟩ := bound h.1
  exact ⟨h1, h2, h3, h4, h.2⟩

/-- The copies: scratchpad destinations at 0, and offsets of which all but the first lie beyond the extent. -/
theorem witness_TrapCauses_copies : ∀ x ∈ [(Instr.acopy none (mw_ 4 3 1), 16), (.mfill none (mw_ 4 3 1), 128)],
    let s := short_ 0 x.2
    s.mayIssue x.1 ∧ s.boardFree ∧ s.canTrap at0 0 ∧ (∃ y ∈ s.targetsOf x.1 1 3 false x.2, y.2 = .bounds) ∧
      ∀ l, l < 32 → (s.issued x.1).badDest 4 x.2 l = false ∧ laneOffset ((s.rf s.cur).rcd 1) ((s.rf s.cur).lane 3 l) false % x.2 = 0 := by
  intro x hx
  have h : (boundB (short_ 0 x.2) x.1 ((short_ 0 x.2).targetsOf x.1 1 3 false x.2) && (List.range 32).all fun l =>
      !((short_ 0 x.2).issued x.1).badDest 4 x.2 l &&
        decide (laneOffset (((short_ 0 x.2).rf (short_ 0 x.2).cur).rcd 1) (((short_ 0 x.2).rf (short_ 0 x.2).cur).lane 3 l) false % x.2 = 0)) = true := by
    revert x
    decide +kernel
  simp only [Bool.and_eq_true, List.all_eq_true, List.mem_range, Bool.not_eq_true', decide_eq_true_eq] at h
  obtain ⟨h1, h2, h3, h4⟩ := bound h.1
  exact ⟨h1, h2, h3, h4, h.2⟩

theorem witness_TrapCauses_fifo : ∀ isB ∈ [true, false], let r := rec_ 0x10000 16 0 1 ||| BitVec.ofNat 256 (1 * 2 ^ 152)
    let s := with_ r
    let i : Instr := if isB then .acopyB none (mw_ 1 1 1) else .acopyA none (mw_ 1 1 1)
    recFormat r = 1 ∧ (matK 1).isSome = true ∧ 1 < (s.blk s.cur).g * (s.blk s.cur).f ∧ s.mayIssue i ∧ s.canTrap at0 0 ∧ lowest (s.activeFor i) = some 0 ∧
      ∃ y ∈ (s.entryParts s.cur r isB (laneOffset r 1 false) (entrySpots r 1 false (entryShape isB 1).1 (rowBytesOf isB 1))).map (fun y => (0, y.2.1)), y.2 = .bounds := by
  intro isB hb
  simp only [List.mem_cons, List.not_mem_nil, or_false] at hb
  rcases hb with rfl | rfl
  · exact ⟨by decide +kernel, by decide +kernel, by decide +kernel, may (by decide +kernel), canTrap (by decide +kernel), by decide +kernel, by decide +kernel⟩
  · exact ⟨by decide +kernel, by decide +kernel, by decide +kernel, may (by decide +kernel), canTrap (by decide +kernel), by decide +kernel, by decide +kernel⟩

/-- PREF where the core holds the translation, where a walk ends at a leaf, where it fails, and where a marker stands (R210). -/
theorem witness_ProbeAndPrefetch_walk : let s : State := { paged_ with cores := [(0, { paged_.core 0 with tlb := [] })] }
    let held (s : State) := s.tlb? 0 3 0x10000 fun e => e.rd && e.cls == 0
    held paged_ ≠ none ∧ held s = none ∧ s.markers.contains (3, granuleOf 0x10000) = false ∧
      s.translate 3 0x10000 .read false false = .ok 0x40010000 0 0 2 0x10000 0xC070000040000000 ∧
      ({ s with mem := [] } : State).translate 3 0x10000 .read false false = .fail 0 3 0 ∧
      ({ s with markers := [(3, 1)] } : State).markers.contains (3, granuleOf 0x10000) = true := by decide +kernel

theorem test_pref_sets_accessed : (next (exec (.pref none (mw_ 0 3 1)) { with_ global_rec with mem := mem_ }) fun t =>
    t.mem.read64 0x10000 == 0xC170000040000000 && t.reqs == [] && (t.core 0).tlb.length == 1) = true := by decide +kernel

/-- Where an access goes by the space of its record, at the last address inside and the first outside (R66, R70, R84, R86). -/
theorem witness_AccessAddress_targets : let s : State := { one_ with
      gangs := [(8, { Gang.empty with live := true, grid := 7, blocks := [(0, 1), (5, 2)], left := 2 })], parts := [(2, { Part.reset with segs := 1 })] }
    let u : State := { s with cores := s.cores ++ [(5, { Core.reset with sha := [(2, { block_ with ix := 1 })] })] }
    let v : State := s.setBlk s.cur { s.blk s.cur with wsr := false }
    let r (code mode : Nat) := rec_ 0 0x40000000 code mode
    let at_ (s : State) (code mode x : Nat) := s.target s.cur (r code mode) (BitVec.ofNat 32 x) false 4
    at_ s 6 1 0 = .bounds ∧ at_ s 7 3 0 = .drop ∧ at_ s 0 1 0x40000000 = .bounds ∧ at_ s 0 3 0x40000000 = .drop ∧ at_ s 0 1 0x3FFFFFFC = .line .global 0x3FFFFFFC ∧
      at_ s 5 1 8 = .line .peer 8 ∧ at_ s 4 1 8 = .line .tree 8 ∧ at_ s 1 1 1020 = .scratch 0 1 1020 ∧ at_ s 1 1 1021 = .bounds ∧
      at_ s 3 1 0x1FFFFFC = .line .weight 0x1FFFFFC ∧ at_ s 3 1 0x1FFFFFD = .bounds ∧ at_ v 3 1 0 = .bounds ∧
      at_ s 2 1 0x80000 = .bounds ∧ at_ s 2 1 1020 = .scratch 0 1 1020 ∧ at_ s 2 1 0x40000 = .bounds ∧ at_ u 2 1 0x40000 = .away ∧
      u.swapped 8 5 2 3 = true ∧ s.swapped 8 5 2 3 = false := by decide +kernel

/-- Products: two ops in a pass, and an op whose entry is of another type (R328). -/
theorem witness_Products_untyped : let s := ending_ .mma 1
    let o := { op_ .mma 12 (some 1) (some 2) with begun := true }
    (s.core 0).op? 4 = some { op_ .mma 1 (some 1) (some 2) with begun := true } ∧ ((s.core 0).block 1).live = true ∧
      ¬((entry_ 1 false 1).ty.toNat = o.ty.toNat) ∧ fmtOf o.ty.toNat ≠ none ∧ (entry_ 1 false 12).ty.toNat = o.ty.toNat ∧
      (entry_ 1 false 12).isB = false ∧ (entry_ 2 true 12).isB = true := by decide +kernel

/-- MMA of another type changes no element, and sets ovf and, for an integer type, sat (R328). -/
theorem test_promote_untyped : let g := group_ (fun g => { g with tiles := [(2, [(5, 7)])] })
    let n := g.promote { op_ .mma 1 (some 1) (some 2) with begun := true } (entry_ 1 false 2) (entry_ 2 true 1)
    (n.tile 2).elem 5 = 7 ∧ n.bnd 2 = 0x8000000080000000 := by decide +kernel

/-- The end of a chain of launches: a job that writes the weight store keeps a launch with weight-store reads back (R88). -/
theorem witness_DispatchEvents_weights : let s := ev_ (.num2 3 0) id id fun s => { s with
      ctxs := [(3, { ctx_ with lq := [(0, [lpb_ (2 ^ 243)])] })], jobs := [job_ .bulk, job_ .pageIn] }
    (s.ctx 3).queue 0 = lpb_ (2 ^ 243) :: [] ∧ lpbWsr (lpb_ (2 ^ 243)) = true ∧
      ∀ j ∈ s.jobs, j.part = (s.ctx 3).part → j.kind = .pageIn ∨ recSpace j.dst ≠ .weight := by decide +kernel

/-- A gang of two blocks, of which the first is saved and the other has arrived. -/
theorem witness_DispatchEvents_record : let s : State := { ev_ (.barrier (.gang 8)) (fun g => { g with arrG := some 0 }) with
      ctxs := [(3, { ctx_ with res := .spilled, save := 0x100000, ranges := some ranges_, image := some [{ core := 0, blocks := [(1, block_ fun g => { g with arrG := some 0 })], ops := [], written := true }] })] }
    s.gangRecord 8 = some (frameBase 0x100000 ranges_ 0 + 256) ∧ s.gangRecord 9 = none := by decide +kernel

theorem witness_PreemptionEvents_layout : (group_ id).liveSplits.length ≤ 4 ∧ (group_ (stacked_ 16 true)).stack.length ≤ 16 ∧
    (let s := banks_ (.num2 0 3) .resident true id fun c => { c with preempt := [3] }
     s.comer 0 3 = none ∧ ((s.core 0).act.map (·.1)).Nodup ∧ ((s.core 0).sha.map (·.1)).Nodup) ∧
    (let s : State := { banks_ (.num2 0 3) .resident true id (fun c => { c with preempt := [3], sha := [(2, { block_ with ctx := 5 })] }) with
        ctxs := [(3, { ctx_ with res := .resident }), (5, { ctx_ with res := .restoring })] }
     s.canSwap 0 3 = true ∧ s.comer 0 3 = some 5 ∧ ((s.core 0).sha.map (·.1)).Nodup) ∧
    (let x := { ctx_ with image := some saved_ }
     x.savedOn 0 = some (0, { core := 0, blocks := [(1, block_)], ops := [], written := true })) := by decide +kernel

/-- The header of a save area of context 3 with one frame (R313). -/
theorem test_save_header : (Memory.writeAll [] (saveHeader 3 ranges_ 0x100000 [0])).readN 0x100000 8 = [3, 0, 0, 0, 1, 0, 0, 0] := by decide +kernel

/-- The first record beyond the sixteen on a slice goes to the ring, and its image with it (R283). -/
theorem witness_ParkingAndPorts_ring : let r := req_ .load (.failed 1 0 0)
    let s := memory_ r fun s => { s with parked := (List.range 16).map fun n => { park_ { r with id := 100 + n, ctx := 4 } 1 with slice := r.slice } }
    s.req? r.id = some r ∧ s.canPark r = true ∧ (s.dropReq r.id).ringPlace r.part r.slice = some 0 ∧ (∀ p ∈ s.parked, s.holds p r = false) ∧
      ((memory_ r).dropReq r.id).ringPlace r.part r.slice = none := by decide +kernel

/-- A request behind another whose own translation fails, and one whose own translation does not (R284). -/
theorem witness_ParkingAndPorts_behind : let r := req_ .load (.failed 1 0 0)
    let s (m : Memory) := memory_ r fun s => { s with parked := [park_ { r with id := 4 } 1], mem := m }
    (s mem_).canPark r = true ∧ (s mem_).parked.find? (fun p => (s mem_).holds p r) = some (park_ { r with id := 4 } 1) ∧ (s mem_).ownFail r = none ∧
      (s []).ownFail r = some (0, 3, 0) := by decide +kernel

theorem witness_ParkingAndPorts_link : let s (n : Nat) := ports_ (.num2 5 9) 0 fun p => { p with fails := n, beat := 9 }
    (s 8).arg = .num2 5 9 ∧ ((s 8).port 5).state = 0 ∧ ((s 8).port 5).fails ≠ 0 ∧ ((s 8).port 5).beat = 9 ∧ ((s 0).port 5).fails = 0 := by decide +kernel

/-- Eight failed replays of one beat, after the failure that they repeat, retrain the port; failures of another beat begin a new count (R353). -/
theorem test_link_beats : (next (exec .linkCheckFail (ports_ (.num2 5 9) 0 fun p => { p with fails := 8, beat := 9 })) fun t => (t.port 5).state == 1) = true ∧
    (next (exec .linkCheckFail (ports_ (.num2 5 9) 0 fun p => { p with fails := 7, beat := 9 })) fun t => (t.port 5).state == 0) = true ∧
    (next (exec .linkCheckFail (ports_ (.num2 5 8) 0 fun p => { p with fails := 8, beat := 9 })) fun t => (t.port 5).state == 0 && (t.port 5).fails == 1) = true := by
  decide +kernel

theorem witness_JobsAndPools_engines : (far_ id).engineFree = true ∧
    ({ far_ id with jobs := List.replicate 64 { job_ .bulk with phase := 1 } } : State).engineFree = false := by decide +kernel

/-- The next instruction of a hart is the load of a pool register, at its pc or waiting, with a frame in the list or none (R297). -/
theorem witness_JobsAndPools_take : ∀ pend ∈ [none, some { word := 0x0003A283, len := 4, pa := 0xFF00000000638 : HartWait }],
    let s := hart_ (.num2 0 0) 0x0003A283 fun h => { h with x := [(7, 0xFF00000000638)], pending := pend }
    s.hartNext 0 0x0003A283 4 ∧ s.poolNext 0 = some 6 ∧ rvOf 0x0003A283 4 = some (.load 2 5 7 0) ∧ windowShape 0xFF00000000638 4 = true ∧
      (s.hart 0).accessMode .read = .m ∧ hartWindow 0xFF00000000638 = some (0, 0xC7, 0) ∧ inWindow 0xFF00000000638 0xC7 = true ∧ poolOf 0xC7 = some 6 ∧
      s.hartReach 0 .read ((s.hart 0).xr 7 + 0) 4 false = .ok 0xFF00000000638 ∧ FMap.get [] s.pools 6 = [] ∧ (s.hartOn 1 = false) := by
  intro pend h
  simp only [List.mem_cons, List.not_mem_nil, or_false] at h
  rcases h with rfl | rfl
  · exact ⟨⟨by decide +kernel, by decide +kernel, rfl⟩, by decide +kernel, by decide +kernel, by decide +kernel, by decide +kernel, by decide +kernel, by decide +kernel, by decide +kernel, rfl, by decide +kernel, by decide +kernel⟩
  · exact ⟨⟨by decide +kernel, rfl, rfl⟩, by decide +kernel, by decide +kernel, by decide +kernel, by decide +kernel, by decide +kernel, by decide +kernel, by decide +kernel, rfl, by decide +kernel, by decide +kernel⟩

/-- A bank of a spilled context has an error (R344), and the levels' times (R357). -/
theorem witness_DeviceEvents_spilled : let s : State := { ev_ (.ecc (.bank at0 .registers 5)) with cores := [], ctxs := [(3, { ctx_ with res := .spilled, image := some saved_ })] }
    ((s.core 0).find 1).live = false ∧ (s.ctx 3).image = some saved_ ∧ block_.live = true := by decide +kernel

theorem witness_DeviceEvents_levels : let s : State := { State.reset with ns := 1000000, firmware := .running, level := 1 }
    (s.levelAt + 100000 ≤ s.ns) ∧ (s.pwr = false ∧ s.therm = false ∧ s.metAt + 1000000 ≤ s.ns) ∧ ¬(State.reset.levelAt + 100000 ≤ State.reset.ns) ∧
      noPlan [(700000, 900000)] = true ∧ noPlan [] = false ∧ ([2, 0].length = 2 ∧ [2, 0] ≠ [1]) ∧ (255 : Nat) < 256 := by decide +kernel

/-- The accesses of harts: `lw`, `sw`, `amoadd.w`, `lr.w` and `sc.w` with x7, to memory, to a poisoned line and to the register window. -/
theorem witness_RegisterWriteEvents_harts : ∀ x ∈ [(0x0003A283, Rv.load 2 5 7 0), (0x0063A023, .store 2 6 7 0), (0x0063A2AF, .amo .add 4 5 7 6),
      (0x1003A2AF, .lr 4 5 7), (0x1863A2AF, .sc 4 5 7 6)],
    rvOf x.1 4 = some x.2 ∧ (∀ a ∈ [0x1000, 0xFF00000006300], let s := hart_ (.hart 0) x.1 fun h => { h with x := [(7, BitVec.ofNat 64 a)] }
      s.hartOn 0 = true ∧ (s.hart 0).pending = none ∧ s.hartIrq 0 = none ∧ (s.hartFetch 0).toOption = some (x.1, 4) ∧ x.2.usesFp = false ∧
        (x.2.access (s.hart 0)).map (fun y => (y.2.1, y.2.2.1)) = some (BitVec.ofNat 64 a, 4) ∧ s.hartAddr 0 .read (BitVec.ofNat 64 a) = some a ∧
        s.badBytes a 4 = false ∧ ({ s with poison := [(a / 128, true)] } : State).badBytes a 4 = true) := by decide +kernel

theorem witness_RegisterWriteEvents_window : hartWindow 0xFF00000006300 = some (3, 0x060, 0) ∧ windowShape 0xFF00000006300 4 = true ∧ windowShape 0xFF00000006304 4 = false ∧
    inWindow 0xFF00000006300 0x060 = true ∧ regReadable (modeRank .m) 0x060 0 = true ∧ regWritable (modeRank .m) 0x060 0 = true ∧
    regWritable (modeRank .s) 0x060 0 = false ∧ poolOf 0x060 = none ∧ hartWindow 0x1000 = none ∧
    (hart_ .none 0).writeReg { ctx := 3, core := 0, who := .nobody } 0x060 0 1 none ≠ none ∧
    ((hart_ .none 0 id fun s => { s with
      ctxs := [(3, { ctx_ with lq := [(0, List.replicate 64 (lpb_ 0))] })]
      parts := [(2, { Part.reset with ranges := ranges_ })]
      mem := s.mem.writeAll (at_ 0x2000 (bytesOf (lpb_ 0) 128)) }).writeReg { ctx := 3, core := 0, who := .nobody } 0x090 0 0x2000 none) = none := by
  decide +kernel

/-- A hart in S mode whose tables (Sv39 at 0) map nothing, and causes that are and are not delegated. -/
theorem witness_RegisterWriteEvents_translation : let s := hart_ .none 0 fun h => { h with mode := .s, csr := [(0x180, 0x8000000000000000), (0x302, 0x2000)] }
    let h := s.hart 0
    s.hartAddr 0 .read 0x2000 = none ∧ s.hartAddr 0 .fetch h.pc = none ∧ (h.reg 0x302).getLsbD 13 = true ∧ (h.reg 0x302).getLsbD 5 = false ∧ h.mode ≠ .m := by
  decide +kernel

theorem witness_RegisterWriteEvents_irq : let s := hart_ (.hart 0) 0 (fun h => { h with mie16 := true, csr := [(0x300, 8)] }) fun s =>
      { s with parts := [(2, { Part.reset with fqtail := 1 })] }
    let h := s.hart 0
    h.mie16 = true ∧ s.faultIrq 0 = true ∧ (h.reg 0x300).getLsbD 3 = true ∧ (h.reg 0x303).getLsbD 16 = false ∧ s.hartIrq 0 = some (true, 16) ∧
      (hart_ .none 0 fun h => { h with mode := .u, csr := [(0x303, 2), (0x304, 2), (0x344, 2)] }).hartIrq 0 = some (false, 1) := by decide +kernel

/-- A store to a poisoned line is cause 7 at the machine trap vector (R342). -/
theorem test_hart_store_poisoned : (next (exec .supervisorHartAccess (hart_ (.hart 0) 0x0063A023 (fun h => { h with csr := [(0x305, 0x4000)] }) fun s =>
    { s with poison := [(0x20, true)] })) fun t => (t.hart 0).mcause == 7 && (t.hart 0).pc == 0x4000 && t.mem.read 0x1000 == 0) = true := by decide +kernel

theorem witness_RegisterWriteEvents_plain_hart : let s := hart_ (.regWrite 0 3 .m 0x060 0 1) 0
    s.hartOn 0 = true ∧ (s.hart 0).mode = .m ∧ (s.hart 0).pending = none ∧ plainReg 0x060 = true := by decide +kernel

/-- Ranges beside those of another partition, and ranges that meet them. -/
theorem witness_RegisterWriteEvents_ranges : let q : Ranges := { slot0 := 0, slots := 16, row0 := 0, rows := 2048, sprow0 := 0, sprows := 1024, tile0 := 0, tiles := 16, fifo0 := 0, fifos := 16 }
    let r : Ranges := { slot0 := 16, slots := 16, row0 := 2048, rows := 2048, sprow0 := 1024, sprows := 1024, tile0 := 16, tiles := 16, fifo0 := 16, fifos := 16 }
    let s : State := { State.reset with parts := [(1, { Part.reset with ranges := q, segs := 1 })] }
    s.partBusy 0 = false ∧ q.slot0 + q.slots ≤ r.slot0 ∧ q.row0 + q.rows ≤ r.row0 ∧ q.sprow0 + q.sprows ≤ r.sprow0 ∧ q.tile0 + q.tiles ≤ r.tile0 ∧
      q.fifo0 + q.fifos ≤ r.fifo0 ∧ r.slot0 + r.slots ≤ 32 ∧ r.row0 + r.rows ≤ 4096 ∧ r.sprow0 + r.sprows ≤ 2048 ∧ r.tile0 + r.tiles ≤ 32 ∧ r.fifo0 + r.fifos ≤ 32 ∧
      (∀ e ∈ s.parts, (2 : BitVec 128) &&& e.2.segs = 0) ∧ ∃ e ∈ s.parts, (3 : BitVec 128) &&& e.2.segs ≠ 0 := by decide +kernel

/-! ## Forms that are illegal or trap, and what requests do at their execution points -/

/-- The words of a span are fetched before its first instruction issues (R52): the second word lies beyond the translation. -/
theorem witness_FetchReadsMemory_span : let s := paged_ id id fun s => { s with
      mem := s.mem.writeAll (at_ 0x40001000 (bytesOf (0x200A0818 : Word) 4)), cores := [(0, { s.core 0 with tlb := [{ tlb_ with size := 0x1004 }] })] }
    s.fetch 0 3 (s.sp (.split at0 0)) 0x1000 = .ok add_ 0x200A0818 4 ∧ (shapeOf add_).fam = .latch ∧ s.spanLacks at0 0 = some 0x1004 := by decide +kernel

/-- An instruction is illegal in a state that may run it and may enter the handler, as a Bool. -/
def bad_ (s : State) (i : Instr) : Bool := mayB s i && trapB s at0 0 && next (exec i s) fun t => (t.group at0).xcause == 1

theorem bad {s : State} {i : Instr} (h : bad_ s i = true) : s.mayIssue i ∧ s.canTrap at0 0 := by
  simp only [bad_, Bool.and_eq_true] at h
  exact ⟨may h.1.1, canTrap h.1.2⟩

/-- Stores and atomics through records of the weight store and of a tree, and full/empty instructions off the scratchpads (R325). -/
theorem witness_Stores_illegal : (∀ code ∈ [3, 4], noWrites (rec_ 0 8192 code 1) = true ∧ ∀ i ∈ [Instr.st none (mw_ 4 2 1), .stB128 none (mw_ 4 2 1),
      .atomAdd none (mw_ 4 3 1), .redAdd none (mw_ 4 3 1), .atomfAdd none (mw_ 4 3 1)], bad_ (with_ (rec_ 0 8192 code 1)) i = true) ∧
    ∀ i ∈ [Instr.ldfeKeep none (mw_ 4 3 1), .ldfeClr none (mw_ 4 3 1), .stfe none (mw_ 4 3 1), .feset none (mw_ 0 3 1), .feclr none (mw_ 0 3 1)],
      bad_ (with_ global_rec) i = true := by decide +kernel

/-- v3 holds one in every lane, an odd offset. -/
def odd_ (r : BitVec 256) : State := with_ r fun g => { g with rf := g.rf.write 3 0xFFFFFFFF fun _ => 1 }

/-- An atomic, a CASWAP, a RLD and a CAREF.pin at an address that is no multiple of their size (R325, R326, R330). -/
theorem witness_Atomics_odd : (∀ i ∈ [Instr.atomAdd none (mw_ 4 3 1), .redOr none (mw_ 4 3 1), .atomfAdd none (mw_ 4 3 1), .rld none (mw_ 2 3 1),
      .caswap (pre_ 0 8 0) (mw_ 4 3 1)], bad_ (odd_ global_rec) i = true) ∧ accessOf global_rec 1 false 4 = .at 1 ∧ (addrOf global_rec 1).toNat % 4 = 1 ∧
    bad_ (one_ fun g => { g with rf := g.rf.write 4 0xFFFFFFFF fun _ => 1 }) (.carefPin none (sw_ 8 4 0)) = true ∧
    bad_ (with_ block_rec) (.caswap (pre_ 0 8 0) (mw_ 4 3 1)) = true := by decide +kernel

/-- Copies whose record or destination the instruction does not take (R248, R250, R330). -/
theorem witness_CopiesStart_illegal : 0x12 ≤ recFormat (typed_ 0x12 0) ∧ bad_ (with_ (typed_ 0x12 0) steps_) (.acopy none (mw_ 3 3 1)) = true ∧
    bad_ (odd_ global_rec) (.acopy none (mw_ 3 2 1)) = true ∧ bad_ (with_ block_rec steps_) (.mfill none (mw_ 3 3 1)) = true ∧
    bad_ (odd_ global_rec) (.mfill none (mw_ 4 3 1)) = true ∧ bad_ (with_ (typed_ 9 0)) (.acopyA none (mw_ 31 3 1)) = true := by decide +kernel

/-- Jobs over a space, or over bytes of the weight store, that they do not take (R86, R330). -/
theorem witness_BulkCopies_illegal : bad_ (bulk_ 0 1) (.bcopy (pre_ 0 3 0) (sw_ 4 1 2)) = true ∧ bad_ (bulk_ 1 0) (.bcopy (pre_ 0 3 0) (sw_ 4 1 2)) = true ∧
    bad_ (bulk_ 0 0) (.cacopy none (sw_ 4 1 2)) = true ∧
    (∀ x ∈ [(3, 0), (0, 3)], bad_ { bulk_ x.1 x.2 with parts := [] } (.bcopy (pre_ 0 3 0) (sw_ 4 1 2)) = true) ∧
    ({ bulk_ 3 0 with parts := [] } : State).jobSegs 2 ((bulk_ 3 0).operands.rcd 1) 16 = false ∧
    bad_ { bulk_ 3 4 with parts := [] } (.cacopy none (sw_ 4 1 2)) = true ∧
    (let s := bulk_ 0 6
     recSpace (s.operands.rcd 2) = .reserved ∧ recMode (s.operands.rcd 2) = .trap) ∧ recMode (rec_ 0 65536 6 3) = .zero := by decide +kernel

theorem test_weights_outside_segments : (next (exec (.bcopy (pre_ 0 3 0) (sw_ 4 1 2)) { bulk_ 3 0 with parts := [] }) fun t => (t.group at0).xcause == 1 && t.jobs == []) = true ∧
    (next (exec (.cawalk none (sw_ 4 1 2)) (with_ block_rec)) fun t => (t.group at0).xcause == 1) = true := by decide +kernel

/-- An instruction takes the bounds trap with the slot of its record, in a state that may run it and may enter the handler. -/
def beyond_ (s : State) (i : Instr) (slot : Word) : Bool :=
  mayB s i && roomB s && trapB s at0 0 && next (exec i s) fun t => (t.group at0).xcause == 2 && (t.group at0).xinfo == slot

/-- RLD, ADRAIN, AFILL, AST, LAUNCH, BCOPY and CACOPY over the end of a record of mode trap (R302). -/
theorem witness_TrapCauses_ends : (∀ i ∈ [Instr.rld none (mw_ 2 3 1), .afill none (mw_ 3 5 1), .adrain none (mw_ 3 5 1), .launch none (sw_ 0 1 3)],
      beyond_ (with_ (rec_ 0 16 1 1)) i 1 = true) ∧ noWrites (rec_ 0 16 1 1) = false ∧
    (∃ f, f < 32 ∧ (astFormat (rec_ 0 16 1 1 ||| BitVec.ofNat 256 (f * 2 ^ 152)) 0).isSome = true ∧
      beyond_ (with_ (rec_ 0 16 1 1 ||| BitVec.ofNat 256 (f * 2 ^ 152))) (.ast none (mw_ 3 5 1)) 1 = true ∧
      beyond_ (with_ (rec_ 0 16 1 1 ||| BitVec.ofNat 256 (f * 2 ^ 152))) (.astW none (mw_ 3 5 1)) 1 = true) ∧
    (∃ f, f < 32 ∧ (astInt (rec_ 0 16 1 1 ||| BitVec.ofNat 256 (f * 2 ^ 152))).isSome = true ∧
      beyond_ (with_ (rec_ 0 16 1 1 ||| BitVec.ofNat 256 (f * 2 ^ 152))) (.astI none (mw_ 3 5 1)) 1 = true) := by decide +kernel

theorem witness_TrapCauses_jobs : let s (e d : Nat) : State := one_ (fun g => { g with rf := { g.rf.write 3 0xFFFFFFFF (fun _ => 16) with
      k := [(1, rec_ 0x20000 e 0 1), (2, rec_ 0 d 0 1), (4, rec_ 0 d 4 1), (5, rec_ 0 16 6 1)] } })
    jobTraps 16 ((s 8 64).operands.rcd 1) = true ∧ beyond_ (s 8 64) (.bcopy (pre_ 0 3 0) (sw_ 4 1 2)) 1 = true ∧
    jobTraps 16 ((s 64 64).operands.rcd 1) = false ∧ jobTraps 16 ((s 64 8).operands.rcd 2) = true ∧ beyond_ (s 64 8) (.bcopy (pre_ 0 3 0) (sw_ 4 1 2)) 2 = true ∧
    beyond_ (s 64 64) (.bcopy (pre_ 0 3 0) (sw_ 4 1 5)) 5 = true ∧ recSpace ((s 64 64).operands.rcd 5) = .reserved ∧ recMode ((s 64 64).operands.rcd 5) = .trap ∧
    beyond_ (s 64 128) (.cacopy none (sw_ 4 1 4)) 1 = true := by decide +kernel

/-- A LAUNCH with an access before it, which it releases (R108, R114). -/
theorem witness_Launches_owed : let s := owed_ 0 0
    let i : Instr := .launch none (sw_ 0 1 3)
    lowest (s.activeFor i) = some 0 ∧ s.mayIssue i ∧ (s.sp s.cur).lpb = none ∧ (s.sp s.cur).wait ≠ some .lpb ∧ s.clsOwed s.cur 0 s.covers = true :=
  ⟨by decide +kernel, may (by decide +kernel), by decide +kernel, by decide +kernel, by decide +kernel⟩

/-- The block is read before its offset is tested (R259, R332). -/
theorem test_launch_reads_first : (next (exec (.launch none (sw_ 0 1 3)) (odd_ global_rec)) fun t => (t.sp t.cur).wait == some .lpb && t.reqs.length == 2 &&
      (t.ctx 3).lrefuse == 0) = true ∧
    (next (exec (.launch none (sw_ 0 1 3)) (odd_ block_rec)) fun t => (t.ctx 3).lrefuse == 0x10001 && (t.sp t.cur).pc == 0x1004) = true := by decide +kernel

/-- A write of LAUNCHQ to a full queue (R262). -/
theorem witness_SystemWrite_waits : let s : State := { one_ with
      ctxs := [(3, { ctx_ with sys := true, lq := [(0, List.replicate 64 (lpb_ 0))] })]
      parts := [(2, { Part.reset with ranges := ranges_ })]
      mem := Memory.writeAll [] (at_ 0 (bytesOf (lpb_ 0) 128)) }
    let i : Instr := .syswr none (iw_ 0 3 0x090)
    lowest (s.activeFor i) = some 0 ∧ regWritable s.rank 0x090 0 = true ∧ s.mayIssue i ∧ s.acquired ∧ (s.operands.lane 3 0) = 0 ∧
      s.writeReg s.viewOf 0x090 0 0 (s.sp s.cur).lpb = none :=
  ⟨by decide +kernel, by decide +kernel, may (by decide +kernel), .inr (by decide +kernel), by decide +kernel, by decide +kernel⟩

/-- Where a request's result lands: v4 of the small group. -/
def regs4_ (size : Nat) (pred : Option Nat := none) : Land := .regs 0 1 0 1 [some (.row 4), some (.row 5)] pred 0 size 0

/-- The small group with the scoreboard entry of that request. -/
def landing_ (r : Req) (k : State → State := id) : State :=
  let s := paged_ fun g => { g with sb := [{ id := 1, dsts := [.row 4, .row 5], active := 1, returned := 0, left := 1 }] }
  k { s with arg := .num r.id, cur := .nobody, reqs := [r] }

/-- Two stores of one instruction to one line through two addresses: lane 2's, and lane 1's to the same byte. -/
def twice_ : State :=
  let r := { req_ (.store [(0, 7)]) (.mapped 0x40010000 0 0) with pieces := [{ lane := 2, off := 0, n := 1, first := 0 }], seq := 5 }
  memory_ r fun s => { s with reqs := [r, { r with id := 6, va := 0x20000, kind := .store [(0, 8), (1, 9)], pieces := [{ lane := 1, off := 0, n := 2, first := 0 }] }] }

theorem witness_MemoryEvents_later : (twice_.req? 5).map (fun r => twice_.mayGo r) = some true ∧ ((twice_.req? 5).bind fun r => (twice_.req? 6).map fun q =>
    twice_.sameLine q r && q.seq == r.seq && !q.performed && q.id != r.id) = some true := by decide +kernel

/-- The highest lane's byte stays (R100, R203). -/
theorem test_highest_lane_stays : (next (exec .completion twice_) fun t => t.reqs.map (·.kind) == [.store [(1, 9)]]) = true := by
  decide +kernel

/-- An atomic returns the old value, and a CASWAP that replaces a name lowers its count (R148, R214). -/
theorem test_old_value_lands : let r := req_ (.atom .add 4 1 0) (.mapped 0x40010000 0 0) (regs4_ 4)
    (next (exec .homeSliceAtomic (landing_ r fun s => { s with mem := s.mem.write64 0x40010000 41 })) fun t =>
      (t.rf (.split at0 0)).lane 4 0 == 41 && (t.group at0).sb == []) = true := by decide +kernel

/-- A stored leaf and a stored node with the leaf as its first child. -/
def leaf_ : CaEntry := { digest := 5, index := 0, kind := 1, line := caLineOf fun i => BitVec.ofNat 8 i, count := 2, poisoned := false, place := none }
def node_ : CaEntry := { leaf_ with digest := 6, kind := 2, line := Vector.ofFn fun i => if i.val = 3 then leaf_.name else 0 }
def store_ (s : State) : State := { s with parts := [(2, { Part.reset with cas := [leaf_, node_] })] }

theorem test_caswap_lowers : let r := { req_ (.caswap leaf_.name 0) (.mapped 0x40010000 0 0) (regs4_ 8) with pieces := [{ lane := 0, off := 0, n := 8, first := 0 }] }
    (next (exec .homeSliceAtomic (landing_ r fun s => store_ { s with mem := s.mem.write64 0x40010000 leaf_.name })) fun t =>
      ((t.part 2).entry? leaf_.name).map (·.count) == some 1 && (t.rf (.split at0 0)).pair 4 0 == leaf_.name) = true := by
  decide +kernel

/-- A request to the content store of the small partition. -/
def ca_ (kind : ReqKind) (n size : Nat) : Req :=
  { req_ kind (.mapped 0 0 0) (regs4_ size) with space := .tree, cls := 4, va := 0, pieces := [{ lane := 0, off := 0, n := n, first := 0 }] }

theorem witness_ContentNames_performed : ∀ kind ∈ [ReqKind.caInc leaf_.name, .caDec leaf_.name, .caGet leaf_.name, .caWalk node_.name 1 1 3], let r := ca_ kind 4 4
    let s := landing_ r store_
    s.req? r.id = some r ∧ s.mayGo r = true ∧ s.home r.ctx 0 1 = .act ∧ (s.part r.part).entry? leaf_.name = some leaf_ ∧ leaf_.bad s.poisoned = false ∧
      ({ leaf_ with poisoned := true } : CaEntry).bad s.poisoned = true ∧ (s.part r.part).walkName s.poisoned node_.name 1 1 3 = .name leaf_.name ∧
      ({ s.part r.part with cas := [{ node_ with poisoned := true }] } : Part).walkName s.poisoned node_.name 1 1 3 = .poisoned node_.name := by decide +kernel

theorem witness_ContentNames_pin : let r := { req_ .pin (.mapped 0x40010000 0 0) (regs4_ 8) with cls := 4, pieces := [{ lane := 0, off := 8, n := 8, first := 0 }] }
    (landing_ r).req? r.id = some r ∧ (landing_ r).mayGo r = true ∧ r.pieces.head? = some ⟨0, 8, 8, 0⟩ ∧ (landing_ r).poisoned 0x40010000 = false := by decide +kernel

/-- CAGET of the leaf and CAWALK to it (R254), and the largest count, which stays (R144). -/
theorem test_content_lands : (next (exec .completion (landing_ (ca_ (.caGet leaf_.name) 4 4) store_)) fun t => (t.rf (.split at0 0)).lane 4 0 == 0x03020100) = true ∧
    (next (exec .completion (landing_ (ca_ (.caWalk node_.name 1 1 3) 8 8) store_)) fun t => (t.rf (.split at0 0)).pair 4 0 == leaf_.name) = true ∧
    (next (exec .completion (landing_ (ca_ (.caWalk node_.name 1 1 4) 8 8) store_)) fun t => (t.rf (.split at0 0)).pair 4 0 == 0) = true ∧
    (let p : Part := { Part.reset with cas := [{ leaf_ with count := 0xFFFFFF }] }
     p.inc leaf_.name = p ∧ p.dec leaf_.name = p) := by decide +kernel

/-- An insert of the zero line: no entry, the empty name and status 2 (R142, R253). -/
theorem test_insert_zero : (next (exec .caInsert (landing_ { ca_ (.caInsert 1 CaLine.zero) 12 12 with
      land := .regs 0 1 0 1 [some (.row 4), some (.row 5), some (.row 6)] none 0 12 0 } store_)) fun t =>
    (t.rf (.split at0 0)).lane 6 0 == 2 && (t.rf (.split at0 0)).pair 4 0 == 0 && (t.part 2).cas.length == 2) = true := by decide +kernel

/-- An entry counts once as poisoned (R349). -/
theorem test_poison_counts_once : let p : Part := { Part.reset with cas := [{ leaf_ with place := some 0 }] }
    (p.notePoison fun _ => true).capois = 1 ∧ (((p.notePoison fun _ => true).notePoison fun _ => false).notePoison fun _ => true).capois = 1 ∧
      ((p.notePoison fun _ => true).poisonEntry leaf_.name).capois = 1 := by decide +kernel

/-- A probe of one line that holds the whole access, one whose access begins in the line before, and the page near or far (R90). -/
theorem witness_ProbeAndPrefetch_probe : ∀ tier ∈ [0, 1], let r := req_ (.probe 9) (.mapped 0x40010000 0 tier) (regs4_ 4 (some 2))
    let s := landing_ r
    s.req? r.id = some r ∧ s.mayGo r = true ∧ s.home r.ctx 0 1 = .act ∧ s.walk 3 0x10000 = .leaf 2 0x10000 0xC070000040000000 ∧
      (∀ p ∈ r.pieces, ∀ i, i < p.n → s.poisoned (0x40010000 + p.off + i) = false) ∧ s.jobs = [] ∧
      (∃ p ∈ r.pieces, ∃ i, i < p.n ∧ ({ s with poison := [(0x800200, true)] } : State).poisoned (0x40010000 + p.off + i) = true) ∧
      (let j := { job_ .pageIn with page := 0, ctx := 3 }
       j.kind == .pageIn && j.ctx == r.ctx && j.page == va57 r.va / levelSize 2 * levelSize 2) = true ∧
      ({ r with carry := [(0, none)] } : Req).pieces.filter (fun p => !([(0, none)] : List (Nat × Option (List Byte))).any fun c => c.1 == p.lane && c.2.isNone) = [] := by
  decide +kernel

/-- Near: the value and predicate 1; far: predicate 0 and one page-in of the page (R90, R209). -/
theorem test_probe_tiers : let r (tier : Nat) := req_ (.probe 9) (.mapped 0x40010000 0 tier) (regs4_ 4 (some 2))
    (next (exec .completion (landing_ (r 0) fun s => { s with mem := s.mem.write64 0x40010000 77 })) fun t =>
      (t.rf (.split at0 0)).lane 4 0 == 77 && (t.rf (.split at0 0)).pred 2 == 1 && t.jobs == []) = true ∧
    (next (exec .completion (landing_ (r 1) fun s => { s with mem := s.mem.write64 0x40010000 77 })) fun t =>
      (t.rf (.split at0 0)).lane 4 0 == 0 && (t.rf (.split at0 0)).pred 2 == 0 && t.jobs.map (fun j => (j.page, j.ev)) == [(0, [9])]) = true := by decide +kernel

/-- An endpoint that does not answer: 0xFF in every byte (R354). -/
theorem test_mmio_timeout : (next (exec .mmioReadTimeout (landing_ (req_ .load (.mapped 0x40010000 4 0) (regs4_ 4)))) fun t =>
    (t.rf (.split at0 0)).lane 4 0 == 0xFFFFFFFF && t.reqs == []) = true := by decide +kernel

/-- A node of R257 with no children. -/
def kvNode_ (start len first plist : Nat) (i : Nat) : Byte :=
  (natBytes plist 8 ++ natBytes start 4 ++ natBytes len 4 ++ natBytes first 2 ++ [4, 0]).getD i 0

/-- R258's example: lanes 0, 1 and 3 at nodes 1 and 2. -/
theorem test_kvwalk_example : kvAfter (kvNode_ 40 30 8 0x1040) 0 45 1 none = .load 0x1040 8 1 (some 13) ∧
    kvAfter (kvNode_ 40 25 8 0x1080) 1 64 1 none = .load 0x1090 8 1 (some 0) ∧ kvAfter (kvNode_ 40 25 8 0x1080) 1 69 1 none = .stop 12 [0xFF, 0xFF, 0xFF, 0xFF] ∧
    kvAfter (kvNode_ 40 25 8 0x1080) 1 39 1 none = .stop 12 [0xFE, 0xFF, 0xFF, 0xFF] := by decide +kernel

/-- A walk whose node has come, and the state that holds it. -/
def walk_ : Copy := { copy_ (.kv 0 global_rec 0 5 0 (regs4_ 16) none) with size := 128, buf := [(12, 8), (18, 4)] }
def walks_ : State := { landing_ (req_ .load .needWalk) with arg := .num2 walk_.id 0, copies := [walk_], reqs := [] }

/-- The walk goes on to its page, ends in miss, or leaves the extent. -/
theorem witness_Walks_steps : (walks_.copies.find? fun y => y.id == walk_.id && y.left == 0) = some walk_ ∧ walks_.home walk_.ctx 0 1 = .act ∧
    kvAfter walk_.byte 0 5 0 none = .load 0 8 0 (some 5) ∧ kvAfter walk_.byte 0 9 0 none = .miss := by decide +kernel

theorem witness_Walks_extent : (walks_.kvAddr 3 global_rec 0 8).isSome = true ∧ walks_.kvAddr 3 (rec_ 0 4 0 1) 0 8 = none := by decide +kernel

/-- An FP8 entry of scale -0.5 carries 448 x 0.5 = 224 (R125). -/
theorem test_fp8_magnitude : (entry_ 1 true 0x0C).magnitude 0xBF000000 [] = 0x406C000000000000 ∧
    Fp.cmp (f64 0x406C000000000000) (.fin false 224 0) = .eq := by decide +kernel

end Sys2Proof.Tests
end

section
/-! PROOFS. Predicates, lane exchange and the window base (spec/09_isa_scalar.md R188, R193 to R196): each instruction is one of the
shared result operations of the instruction in hand, so its statement follows from the law of that operation and from what
the instruction in hand reads. -/

namespace Sys2Proof

/-- A field whose bits from bit `k` up are required to be 0 holds a value below 2^k (R153, R154). -/
theorem toNat_lt_of_zero {n k m : Nat} {x : BitVec n} (h : zero x m = true) (hm : ∀ i < n, k ≤ i → m.testBit i = true) :
    x.toNat < 2 ^ k := by
  by_contra hlt
  obtain ⟨i, hi, hbit⟩ := Nat.exists_ge_and_testBit_of_ge_two_pow (Nat.not_lt.1 hlt)
  have hx : x.getLsbD i = true := hbit
  have hin : i < n := BitVec.lt_of_getLsbD hx
  have hand : x &&& BitVec.ofNat n m = 0 := by simpa [zero] using h
  have : (x &&& BitVec.ofNat n m).getLsbD i = true := by
    simp [BitVec.getLsbD_ofNat, hx, hin, hm i hin hi]
  rw [hand] at this
  simp at this

/-- A word that may name no latch names none (R153). -/
theorem RWord.latch_false_of_latchOk {w : RWord} (h : w.latchOk false false false = true) : w.la = false ∧ w.lb = false := by
  unfold RWord.latchOk at h
  simp only [Bool.false_and, Bool.or_false, Bool.and_eq_true, Bool.not_eq_true'] at h
  exact h.1

/-- The fields of a well-formed word of the predicate logic: no latches, and predicates below 8 (R158, R194). -/
theorem RWord.predicate_fields {p : Pre} {w : RWord} {m : Nat}
    (h : (p.okE false 1 1 0 1 && zero w.d 0x78 && zero w.a 0x78 && zero w.b m && w.latchOk false false false) = true) :
    w.la = false ∧ w.lb = false ∧ w.d.toNat < 8 ∧ w.a.toNat < 8 ∧ zero w.b m = true := by
  simp only [Bool.and_eq_true] at h
  obtain ⟨⟨⟨⟨-, hd⟩, ha⟩, hb⟩, hl⟩ := h
  obtain ⟨hla, hlb⟩ := RWord.latch_false_of_latchOk hl
  exact ⟨hla, hlb, toNat_lt_of_zero (k := 3) hd (by decide), toNat_lt_of_zero (k := 3) ha (by decide), hb⟩

/-- The lane number of a shuffle with an immediate, and the base of a WBASE, is below 32 (R188, R195). -/
theorem IWord.imm_lt_of_zero {w : IWord} (h : zero w.imm 0x3e0 = true) : w.imm.toNat < 32 :=
  toNat_lt_of_zero (k := 5) h (by decide)

namespace Machine

/-- What an instruction reads as its predicate operand once it is in hand (R194). -/
theorem State.issued_predOf {s : State} {i : Instr} (h : s.hasIssuer = true) (f : BitVec 7) :
    (s.issued i).predOf f = (s.rf s.cur).pred (f.setWidth 3) := by
  unfold Iss.predOf
  rw [State.issued_rf h]

/-- The lane that a shuffle in hand reads is the one that `shuffleFrom` names (R195). -/
theorem State.issued_from? {s : State} {i : Instr} (h : s.hasIssuer = true) (j : Int) (l : Nat) :
    (s.issued i).from? j l = shuffleFrom (s.activeFor i) j l := by
  unfold Iss.from? shuffleFrom
  rw [State.issued_active h]

/-- An instruction whose meaning is a 32-bit result of what it reads in hand gives that result (R182). -/
theorem State.gives32_of_exec {s : State} {i : Instr} {nw : Bool} {d : BitVec 7} {v : Nat → Word} {f : Iss → Nat → Word}
    (he : exec i s = s.perform i fun c => .next (c.result nw d (f c))) (hv : s.hasIssuer = true → f (s.issued i) = v) :
    s.gives32 i nw d v := by
  intro h
  refine ⟨_, he.trans (State.perform_of_mayIssue h _), ?_⟩
  rw [hv h.1]
  exact State.wrote_result h nw d v

/-- An instruction whose meaning is a predicate of what it reads in hand gives that predicate (R182). -/
theorem State.givesPred_of_exec {s : State} {i : Instr} {nw : Bool} {d : BitVec 7} {v : Mask} {f : Iss → Mask}
    (he : exec i s = s.perform i fun c => .next (c.resultPred nw d (f c))) (hv : s.hasIssuer = true → f (s.issued i) = v) :
    s.givesPred i nw d v := by
  intro h
  refine ⟨_, he.trans (State.perform_of_mayIssue h _), ?_⟩
  rw [hv h.1]
  exact State.wrote_resultPred h nw d v

/-- An instruction of no latch family leaves the latches as it read them (R50, R53). -/
theorem State.wrote_regs {s : State} {i : Instr} (h : s.mayIssue i) (rf : RegFile) :
    s.wrote rf s.readLatches s.gens ((s.issued i).regs rf) := by
  unfold Iss.regs
  rw [State.issued_b]
  refine State.wrote_put h rf _ ?_
  rintro ⟨c, b, t, hc⟩
  simp only [State.readLatches, hc]

/-- An instruction whose meaning in hand is to write these registers gives them (R50). -/
theorem State.givesRegs_of_exec {s : State} {i : Instr} {rf : RegFile} {f : Iss → Answer}
    (he : exec i s = s.perform i f) (hv : s.hasIssuer = true → f (s.issued i) = .next ((s.issued i).regs rf)) : s.givesRegs i rf := by
  intro h
  exact ⟨_, (he.trans (State.perform_of_mayIssue h f)).trans (hv h.1), State.wrote_regs h rf⟩

/-! ### Predicates -/

/-- The truth value that a vote gives every lane (R196). -/
theorem maskAll_eq_ite {b : Bool} {q : Prop} [Decidable q] (h : b = true ↔ q) : maskAll b = if q then 0xFFFFFFFF else 0 := by
  unfold maskAll
  exact if_congr h rfl rfl

/-- A compare of two operands reads them as the statements of R words do (R153, R193). -/
theorem State.issued_compare {s : State} {i : Instr} (h : s.hasIssuer = true) (w : RWord) (cond : Word → Word → Bool) :
    (maskOf fun l => cond ((s.issued i).opA w l) ((s.issued i).opB w l)) = maskOf fun l => cond (s.valA w l) (s.valB w l) := by
  simp only [State.issued_opA h, State.issued_opB h]

/-- Settles O16: each instruction's result in hand is the predicate that R193, R194 or R196 names, of the operands that it reads as it
issues; the fields of the predicate logic follow from its reserved bits. -/
theorem predicateResults : Obligations.PredicateResults := by
  refine ⟨fun p w => ⟨rfl, rfl, rfl, rfl, rfl, fun i hi hwf => ?_, fun i hi hwf => ?_⟩, fun s p w => ?_, fun s p w => ?_, fun s p w => ?_,
    fun s p w => ?_, fun s p w => ?_, fun s p w => ?_⟩
  · obtain ⟨m, hm, h⟩ : ∃ m, (∀ k < 7, 3 ≤ k → m.testBit k = true) ∧
        (p.okE false 1 1 0 1 && zero w.d 0x78 && zero w.a 0x78 && zero w.b m && w.latchOk false false false) = true := by
      simp only [List.mem_cons, List.not_mem_nil, or_false] at hi
      rcases hi with rfl | rfl | rfl | rfl | rfl
      · exact ⟨0x78, by decide, hwf⟩
      · exact ⟨0x78, by decide, hwf⟩
      · exact ⟨0x78, by decide, hwf⟩
      · exact ⟨0x7f, by decide, hwf⟩
      · exact ⟨0x7f, by decide, hwf⟩
    obtain ⟨hla, hlb, hd, ha, hb⟩ := RWord.predicate_fields h
    exact ⟨hla, hlb, hd, ha, toNat_lt_of_zero (k := 3) hb hm⟩
  · have h : (p.okE false 1 1 0 1 && zero w.d 0x78 && zero w.a 0x78 && zero w.b 0x7f && w.latchOk false false false) = true := by
      simp only [List.mem_cons, List.not_mem_nil, or_false] at hi
      rcases hi with rfl | rfl <;> exact hwf
    obtain ⟨-, -, -, -, hb⟩ := RWord.predicate_fields h
    have : w.b.toNat < 2 ^ 0 := toNat_lt_of_zero hb (by decide)
    exact BitVec.eq_of_toNat_eq (Nat.lt_one_iff.1 this)
  · exact State.givesPred_of_exec rfl fun h => State.issued_compare h w (condI32 (ccOf w.d))
  · exact State.givesPred_of_exec rfl fun h => State.issued_compare h w (condN32 (ccOf w.d))
  · exact State.givesPred_of_exec rfl fun h => State.issued_compare h w (condF32 (ccOf w.d))
  · exact State.givesPred_of_exec rfl fun h => by rw [State.issued_rf h]; rfl
  · exact State.givesPred_of_exec rfl fun h => by rw [State.issued_rf h]; rfl
  · refine ⟨State.givesPred_of_exec rfl fun h => ?_, State.givesPred_of_exec rfl fun h => ?_, State.givesPred_of_exec rfl fun h => ?_,
      State.givesPred_of_exec rfl fun h => ?_, State.givesPred_of_exec rfl fun h => ?_, State.givesPred_of_exec rfl fun h => ?_,
      State.givesPred_of_exec rfl fun h => ?_, State.givesPred_of_exec rfl fun h => ?_⟩
    · rw [State.issued_predOf h, State.issued_predOf h]
    · rw [State.issued_predOf h, State.issued_predOf h]
    · rw [State.issued_predOf h, State.issued_predOf h]
    · rw [State.issued_predOf h]
    · rw [State.issued_predOf h]
    · rw [State.issued_predOf h, State.issued_active h]
      exact maskAll_eq_ite bne_iff_ne
    · rw [State.issued_predOf h, State.issued_active h]
      exact maskAll_eq_ite beq_iff_eq
    · rw [State.issued_predOf h, State.issued_active h]
      exact maskAll_eq_ite (by simp only [Bool.or_eq_true, beq_iff_eq])

/-! ### Lane exchange -/

/-- A shuffle of two registers gives each lane A of the lane that R195 names. -/
theorem State.gives32_shfl {s : State} {i : Instr} {w : RWord} (k : Shuffle)
    (he : exec i s = s.perform i fun c => .next (c.shfl w k)) :
    s.gives32 i w.nw w.d fun l => s.valA w (shuffleFrom (s.activeFor i) (shuffleLane k l ((s.valB w l).toNat % 32)) l) :=
  State.gives32_of_exec he fun h => by simp only [State.issued_opA h, State.issued_opB h, State.issued_from? h]

/-- A shuffle with an immediate gives each lane A of the lane that R195 names. -/
theorem State.gives32_shfli {s : State} {i : Instr} {p : Pre} {w : IWord} (k : Shuffle)
    (he : exec i s = s.perform i fun c => .next (c.shfli p w k)) :
    s.gives32 i false w.d fun l => (s.rf s.cur).lane w.a (shuffleFrom (s.activeFor i) (shuffleLane k l (uimm p w).toNat) l) :=
  State.gives32_of_exec he fun h => by simp only [State.issued_rf h, State.issued_from? h]

/-- A REDUX gives every active lane the combination of A over the active lanes (R196). -/
theorem State.gives32_redux {s : State} {i : Instr} {w : RWord} (f : Word → Word → Word)
    (he : exec i s = s.perform i fun c => .next (c.redux w f)) :
    s.gives32 i w.nw w.d fun _ =>
      match (lanesOf (s.activeFor i)).map (s.valA w) with
      | [] => 0
      | x :: xs => xs.foldl f x := by
  refine State.gives32_of_exec he fun h => ?_
  have hA : (s.issued i).opA w = s.valA w := funext (State.issued_opA h w)
  funext _
  rw [Iss.combine, State.issued_active h, hA] <;> rfl

/-- Settles O17: the shuffles, BALLOT and the REDUX forms are 32-bit results in hand; the immediate of a shuffle is below 32 by its
reserved bits. -/
theorem laneExchange : Obligations.LaneExchange := by
  refine ⟨fun p w => ⟨rfl, rfl, rfl, rfl⟩, fun p w => ⟨rfl, rfl, rfl, rfl, fun i hi hwf => ?_⟩, fun s p w => ?_, fun s p w => ?_,
    fun s p w => ?_, fun s p w => ?_⟩
  · have h : (p.okX 0 && zero w.imm 0x3e0) = true := by
      simp only [List.mem_cons, List.not_mem_nil, or_false] at hi
      rcases hi with rfl | rfl | rfl | rfl <;> exact hwf
    exact IWord.imm_lt_of_zero (Bool.and_eq_true_iff.1 h).2
  · exact ⟨State.gives32_shfl .idx rfl, State.gives32_shfl .up rfl, State.gives32_shfl .down rfl, State.gives32_shfl .xor rfl⟩
  · exact ⟨State.gives32_shfli .idx rfl, State.gives32_shfli .up rfl, State.gives32_shfli .down rfl, State.gives32_shfli .xor rfl⟩
  · exact State.gives32_of_exec rfl fun h => by rw [State.issued_predOf h, State.issued_active h]
  · exact ⟨State.gives32_redux _ rfl, State.gives32_redux _ rfl, State.gives32_redux _ rfl, State.gives32_redux _ rfl,
      State.gives32_redux _ rfl, State.gives32_redux _ rfl, State.gives32_redux _ rfl, State.gives32_redux _ rfl⟩

/-! ### The window base -/

/-- WBASE.r in hand (R188, R323): by whether a lane is active, and whether its value is a window base. -/
def Iss.wbaseR (c : Iss) (w : SWord) (s : State) : Answer :=
  match lowest c.active with
  | none => .next (c.regs c.rf)
  | some l => if 31 < (c.rf.lane w.a l).toNat then c.illegal s else .next (c.regs { c.rf with wbase := (c.rf.lane w.a l).toNat })

/-- WBASE.r does what it does in hand. -/
theorem exec_wbaseR (p : Pre) (w : SWord) (s : State) : exec (.wbaseR p w) s = s.perform (.wbaseR p w) fun c => c.wbaseR w s := rfl

/-- WBASE.r without an active lane leaves the registers (R188). -/
theorem Iss.wbaseR_of_none {c : Iss} (w : SWord) (s : State) (h : lowest c.active = none) : c.wbaseR w s = .next (c.regs c.rf) := by
  unfold Iss.wbaseR
  rw [h]

/-- WBASE.r with a value up to 31 in the lowest active lane makes it the base (R188). -/
theorem Iss.wbaseR_of_le {c : Iss} {w : SWord} (s : State) {l : Nat} (h : lowest c.active = some l) (hv : (c.rf.lane w.a l).toNat ≤ 31) :
    c.wbaseR w s = .next (c.regs { c.rf with wbase := (c.rf.lane w.a l).toNat }) := by
  unfold Iss.wbaseR
  rw [h]
  exact if_neg (Nat.not_lt.2 hv)

/-- WBASE.r with a value above 31 in the lowest active lane is illegal (R323). -/
theorem Iss.wbaseR_of_gt {c : Iss} {w : SWord} (s : State) {l : Nat} (h : lowest c.active = some l) (hv : 31 < (c.rf.lane w.a l).toNat) :
    c.wbaseR w s = c.illegal s := by
  unfold Iss.wbaseR
  rw [h]
  exact if_pos hv

/-- The illegal-instruction trap of a split that may trap (R301, R303, R320). -/
theorem State.issued_illegal {s : State} {i : Instr} {g : GroupAt} {sid : Nat} (h : s.hasIssuer = true) (hc : s.cur = .split g sid)
    (ht : s.canTrap g sid) :
    ∃ t, (s.issued i).illegal s = .next t ∧ (s.trapping g sid).entersTrap g sid 1 s.iword (s.activeFor i) (s.sp s.cur).pc t := by
  unfold Iss.illegal
  rw [State.issued_active h, State.issued_pc h]
  exact State.trap_entered hc ht 1 s.iword (s.activeFor i) (s.sp s.cur).pc

/-- Settles O20: the cases of R188 and R323 by the lowest active lane and its value. -/
theorem windowBase : Obligations.WindowBase := by
  refine ⟨fun p w hwf => ?_, fun s p w => ?_, fun s p w hl => ?_, fun s p w l hl hv => ?_, fun s p w l g sid hl hv hm hc ht => ?_⟩
  · have h : (p.okX 0 && zero w.d 0x7f && zero w.a 0x7f && zero w.imm 0x3e0) = true := hwf
    exact Nat.le_of_lt_succ (IWord.imm_lt_of_zero (Bool.and_eq_true_iff.1 h).2)
  · refine State.givesRegs_of_exec (f := fun c => .next (c.regs (if c.active == 0 then c.rf else { c.rf with wbase := w.imm.toNat }))) rfl
      fun h => ?_
    simp only [State.issued_active h, State.issued_rf h, beq_iff_eq]
  · refine State.givesRegs_of_exec (exec_wbaseR p w s) fun h => ?_
    rw [Iss.wbaseR_of_none w s (by rw [State.issued_active h]; exact hl), State.issued_rf h]
  · refine State.givesRegs_of_exec (exec_wbaseR p w s) fun h => ?_
    rw [← State.issued_active (i := .wbaseR p w) h] at hl
    rw [← State.issued_rf (i := .wbaseR p w) h] at hv ⊢
    exact Iss.wbaseR_of_le s hl hv
  · have h := hm.1
    rw [← State.issued_active (i := .wbaseR p w) h] at hl
    rw [← State.issued_rf (i := .wbaseR p w) h] at hv
    rw [exec_wbaseR, State.perform_of_mayIssue hm, Iss.wbaseR_of_gt s hl hv]
    exact State.issued_illegal h hc ht

end Machine
end Sys2Proof
end
